-- ==== Sys2Proof/Word.lean ====
section
/-! DEFINITION. The words the model is written in: bytes, bus words, and the type of a sparse table. -/

namespace Sys2Proof

abbrev Byte := BitVec 8
abbrev W16 := BitVec 16
abbrev W32 := BitVec 32
abbrev W64 := BitVec 64

/-- A sparse table: key and value pairs, keys strictly rising, no pair whose value is the table's
default there. `Host.Cell` lists (address, byte) are the case `Tab Byte`. -/
abbrev Tab (α : Type) := List (Nat × α)

/-- Logical Vat (R12). -/
abbrev VatId := Fin 16
/-- Physical Vat position (R12). -/
abbrev PhysId := Fin 18
/-- Program context (R114). -/
abbrev CtxId := Fin 4
/-- Wagon stream (R249). -/
abbrev StreamId := Fin 64
/-- Partition (R14). -/
abbrev PartId := Fin 16
/-- PCIe function (R278). -/
abbrev FuncId := Fin 64
/-- Thresher port (R402). -/
abbrev PortId := Fin 18
/-- KVX destination (R329). -/
abbrev DestId := Fin 4096
/-- Entry of Reeve's request table (R284). -/
abbrev ReqId := Fin 4096
/-- Sheaf definition (R440). -/
abbrev SheafId := Fin 1024
/-- HBM stack (R266). -/
abbrev StackId := Fin 6

end Sys2Proof
end

