-- ==== Sys2Proof/Syntax.lean ====
section
/-! DEFINITION. The commands of the block: `Instr`, one constructor for each row of
spec/opcode_table.json, and the types of their operands. Each docstring names the row and its rule. -/

namespace Sys2Proof

/-- A master of the register bus (R581). `host f` is PCIe function `f`; `thrA` and `thrB` carry the
REG packets of ports 0-8 and 9-17. -/
inductive Master
  | host (f : FuncId) | mgmt | tap | thrA | thrB | reeve
  deriving DecidableEq, Repr

/-- One register write as it reaches the register bus (R571, R583): `size` is the access in bytes. -/
structure RegWrite where
  master : Master
  off : BitVec 26
  size : Nat
  val : W64
  deriving DecidableEq, Repr

/-- The units that have no spare and no retirable container, in the order of their bits in ERR_DEGRADED.OUT (R518, R542). -/
inductive OutUnit
  | thresher | kvx | pfx | host | regBus | alwaysOn
  deriving DecidableEq, Repr

/-- What the hardware does to a register in the cycle of the writes it meets (R584): it sets W1C bits, adds 1 to the
counters whose lowest bits are given, its block reaches its boundary or leaves idle, a counter snapshot is taken (R619), or a
unit fails lastingly (R518). -/
inductive HwUpdate
  | sets (off : BitVec 26) (bits : W64)
  | counts (off : BitVec 26) (bits : W64)
  | boundary (off : BitVec 26)
  | leavesIdle (off : BitVec 26)
  | snapshot
  | unitLost (u : OutUnit)
  deriving DecidableEq, Repr

/-- The writes that reach the register bus in one cycle (R583), and the hardware updates that meet them (R584). -/
structure BusCycle where
  writes : List RegWrite
  hw : List HwUpdate := []
  deriving DecidableEq, Repr

/-- What the SECDED check of a Cellar row finds (R204, R231); `reappeared`: a corrected error back at the same bit. -/
inductive Ecc
  | clean | corrected | reappeared | rereadClean | lasting
  deriving DecidableEq, Repr

/-- A hardware fault that falls within a Vat instruction (R86, R89, R204, R221). `curdAdder ok`: the
duplicated Curd adders disagree, and the retry passes or not; `rindAgain`: the recomputed row
disagrees again; `skim bank again`: a Skim group check fails once or twice. -/
inductive VatFault
  | curdCorrected | curdDouble | curdAdder (ok : Bool)
  | rindOnce | rindAgain
  | skim (bank : Fin 128) (row : Fin 1024) (again : Bool)
  | row (r : BitVec 17) (e : Ecc)
  deriving DecidableEq, Repr

/-- How one execution of a Vat instruction goes, where time and hardware decide: `leave`: the tile
boundary inside the instruction (R85), counted from 0, at which a pause, an abort or a context switch
that is due takes it; `faults`: hardware faults, each with the boundary it precedes. -/
structure Run where
  leave : Option Nat
  faults : List (Nat × VatFault)
  deriving DecidableEq, Repr

/-- One checksum comparison (R94): the two FP32 sums and the magnitude term. -/
structure Check where
  got : W32
  ref : W32
  t : W32
  deriving DecidableEq, Repr

/-- The checks of one attempt at a segment: token checks (R92) with token and Plate, row checks (R93)
with Plate and lane position. -/
structure Attempt where
  tokens : List (Nat × Fin 4 × Check)
  rows : List (Fin 4 × Fin 259 × Check)
  deriving DecidableEq, Repr

/-- One staged result of a segment: the Curd slot and column it goes to, the value, and how it commits, as
R133 numbers them (R65, R86): 0 stores, 1 adds, 2 stores it with an error of +0 in the next slot, 3 adds it
by TwoSum. -/
structure SegWrite where
  slot : Fin 4096
  col : Fin 256
  val : W32
  how : Fin 4
  deriving DecidableEq, Repr

/-- A pressing segment awaiting its verdict (R80, R94): its checks, those of its retry, should there be
one (R96), its staged results and the flags it raised. -/
structure Segment where
  ctx : CtxId
  first : Attempt
  again : Attempt
  writes : List SegWrite
  flags : BitVec 4
  deriving DecidableEq, Repr

/-- What the die-network stop finds in a flit (R22). -/
inductive FlitErr
  | none | single | double | header
  deriving DecidableEq, Repr

/-- The fuse array as one read of it returns (R479). -/
structure Fuses where
  trim : BitVec 1024
  opt : W32
  serial : W64
  vatDis : BitVec 18
  laneDis : BitVec 360
  bankDis : BitVec 576
  keyHash : BitVec 384
  secState : BitVec 2
  deriving DecidableEq, Repr

/-- A native fabric packet (R409); LEN is the length of `data`, and bits 7:3 of FLAGS are zero. `port` is the port it came by. -/
structure Pkt where
  port : PortId
  kind : BitVec 4
  vc : BitVec 3
  dl : Bool
  flags : BitVec 3
  dst : W16
  src : W16
  addr : W64
  tag : W16
  ctx : W16
  aux : W32
  aux2 : W64
  data : List Byte
  deriving DecidableEq, Repr

/-- A link frame (R411): its seven data flits, each idle or a flit of a packet with its place in it, then what its control flit
carries: sequence number, last frame received in order, NAK bit, credits returned by channel and DL (place 2c + DL), the
CRC-32C; `fec`: no codeword was uncorrectable. -/
structure Frame where
  flits : List (Option (Pkt × Nat))
  seq : BitVec 12
  ack : BitVec 12
  nak : Bool
  credits : List Nat
  fec : Bool
  crc : W32
  deriving DecidableEq, Repr

/-- Where a Sheaf packet belongs (R452): definition, OPSEQ, sending module. -/
structure ShHead where
  defn : SheafId
  opseq : W16
  src : W16
  deriving DecidableEq, Repr

/-- A chunk of Sheaf DATA packets (R451, R452): step, chunk within the stream, block exponents of an
S16 chunk, payload in wire order, CRC of its LAST packet. -/
structure ShChunk where
  head : ShHead
  step : W16
  chunk : W16
  ebs : List Byte
  data : List Byte
  crc : W32
  deriving DecidableEq, Repr

/-- The classes of the SEC command buffers (R536). -/
inductive SecClass
  | mgmt | host | fabric
  deriving DecidableEq, Repr

/-- The kind of a RoCEv2 NAK (R335, R338). -/
inductive RoceNak
  | sequence | remoteAccess | remoteOperation | invalidRequest | rnr (timer : BitVec 5)
  deriving DecidableEq, Repr

/-- A PCIe configuration request (R477, R569). -/
inductive CfgReq
  | read | setNumVfs (n : Nat) | setVfEnable (b : Bool) | other
  deriving DecidableEq, Repr

/-- A read of HBM by the patrol scrub (R514): clean, corrected, clean on re-read, or failing again, where the stack has
repair resources left or none. -/
inductive Patrol
  | clean | corrected | rereadClean | failed (resources : Bool)
  deriving DecidableEq, Repr

/-- Who writes a destination's CREDIT (R331): a register-bus master, or a native destination's fabric
packet from a module. -/
inductive CreditSrc
  | bus (m : Master) | fabric (module : W16)
  deriving DecidableEq, Repr

/-- One candidate of a candidate row (R377): token id and masked logit. -/
abbrev Cand := W32 × W32

/-- The commands, one constructor for each row of spec/opcode_table.json, in the table's order. -/
inductive Instr
  -- Vat instructions and the sequencer
  | tile (v : VatId) (c : CtxId) (run : Run)
  | segmentVerdict (v : VatId) (seg : Segment)
  | mould (v : VatId) (c : CtxId) (run : Run)
  | press (v : VatId) (c : CtxId) (run : Run)
  | drain (v : VatId) (c : CtxId) (run : Run)
  | drainFill (v : VatId) (c : CtxId) (run : Run)
  | attn (v : VatId) (c : CtxId) (run : Run)
  | rind (v : VatId) (c : CtxId) (run : Run)
  | skim (v : VatId) (c : CtxId) (run : Run)
  | wagon (v : VatId) (c : CtxId)
  | semw (v : VatId) (c : CtxId)
  | semp (v : VatId) (c : CtxId)
  | fence (v : VatId) (c : CtxId)
  | loop (v : VatId) (c : CtxId)
  | endl (v : VatId) (c : CtxId)
  | brc (v : VatId) (c : CtxId)
  | tick (v : VatId) (c : CtxId)
  | halt (v : VatId) (c : CtxId)
  | flags (v : VatId) (c : CtxId)
  | seed (v : VatId) (c : CtxId)
  | contextSwitch (v : VatId)
  | ctxStart (m : Master) (v : VatId) (c : CtxId) (val : W64)
  | ctxPause (m : Master) (v : VatId) (c : CtxId) (val : W64)
  | ctxPauseEffect (v : VatId) (c : CtxId)
  | ctxResume (m : Master) (v : VatId) (c : CtxId) (val : W64)
  | ctxAbort (m : Master) (v : VatId) (c : CtxId) (val : W64)
  | ctxAbortEffect (v : VatId) (c : CtxId)
  | semaphoreCycle (v : VatId)
  /-- The `n`-th die-network packet in flight, a remote post, arrives. -/
  | remotePost (n : Nat)
  | semWrite (m : Master) (v : VatId) (empty : Bool) (i : Fin 64) (val : W64)
  | arrivalWrite (m : Master) (v : VatId) (i : Fin 256) (val : W64)
  | vatZeroingDone (v : VatId)
  -- Wagons
  | batchHeaderFetch (v : VatId) (s : StreamId)
  | descriptorHead (v : VatId) (s : StreamId)
  | descriptorStart (v : VatId) (s : StreamId)
  | descriptorComplete (v : VatId) (s : StreamId)
  | chunkGrant (v : VatId)
  /-- The timeout of the `n`-th tag in the pool's use expires. -/
  | tagTimeout (n : Nat)
  | streamReset (m : Master) (v : VatId) (s : StreamId) (val : W64)
  | streamWaitLate (v : VatId) (c : CtxId)
  | deadlineMiss (v : VatId) (c : CtxId)
  | dnetPacketArrival (n : Nat) (e : FlitErr)
  -- Cellars
  | bankCopyDone (v : VatId) (i : Fin 4)
  | dirtyScrubDone (v : VatId)
  | backgroundScrub (v : VatId) (r : BitVec 17) (e : Ecc)
  | groupPowerOn (v : VatId) (g : Fin 4)
  | groupPowerOff (v : VatId) (g : Fin 4)
  | groupClockStart (v : VatId) (g : Fin 4)
  /-- `late`: 100 µs have passed since CLOSING was entered. -/
  | groupCloseDone (v : VatId) (g : Fin 4) (late : Bool)
  -- Requests and Reeve
  | doorbell (f : FuncId) (off : BitVec 12) (size : Nat) (val : W32)
  | ringEnable (m : Master) (f : FuncId) (val : W64)
  | ringDisable (m : Master) (f : FuncId) (val : W64)
  | ringNop (f : FuncId)
  | ringEntrySkipped (f : FuncId)
  | submit (f : FuncId)
  | cancel (f : FuncId)
  | pause (f : FuncId)
  | pauseEffect (r : ReqId)
  | resume (f : FuncId)
  /-- `ok`: the host read raised no PCIe error (R352). -/
  | restoreDone (r : ReqId) (ok : Bool)
  | packWaitExpiry (p : PartId)
  | passStart (p : PartId)
  /-- The first-token logits of each member whose last pass this is (R373). -/
  | passCommit (p : PartId) (logits : List (ReqId × List W32))
  /-- Insertion of the entry `i` of group `g`'s index ends; `cache` is the copied cache. -/
  | pfxInsertDone (g : Fin 16) (i : Nat) (cache : List Byte)
  | preemption (r : ReqId)
  | spill (r : ReqId)
  | spillWriteDone (r : ReqId) (ok : Bool)
  | spillExpiry (r : ReqId)
  | budgetRefill
  /-- The oldest tail step's wait in µs, group by group (R303). -/
  | dutyEvaluation (waits : List Nat)
  | heartbeat
  /-- The failure's code, and the Vat concerned (R304). -/
  | requestRerun (p : PartId) (code : Byte)
  | vatSubstitution (v : VatId)
  /-- For each request that drafts with the resident model: for each node, the logits that the model's step computes (R387,
  R388). -/
  | tailStepStart (p : PartId) (drafts : List (ReqId × List (List W32)))
  /-- The logits of the request's positions, node by node (R377, R389). -/
  | tokenSelect (r : ReqId) (zs : List (List W32))
  | specCompactionDone (r : ReqId)
  | tailStepCommit (p : PartId)
  | mboxQuery
  | mboxVersion
  | mboxStats
  | mboxBudgetAdjust
  | mboxCancelFunction
  | gramEnable (m : Master) (g : Fin 256) (val : W64)
  | gramDisable (m : Master) (g : Fin 256) (val : W64)
  -- KVX
  /-- The cache rows of the record's tokens as read from module memory, K rows then V rows (R320), and
  whether a row was read poisoned (R515). -/
  | kvxRecordSend (d : DestId) (krows vrows : List (List W16)) (poison : Bool)
  | creditWrite (src : CreditSrc) (d : DestId) (val : W64)
  | creditTimeout (d : DestId)
  | destEnable (m : Master) (d : DestId) (val : W64)
  | destDisable (m : Master) (d : DestId) (val : W64)
  | roceAck (d : DestId) (psn : BitVec 24)
  | roceNak (d : DestId) (k : RoceNak) (psn : BitVec 24)
  | roceAckTimeout (d : DestId)
  | cnpReceive (d : DestId)
  | rateStep (d : DestId)
  | roceRequestIn (x : Fin 2)
  -- The fabric
  /-- A ring-break notice for dimension `dim` (0 DX, 1 DY, 2 BX, 3 BY): the break lies after coordinate
  `pos`; `withdraw` takes it back (R418). -/
  | ctrlRingBreak (dim : Fin 4) (pos : Fin 32) (withdraw : Bool)
  | memWrite (pkt : Pkt)
  | winWrite (pkt : Pkt)
  | getReq (pkt : Pkt)
  | getData (pkt : Pkt)
  | fabricAck (pkt : Pkt)
  | fabricNak (pkt : Pkt)
  | getReissue (v : VatId)
  /-- A REG packet: register offset, write or read, value (R421). -/
  | regPacket (pkt : Pkt) (write : Bool) (off : BitVec 26) (val : W64)
  | regRsp
  /-- Two timestamps each way: sent and received by the master, received and sent here (R428). -/
  | tsync (t1 t2 t3 t4 : W64)
  | tsyncExchange
  | timeHoldover
  | frameReceive (p : PortId) (f : Frame)
  /-- `ok`: training succeeds (R412); `far`: the module and port that the partner sends in it (R404). -/
  | portRetrain (p : PortId) (ok : Bool) (far : W16 × BitVec 5)
  | linkTrainingDone (p : PortId) (ok : Bool) (partner : W16) (pport : BitVec 5)
  /-- `partnerOk`: the partner agrees and its spare is free (R416). -/
  | spareTakeover (p : PortId) (partnerOk : Bool)
  | portRetryTrain (p : PortId)
  | rampStep (p : PortId)
  | spareChannelReturn (vc : Fin 8)
  | windowCloseDone (v : VatId) (w : Fin 256)
  | bseqGrant
  | bseqTimeout
  | bpresLoss (slot : Fin 8)
  -- Sheafs
  | sheafLaunch (f : FuncId) (val : W64)
  | sheafOpStart (d : SheafId)
  | hello (h : ShHead) (hash : BitVec 128) (mismatched : Bool)
  | go (h : ShHead)
  | mismatch (h : ShHead)
  | sheafData (k : ShChunk)
  | chunkAck (h : ShHead) (step chunk : W16)
  | chunkNak (h : ShHead) (step chunk : W16)
  | sheafDone (h : ShHead) (flags : BitVec 4) (members : Nat)
  | sheafCommit (h : ShHead) (flags : BitVec 4)
  | sheafAbort (h : ShHead) (code reason : Byte)
  | stepDeadline (d : SheafId)
  | doneTimeout (d : SheafId)
  | pauseReq (h : ShHead)
  | sheafPause (h : ShHead)
  | resumeReq (h : ShHead)
  | sheafResume (h : ShHead)
  -- Power-up and reset
  | inputPowerUp
  | powerGood (slot : BitVec 3) (bpos : BitVec 13)
  | fuseReadDone (a b : Fuses)
  /-- `probe`: the SFDP probe answers; `octal`: the octal read returned the flash's bytes (R481). -/
  | imageCheckDone (probe octal : Bool)
  /-- The physical Vats that fail their self-test (R489), and whether the Skim self-tests pass. -/
  | layoutApply (bad : List PhysId) (skimOk : Bool)
  /-- The HBM stacks that training leaves unusable (R477). -/
  | release (bad : List StackId)
  | phaseLimitExpiry
  | mrstNAssert
  | mrstNRelease
  | wdtKick (m : Master) (val : W64)
  | wdtExpiry
  | lockstepMismatch
  | secViolation
  -- Power and temperature
  /-- Input voltage in mV; `long`: below 21.0 V for more than 100 µs (R544). -/
  | inputExcursion (mv : Nat) (long : Bool)
  /-- Raw estimates of the five groups, the throughput and fixed classes' shares of the calibrated
  estimate, in W; input voltage in mV, current in 10 mA; `valid`: no sample of the 10 µs was invalid (R546, R551). -/
  | powerEvaluation (raw : List Nat) (pt pf mv ci : Nat) (valid : Bool)
  /-- Mean raw estimates and measured power over 1 ms, in W; `valid`: no sample was invalid (R548). -/
  | calibration (a : List Nat) (p : Nat) (valid : Bool)
  | fixedFloorUpdate (w : W16)
  /-- The 52 readings, signed, in units of 1/16 °C (R557). -/
  | thermalSample (t : List W16)
  | thermalStep
  | thermTrip (sensor : Fin 46)
  | droopStretch (i : Fin 65)
  | droopEnd (i : Fin 65)
  -- Critical commands
  | cmdResetSystem (k : SecClass)
  | cmdResetCore (k : SecClass)
  | cmdResetPartition (k : SecClass)
  | relayout (k : SecClass)
  /-- `selfTest`: the self-tests of the reinstated positions pass (R493). -/
  | relayoutApply (selfTest : Bool)
  | keyChangeSlot (k : SecClass)
  | keyChangeTenant (k : SecClass)
  | enrolment
  | powerCap (k : SecClass)
  | fwUpdate (k : SecClass)
  | windowOpen (k : SecClass)
  | windowClose (k : SecClass)
  | partKill (k : SecClass)
  | partReadmit (p : PartId)
  | counterRecordWrite
  | authThrottleEnd (k : SecClass)
  -- Module memory and the host link
  | hbmPatrolScrub (h : StackId) (pc : Fin 64) (off : BitVec 35) (r : Patrol)
  | hbmPcCopyDone (h : StackId)
  | flr (f : FuncId)
  | hotReset
  | bar2Read (f : FuncId) (off : BitVec 38) (len : Nat)
  | bar2Write (f : FuncId) (off : BitVec 38) (data : List Byte)
  -- Management and debug
  | smbusRegRead (bytes : List Byte) (pec : Bool)
  | smbusRegWrite (bytes : List Byte) (pec : Bool)
  | smbusStatus (pec : Bool)
  | smbusIdent (pec : Bool)
  | alertResponse (pec : Bool)
  | tapRegacc (dr : BitVec 91)
  | tapUnlock (block : List Byte)
  | tapRelock
  -- Counters
  | dumpEnable (m : Master) (val : W64)
  | dumpSnapshot (busy : Bool)
  | traceEnable (m : Master) (val : W64)
  | perfSample (u : Fin 16) (i : Fin 16)
  | bwWindowEnd
  -- Clears
  | dnetErrClear (m : Master)
  | chkStatClear (m : Master) (v : VatId)
  | eccStatClear (m : Master) (v : VatId)
  | cellarErrClear (m : Master) (v : VatId)
  | skimStatClear (m : Master) (v : VatId)
  | kvxStatClear (m : Master)
  | pfxStatClear (m : Master) (spillStat : Bool)
  | thrPortErrClear (m : Master) (p : PortId)
  | sheafStatClear (m : Master)
  | pwrStatClear (m : Master)
  | hbmEccClear (m : Master) (h : StackId)
  | hostAccClear (m : Master) (f : FuncId)
  /-- One cycle of the register bus. -/
  | registerWrite (ws : BusCycle)
  /-- `ecc`: the fetched program-buffer word is uncorrectable (R514). -/
  | illegalOpcode (v : VatId) (c : CtxId) (ecc : Bool)
  | smbusTimeout
  | pcieLinkUp (speed : BitVec 3) (width : BitVec 5) (flit : Bool)
  | configurationRequest (f : FuncId) (q : CfgReq)
  | rnrTimerExpiry (d : DestId)
  | pfcPauseFrame (x : Fin 2) (prio : BitVec 3) (pause : Bool)
  | coalescedInterruptDue (f : FuncId) (vec : Fin 2)
  deriving DecidableEq, Repr

end Sys2Proof
end

