-- ==== Sys2Proof/Machine/Gen.lean ====
section
/-! DEFINITION. The lane generators: xoshiro128++ seeded through splitmix64 (R56, R57). -/

namespace Sys2Proof.Machine

/-- The state of one generator. -/
structure Gen where
  s0 : W32
  s1 : W32
  s2 : W32
  s3 : W32
  deriving DecidableEq, Repr

/-- One splitmix64 step on the counter `x`, giving the counter and the output (R56). -/
def splitmix64 (x : W64) : W64 × W64 :=
  let x := x + 0x9E3779B97F4A7C15#64
  let z := (x ^^^ (x >>> 30)) * 0xBF58476D1CE4E5B9#64
  let z := (z ^^^ (z >>> 27)) * 0x94D049BB133111EB#64
  (x, z ^^^ (z >>> 31))

/-- An all-zero state gets s[0] = 1 (R56, R173). -/
def Gen.fix (g : Gen) : Gen :=
  if g.s0 ||| g.s1 ||| g.s2 ||| g.s3 = 0 then { g with s0 := 1 } else g

/-- `gen_seed(seed, index)` (R56). -/
def genSeed (seed : W64) (index : Nat) : Gen :=
  let (x, a) := splitmix64 (seed + BitVec.ofNat 64 index * 0xD1B54A32D192ED03#64)
  let (_, b) := splitmix64 x
  Gen.fix { s0 := a.truncate 32, s1 := (a >>> 32).truncate 32, s2 := b.truncate 32, s3 := (b >>> 32).truncate 32 }

/-- `gen_next`: one step, giving the output and the new state (R56). -/
def genNext (g : Gen) : W32 × Gen :=
  let g := Gen.fix g
  let r := (g.s0 + g.s3).rotateLeft 7 + g.s0
  let t := g.s1 <<< 9
  let s2 := g.s2 ^^^ g.s0
  let s3 := g.s3 ^^^ g.s1
  let s1 := g.s1 ^^^ s2
  let s0 := g.s0 ^^^ s3
  (r, { s0 := s0, s1 := s1, s2 := s2 ^^^ t, s3 := s3.rotateLeft 11 })

/-- The random value of one SR16 conversion: bits [31:16] of a step's output (R56). -/
def genRand (g : Gen) : Nat × Gen :=
  let (r, g) := genNext g
  (r.toNat / 65536, g)

/-- The two words a generator shows (R173). -/
def Gen.word (g : Gen) (half : Nat) : W64 :=
  if half = 0 then g.s1 ++ g.s0 else g.s3 ++ g.s2

/-- The generator whose words are `lo` and `hi` (R173). -/
def Gen.ofWords (lo hi : W64) : Gen :=
  { s0 := lo.truncate 32, s1 := (lo >>> 32).truncate 32, s2 := hi.truncate 32, s3 := (hi >>> 32).truncate 32 }

end Sys2Proof.Machine
end

