-- ==== Sys2Proof/Machine/Tab.lean ====
section
/-! DEFINITION. The sparse table every memory and every indexed store of the block is held in: pairs of key
and value, keys strictly rising, no pair whose value is the default the table has at that key. Reading a key
that is not listed gives the default; writing the default removes the pair, so equal contents are equal lists. -/

namespace Sys2Proof.Machine

/-- The value at `k`; `d` is the table's default. -/
def Tab.get {α : Type} (d : Nat → α) : Tab α → Nat → α
  | [], k => d k
  | (j, x) :: t, k => if j = k then x else Tab.get d t k

/-- `t` without a pair at `k`. -/
def Tab.del {α : Type} (t : Tab α) (k : Nat) : Tab α := t.filter fun p => p.1 ≠ k

/-- `t` with the pair `(k, x)`. -/
def Tab.put {α : Type} : Tab α → Nat → α → Tab α
  | [], k, x => [(k, x)]
  | (j, y) :: t, k, x =>
    if j = k then (k, x) :: t else if k < j then (k, x) :: (j, y) :: t else (j, y) :: Tab.put t k x

/-- Write `x` at `k`, keeping the canonical form. -/
def Tab.set {α : Type} [DecidableEq α] (d : Nat → α) (t : Tab α) (k : Nat) (x : α) : Tab α :=
  if x = d k then Tab.del t k else Tab.put t k x

/-- The keys rise strictly, from above `k`. -/
def Tab.above {α : Type} (k : Nat) : Tab α → Bool
  | [] => true
  | (j, _) :: t => k < j && Tab.above j t

/-- Keys strictly rising. -/
def Tab.rising {α : Type} : Tab α → Bool
  | [] => true
  | (j, _) :: t => Tab.above j t

/-- No pair equal to the default there. -/
def Tab.lean {α : Type} [DecidableEq α] (d : Nat → α) : Tab α → Bool
  | [] => true
  | (j, x) :: t => !decide (x = d j) && Tab.lean d t

/-- The canonical form of a table. -/
def Tab.wf {α : Type} [DecidableEq α] (d : Nat → α) (t : Tab α) : Bool :=
  Tab.rising t && Tab.lean d t

/-- Write the list `xs` at `k`, `k + 1`, … -/
def Tab.setAll {α : Type} [DecidableEq α] (d : Nat → α) (t : Tab α) : Nat → List α → Tab α
  | _, [] => t
  | k, x :: xs => Tab.setAll d (Tab.set d t k x) (k + 1) xs

/-- Read `n` values from `k` on. -/
def Tab.getAll {α : Type} (d : Nat → α) (t : Tab α) (k : Nat) : Nat → List α
  | 0 => []
  | n + 1 => Tab.get d t k :: Tab.getAll d t (k + 1) n

/-- Put every key in `[lo, hi)` back to its default. -/
def Tab.clear {α : Type} (lo hi : Nat) (t : Tab α) : Tab α :=
  t.filter fun p => p.1 < lo || hi ≤ p.1

/-- Memory reads as this where nothing is listed (log 4). -/
def zeroByte (_ : Nat) : Byte := 0

/-- The canonical form of a memory. -/
def Memory.wf (m : Tab Byte) : Bool := Tab.wf zeroByte m

/-- A little-endian number of `n` bytes (R8). -/
def leNat : List Byte → Nat
  | [] => 0
  | b :: bs => b.toNat + 256 * leNat bs

/-- `n` little-endian bytes of `x` (R8). -/
def leBytes : Nat → Nat → List Byte
  | 0, _ => []
  | n + 1, x => BitVec.ofNat 8 x :: leBytes n (x / 256)

/-- A big-endian number. -/
def beNat (bs : List Byte) : Nat := leNat bs.reverse

/-- `n` big-endian bytes of `x`. -/
def beBytes (n x : Nat) : List Byte := (leBytes n x).reverse

end Sys2Proof.Machine
end

