-- ==== Sys2Proof/Machine/Regs.lean ====
section
/-! DEFINITION. The registers of BAR0 (R580): one constructor of `Reg` for each register the manual names, its
offset, its fields with their types and reset values, and the register an offset reaches. Index arguments: v
logical Vat, c context (SEC: command class k), s stream, p port or partition, f function, d destination or
definition, h HBM stack or half of a 128-bit word. A reset value the manual gives as Layout, Fuse or Strap is 0
here until it is loaded (log 3). -/

namespace Sys2Proof.Machine

/-- The field types of R4. -/
inductive FTy
  | ro | rw | w1c | w1s | wo | st | il
  deriving DecidableEq, Repr

/-- A field: bits [hi:lo], type, reset value. -/
structure Fld where
  hi : Nat
  lo : Nat
  ty : FTy
  reset : Nat
  deriving DecidableEq, Repr

/-- The number of bits of a field. -/
def Fld.width (f : Fld) : Nat := f.hi + 1 - f.lo

/-- The bits of the field within its register. -/
def Fld.mask (f : Fld) : W64 := BitVec.ofNat 64 ((2 ^ f.width - 1) * 2 ^ f.lo)

/-- The value of field `f` in the register value `w`. -/
def Fld.get (f : Fld) (w : W64) : Nat := w.toNat / 2 ^ f.lo % 2 ^ f.width

/-- `w` with field `f` set to `n`, of which the field holds the low bits. -/
def Fld.put (f : Fld) (w : W64) (n : Nat) : W64 :=
  (w &&& ~~~f.mask) ||| BitVec.ofNat 64 (n % 2 ^ f.width * 2 ^ f.lo)

/-- The largest value the field holds. -/
def Fld.max (f : Fld) : Nat := 2 ^ f.width - 1

/-- The registers, by the manual's names. -/
inductive Reg
  /-- R29 -/
  | GLB_ID
  /-- R30 -/
  | GLB_VAT_MAP_LO
  /-- R30 -/
  | GLB_VAT_MAP_HI
  /-- R32 -/
  | GLB_VAT_PART
  /-- R33 -/
  | GLB_TIME
  /-- R34 -/
  | GLB_DNET_ERR
  /-- R500 -/
  | RST_CAUSE
  /-- R501 -/
  | RST_TIME
  /-- R502 -/
  | RST_STATUS
  /-- R503 -/
  | RST_WDT
  /-- R504 -/
  | RST_PART_LAST
  /-- R505 -/
  | RST_FUSE
  /-- R507 -/
  | RST_UNITS
  /-- R506 -/
  | RST_FUSE_UNIT (p : Nat)
  /-- R560 -/
  | PWR_STATUS
  /-- R561 -/
  | PWR_CAP
  /-- R562 -/
  | PWR_CLOCK
  /-- R563 -/
  | PWR_CTRL
  /-- R564 -/
  | PWR_STAT
  /-- R565 -/
  | PWR_EST (g : Nat)
  /-- R566 -/
  | PWR_THERM (s : Nat)
  /-- R567 -/
  | PWR_DROOP (i : Nat)
  /-- R508 -/
  | LAYOUT_STATUS
  /-- R509 -/
  | LAYOUT_SERIAL
  /-- R510 -/
  | LAYOUT_PART (p : Nat)
  /-- R536 -/
  | SEC_STATUS
  /-- R537 -/
  | SEC_CMD_BUF (k : Nat) (i : Nat)
  /-- R538 -/
  | SEC_CMD_CTRL (k : Nat)
  /-- R538 -/
  | SEC_CMD_RESULT (k : Nat)
  /-- R539 -/
  | SEC_SLOT (k : Nat)
  /-- R539 -/
  | SEC_SLOT_LAST (k : Nat)
  /-- R540 -/
  | ERR_STATUS
  /-- R541 -/
  | ERR_HOST
  /-- R542 -/
  | ERR_DEGRADED
  /-- R543 -/
  | ERR_ENTRY (i : Nat) (w : Nat)
  /-- R620 -/
  | PERF_CTL
  /-- R621 -/
  | PERF_DUMP_BASE
  /-- R622 -/
  | PERF_DUMP_CFG
  /-- R623 -/
  | PERF_DUMP_STAT
  /-- R621 -/
  | PERF_TRACE_BASE
  /-- R624 -/
  | PERF_TRACE_CFG
  /-- R625 -/
  | PERF_FUNC
  /-- R626 -/
  | PERF_BW_CFG
  /-- R627 -/
  | PERF_CFG (u : Nat) (i : Nat)
  /-- R628 -/
  | PERF_VALUE (u : Nat) (i : Nat)
  /-- R629 -/
  | PERF_SAMPLE (u : Nat)
  /-- R629 -/
  | PERF_SAMPLE_TIME (u : Nat)
  /-- R630 -/
  | PERF_BW_TX (p : Nat)
  /-- R630 -/
  | PERF_BW_RX (p : Nat)
  /-- R307 -/
  | REEVE_STATUS
  /-- R308 -/
  | REEVE_SCHED
  /-- R309 -/
  | REEVE_PART_CFG (p : Nat)
  /-- R310 -/
  | REEVE_PART_LAYOUT (p : Nat)
  /-- R311 -/
  | REEVE_MBOX_CMD
  /-- R311 -/
  | REEVE_MBOX_RESULT
  /-- R312 -/
  | REEVE_MBOX_ARG (k : Nat)
  /-- R313 -/
  | REEVE_RING_BASE (f : Nat)
  /-- R314 -/
  | REEVE_RING_CFG (f : Nat)
  /-- R315 -/
  | REEVE_RING_PTR (f : Nat)
  /-- R397 -/
  | REEVE_GRAM_BASE (g : Nat)
  /-- R398 -/
  | REEVE_GRAM_CFG (g : Nat)
  /-- R399 -/
  | REEVE_VARIANT_CFG (x : Nat)
  /-- R400 -/
  | REEVE_VARIANT_FUNCS (x : Nat)
  /-- R401 -/
  | REEVE_MODEL
  /-- R316 -/
  | REEVE_BUDGET_CFG (i : Nat)
  /-- R316 -/
  | REEVE_BUDGET_BAL (i : Nat)
  /-- R104 -/
  | VAT_GEOM (v : Nat)
  /-- R105 -/
  | VAT_STATUS (v : Nat)
  /-- R106 -/
  | VAT_FLAGS (v : Nat)
  /-- R107 -/
  | VAT_CHK_CTRL (v : Nat)
  /-- R108 -/
  | VAT_CHK_STAT (v : Nat)
  /-- R109 -/
  | VAT_CHK_LAST (v : Nat)
  /-- R110 -/
  | VAT_LANE_REMAP (v : Nat)
  /-- R111 -/
  | VAT_CURD_SPLIT (v : Nat)
  /-- R112 -/
  | VAT_ECC_STAT (v : Nat)
  /-- R163 -/
  | VAT_CTX_CTRL (v : Nat) (c : Nat)
  /-- R164 -/
  | VAT_CTX_STATUS (v : Nat) (c : Nat)
  /-- R165 -/
  | VAT_CTX_PROG (v : Nat) (c : Nat)
  /-- R166 -/
  | VAT_CTX_RESUME (v : Nat) (c : Nat)
  /-- R168 -/
  | VAT_CTX_LOOPEND (v : Nat) (c : Nat)
  /-- R169 -/
  | VAT_CTX_KEPT (v : Nat) (c : Nat)
  /-- R170 -/
  | VAT_CTX_ERRTIME (v : Nat) (c : Nat)
  /-- R167 -/
  | VAT_CTX_LOOP (v : Nat) (c : Nat) (d : Nat)
  /-- R171 -/
  | VAT_CTX_RSLOT (v : Nat) (c : Nat) (k : Nat)
  /-- R172 -/
  | VAT_CTX_PS (v : Nat) (c : Nat) (n : Nat)
  /-- R173 -/
  | VAT_CTX_GEN (v : Nat) (c : Nat) (j : Nat) (h : Nat)
  /-- R270 -/
  | VAT_SEM_FULL (v : Nat) (i : Nat)
  /-- R270 -/
  | VAT_SEM_EMPTY (v : Nat) (i : Nat)
  /-- R439 -/
  | VAT_ARRIVAL (v : Nat) (i : Nat)
  /-- R174 -/
  | VAT_PROG_WIN (v : Nat)
  /-- R175 -/
  | VAT_PROG (v : Nat) (a : Nat) (h : Nat)
  /-- R201 -/
  | CELLAR_GEOM (v : Nat)
  /-- R235 -/
  | CELLAR_STATUS (v : Nat)
  /-- R236 -/
  | CELLAR_GROUP_CTRL (v : Nat)
  /-- R237 -/
  | CELLAR_BANK_MAP (v : Nat)
  /-- R238 -/
  | CELLAR_ERR_STAT (v : Nat)
  /-- R239 -/
  | CELLAR_LAST_ERR (v : Nat)
  /-- R240 -/
  | SKIM_CTRL (v : Nat)
  /-- R241 -/
  | SKIM_STAT (v : Nat)
  /-- R215 -/
  | CELLAR_CLAIM (v : Nat) (b : Nat)
  /-- R271 -/
  | WAGON_GLB_TAGS
  /-- R272 -/
  | WAGON_GLB_TIMEOUT
  /-- R273 -/
  | WAGON_STATUS (v : Nat)
  /-- R274 -/
  | WAGON_MISS_INFO (v : Nat)
  /-- R275 -/
  | WAGON_MISS_TIME (v : Nat)
  /-- R275 -/
  | WAGON_MISS_DEADLINE (v : Nat)
  /-- R276 -/
  | WAGON_STREAM_CFG (v : Nat) (s : Nat)
  /-- R277 -/
  | WAGON_STREAM_STAT (v : Nat) (s : Nat)
  /-- R430 -/
  | THR_PORT_CFG (p : Nat)
  /-- R431 -/
  | THR_PORT_STATUS (p : Nat)
  /-- R432 -/
  | THR_PORT_VCW (p : Nat)
  /-- R433 -/
  | THR_PORT_ERR (p : Nat)
  /-- R434 -/
  | THR_GLB_ID
  /-- R435 -/
  | THR_GLB_CFG
  /-- R436 -/
  | THR_SPARE
  /-- R436 -/
  | THR_TIME
  /-- R437 -/
  | THR_INBOUND_A (i : Nat)
  /-- R437 -/
  | THR_INBOUND_B (i : Nat)
  /-- R438 -/
  | THR_WIN_A (v : Nat) (w : Nat)
  /-- R438 -/
  | THR_WIN_B (v : Nat) (w : Nat)
  /-- R470 -/
  | SHEAF_DEF_A (d : Nat)
  /-- R471 -/
  | SHEAF_DEF_B (d : Nat)
  /-- R472 -/
  | SHEAF_SEQ (d : Nat)
  /-- R473 -/
  | SHEAF_STATUS
  /-- R474 -/
  | SHEAF_STAT
  /-- R475 -/
  | SHEAF_LAST
  /-- R599 -/
  | HBM_STATUS (h : Nat)
  /-- R600 -/
  | HBM_ECC (h : Nat)
  /-- R354 -/
  | KVX_STATUS
  /-- R355 -/
  | KVX_STAT
  /-- R356 -/
  | KVX_PORT_CFG (x : Nat)
  /-- R357 -/
  | KVX_PORT_NET (x : Nat)
  /-- R358 -/
  | KVX_PORT_IP_HI (x : Nat)
  /-- R358 -/
  | KVX_PORT_IP_LO (x : Nat)
  /-- R359 -/
  | KVX_PORT_CC (x : Nat)
  /-- R360 -/
  | KVX_PEER_MAC (i : Nat)
  /-- R360 -/
  | KVX_PEER_IP_HI (i : Nat)
  /-- R360 -/
  | KVX_PEER_IP_LO (i : Nat)
  /-- R361 -/
  | KVX_DEST_CFG (d : Nat)
  /-- R362 -/
  | KVX_DEST_BASE (d : Nat)
  /-- R363 -/
  | KVX_DEST_KEY (d : Nat)
  /-- R364 -/
  | KVX_DEST_QP (d : Nat)
  /-- R365 -/
  | KVX_DEST_CREDIT (d : Nat)
  /-- R365 -/
  | KVX_DEST_SEQ (d : Nat)
  /-- R366 -/
  | KVX_DEST_STAT (d : Nat)
  /-- R367 -/
  | PFX_STATUS
  /-- R368 -/
  | PFX_STAT
  /-- R368 -/
  | PFX_SPILL_STAT
  /-- R369 -/
  | PFX_GROUP_IDX (g : Nat)
  /-- R369 -/
  | PFX_GROUP_POOL (g : Nat)
  /-- R370 -/
  | PFX_FUNC_CFG (f : Nat)
  /-- R371 -/
  | PFX_SPILL_BASE (f : Nat)
  /-- R371 -/
  | PFX_SPILL_SIZE (f : Nat)
  /-- R372 -/
  | PFX_TENANT_GEN (t : Nat)
  /-- R594 -/
  | HOST_STATUS
  /-- R595 -/
  | HOST_ACC (f : Nat)
  /-- R596 -/
  | MGMT_STATUS
  /-- R597 -/
  | MGMT_ALERT
  /-- R597 -/
  | MGMT_ALERT_EN
  deriving DecidableEq, Repr

/-- The BAR0 offset of a register (R580). -/
def Reg.off : Reg → Nat
  | .GLB_ID => 0x0
  | .GLB_VAT_MAP_LO => 0x10
  | .GLB_VAT_MAP_HI => 0x18
  | .GLB_VAT_PART => 0x20
  | .GLB_TIME => 0x30
  | .GLB_DNET_ERR => 0x40
  | .RST_CAUSE => 0x10000
  | .RST_TIME => 0x10008
  | .RST_STATUS => 0x10010
  | .RST_WDT => 0x10018
  | .RST_PART_LAST => 0x10020
  | .RST_FUSE => 0x10028
  | .RST_UNITS => 0x10030
  | .RST_FUSE_UNIT p => 0x10100 + 0x8 * p
  | .PWR_STATUS => 0x20000
  | .PWR_CAP => 0x20008
  | .PWR_CLOCK => 0x20010
  | .PWR_CTRL => 0x20018
  | .PWR_STAT => 0x20020
  | .PWR_EST g => 0x20100 + 0x8 * g
  | .PWR_THERM s => 0x20200 + 0x8 * s
  | .PWR_DROOP i => 0x20400 + 0x8 * i
  | .LAYOUT_STATUS => 0x30000
  | .LAYOUT_SERIAL => 0x30008
  | .LAYOUT_PART p => 0x30100 + 0x8 * p
  | .SEC_STATUS => 0x40000
  | .SEC_CMD_BUF k i => 0x41000 + 0x200 * k + 0x8 * i
  | .SEC_CMD_CTRL k => 0x41800 + 0x10 * k
  | .SEC_CMD_RESULT k => 0x41808 + 0x10 * k
  | .SEC_SLOT k => 0x42000 + 0x10 * k
  | .SEC_SLOT_LAST k => 0x42008 + 0x10 * k
  | .ERR_STATUS => 0x50000
  | .ERR_HOST => 0x50008
  | .ERR_DEGRADED => 0x50010
  | .ERR_ENTRY i w => 0x58000 + 0x20 * i + 0x8 * w
  | .PERF_CTL => 0x60000
  | .PERF_DUMP_BASE => 0x60008
  | .PERF_DUMP_CFG => 0x60010
  | .PERF_DUMP_STAT => 0x60018
  | .PERF_TRACE_BASE => 0x60020
  | .PERF_TRACE_CFG => 0x60028
  | .PERF_FUNC => 0x60030
  | .PERF_BW_CFG => 0x60038
  | .PERF_CFG u i => 0x61000 + 0x100 * u + 0x10 * i
  | .PERF_VALUE u i => 0x61008 + 0x100 * u + 0x10 * i
  | .PERF_SAMPLE u => 0x64000 + 0x10 * u
  | .PERF_SAMPLE_TIME u => 0x64008 + 0x10 * u
  | .PERF_BW_TX p => 0x65000 + 0x10 * p
  | .PERF_BW_RX p => 0x65008 + 0x10 * p
  | .REEVE_STATUS => 0x80000
  | .REEVE_SCHED => 0x80008
  | .REEVE_PART_CFG p => 0x80100 + 0x8 * p
  | .REEVE_PART_LAYOUT p => 0x80180 + 0x8 * p
  | .REEVE_MBOX_CMD => 0x80200
  | .REEVE_MBOX_RESULT => 0x80208
  | .REEVE_MBOX_ARG k => 0x80240 + 0x8 * k
  | .REEVE_RING_BASE f => 0x81000 + 0x20 * f
  | .REEVE_RING_CFG f => 0x81008 + 0x20 * f
  | .REEVE_RING_PTR f => 0x81010 + 0x20 * f
  | .REEVE_GRAM_BASE g => 0x82000 + 0x10 * g
  | .REEVE_GRAM_CFG g => 0x82008 + 0x10 * g
  | .REEVE_VARIANT_CFG x => 0x83000 + 0x10 * x
  | .REEVE_VARIANT_FUNCS x => 0x83008 + 0x10 * x
  | .REEVE_MODEL => 0x83800
  | .REEVE_BUDGET_CFG i => 0xC0000 + 0x10 * i
  | .REEVE_BUDGET_BAL i => 0xC0008 + 0x10 * i
  | .VAT_GEOM v => 0x100000 + 0x40000 * v
  | .VAT_STATUS v => 0x100008 + 0x40000 * v
  | .VAT_FLAGS v => 0x100010 + 0x40000 * v
  | .VAT_CHK_CTRL v => 0x100018 + 0x40000 * v
  | .VAT_CHK_STAT v => 0x100020 + 0x40000 * v
  | .VAT_CHK_LAST v => 0x100028 + 0x40000 * v
  | .VAT_LANE_REMAP v => 0x100030 + 0x40000 * v
  | .VAT_CURD_SPLIT v => 0x100038 + 0x40000 * v
  | .VAT_ECC_STAT v => 0x100040 + 0x40000 * v
  | .VAT_CTX_CTRL v c => 0x101000 + 0x40000 * v + 0x400 * c
  | .VAT_CTX_STATUS v c => 0x101008 + 0x40000 * v + 0x400 * c
  | .VAT_CTX_PROG v c => 0x101010 + 0x40000 * v + 0x400 * c
  | .VAT_CTX_RESUME v c => 0x101018 + 0x40000 * v + 0x400 * c
  | .VAT_CTX_LOOPEND v c => 0x101040 + 0x40000 * v + 0x400 * c
  | .VAT_CTX_KEPT v c => 0x101048 + 0x40000 * v + 0x400 * c
  | .VAT_CTX_ERRTIME v c => 0x101050 + 0x40000 * v + 0x400 * c
  | .VAT_CTX_LOOP v c d => 0x101020 + 0x40000 * v + 0x400 * c + 0x8 * d
  | .VAT_CTX_RSLOT v c k => 0x101080 + 0x40000 * v + 0x400 * c + 0x8 * k
  | .VAT_CTX_PS v c n => 0x101200 + 0x40000 * v + 0x400 * c + 0x8 * n
  | .VAT_CTX_GEN v c j h => 0x102000 + 0x40000 * v + 0x1000 * c + 0x10 * j + 0x8 * h
  | .VAT_SEM_FULL v i => 0x108000 + 0x40000 * v + 0x10 * i
  | .VAT_SEM_EMPTY v i => 0x108008 + 0x40000 * v + 0x10 * i
  | .VAT_ARRIVAL v i => 0x109000 + 0x40000 * v + 0x8 * i
  | .VAT_PROG_WIN v => 0x11F000 + 0x40000 * v
  | .VAT_PROG v a h => 0x120000 + 0x40000 * v + 0x10 * a + 0x8 * h
  | .CELLAR_GEOM v => 0x500000 + 0x10000 * v
  | .CELLAR_STATUS v => 0x500008 + 0x10000 * v
  | .CELLAR_GROUP_CTRL v => 0x500010 + 0x10000 * v
  | .CELLAR_BANK_MAP v => 0x500018 + 0x10000 * v
  | .CELLAR_ERR_STAT v => 0x500020 + 0x10000 * v
  | .CELLAR_LAST_ERR v => 0x500028 + 0x10000 * v
  | .SKIM_CTRL v => 0x500040 + 0x10000 * v
  | .SKIM_STAT v => 0x500048 + 0x10000 * v
  | .CELLAR_CLAIM v b => 0x501000 + 0x10000 * v + 0x8 * b
  | .WAGON_GLB_TAGS => 0x600000
  | .WAGON_GLB_TIMEOUT => 0x600008
  | .WAGON_STATUS v => 0x601000 + 0x1000 * v
  | .WAGON_MISS_INFO v => 0x601008 + 0x1000 * v
  | .WAGON_MISS_TIME v => 0x601010 + 0x1000 * v
  | .WAGON_MISS_DEADLINE v => 0x601018 + 0x1000 * v
  | .WAGON_STREAM_CFG v s => 0x601400 + 0x1000 * v + 0x10 * s
  | .WAGON_STREAM_STAT v s => 0x601408 + 0x1000 * v + 0x10 * s
  | .THR_PORT_CFG p => 0x700000 + 0x10000 * p
  | .THR_PORT_STATUS p => 0x700008 + 0x10000 * p
  | .THR_PORT_VCW p => 0x700010 + 0x10000 * p
  | .THR_PORT_ERR p => 0x700018 + 0x10000 * p
  | .THR_GLB_ID => 0x820000
  | .THR_GLB_CFG => 0x820008
  | .THR_SPARE => 0x820010
  | .THR_TIME => 0x820018
  | .THR_INBOUND_A i => 0x820100 + 0x10 * i
  | .THR_INBOUND_B i => 0x820108 + 0x10 * i
  | .THR_WIN_A v w => 0x830000 + 0x1000 * v + 0x10 * w
  | .THR_WIN_B v w => 0x830008 + 0x1000 * v + 0x10 * w
  | .SHEAF_DEF_A d => 0x860000 + 0x10 * d
  | .SHEAF_DEF_B d => 0x860008 + 0x10 * d
  | .SHEAF_SEQ d => 0x864000 + 0x8 * d
  | .SHEAF_STATUS => 0x868000
  | .SHEAF_STAT => 0x868008
  | .SHEAF_LAST => 0x868010
  | .HBM_STATUS h => 0x900000 + 0x100 * h
  | .HBM_ECC h => 0x900008 + 0x100 * h
  | .KVX_STATUS => 0xA00000
  | .KVX_STAT => 0xA00008
  | .KVX_PORT_CFG x => 0xA00100 + 0x40 * x
  | .KVX_PORT_NET x => 0xA00108 + 0x40 * x
  | .KVX_PORT_IP_HI x => 0xA00110 + 0x40 * x
  | .KVX_PORT_IP_LO x => 0xA00118 + 0x40 * x
  | .KVX_PORT_CC x => 0xA00120 + 0x40 * x
  | .KVX_PEER_MAC i => 0xA01000 + 0x20 * i
  | .KVX_PEER_IP_HI i => 0xA01008 + 0x20 * i
  | .KVX_PEER_IP_LO i => 0xA01010 + 0x20 * i
  | .KVX_DEST_CFG d => 0xA10000 + 0x40 * d
  | .KVX_DEST_BASE d => 0xA10008 + 0x40 * d
  | .KVX_DEST_KEY d => 0xA10010 + 0x40 * d
  | .KVX_DEST_QP d => 0xA10018 + 0x40 * d
  | .KVX_DEST_CREDIT d => 0xA10020 + 0x40 * d
  | .KVX_DEST_SEQ d => 0xA10028 + 0x40 * d
  | .KVX_DEST_STAT d => 0xA10030 + 0x40 * d
  | .PFX_STATUS => 0xB00000
  | .PFX_STAT => 0xB00008
  | .PFX_SPILL_STAT => 0xB00010
  | .PFX_GROUP_IDX g => 0xB00100 + 0x10 * g
  | .PFX_GROUP_POOL g => 0xB00108 + 0x10 * g
  | .PFX_FUNC_CFG f => 0xB01000 + 0x20 * f
  | .PFX_SPILL_BASE f => 0xB01008 + 0x20 * f
  | .PFX_SPILL_SIZE f => 0xB01010 + 0x20 * f
  | .PFX_TENANT_GEN t => 0xB02000 + 0x8 * t
  | .HOST_STATUS => 0xC00000
  | .HOST_ACC f => 0xC01000 + 0x8 * f
  | .MGMT_STATUS => 0xF00000
  | .MGMT_ALERT => 0xF00008
  | .MGMT_ALERT_EN => 0xF00010

/-! GLB_ID, R29 -/
def GLB_ID.VENDOR : Fld := ⟨31, 16, .ro, 19542⟩
def GLB_ID.DEVICE : Fld := ⟨15, 4, .ro, 22⟩
def GLB_ID.STEPPING : Fld := ⟨3, 0, .ro, 1⟩
/-! GLB_VAT_MAP_LO, R30 -/
def GLB_VAT_MAP_LO.VALID0 : Fld := ⟨7, 7, .il, 0⟩
def GLB_VAT_MAP_LO.PHYS0 : Fld := ⟨4, 0, .il, 0⟩
def GLB_VAT_MAP_LO.VALID1 : Fld := ⟨15, 15, .il, 0⟩
def GLB_VAT_MAP_LO.PHYS1 : Fld := ⟨12, 8, .il, 1⟩
def GLB_VAT_MAP_LO.VALID2 : Fld := ⟨23, 23, .il, 0⟩
def GLB_VAT_MAP_LO.PHYS2 : Fld := ⟨20, 16, .il, 2⟩
def GLB_VAT_MAP_LO.VALID3 : Fld := ⟨31, 31, .il, 0⟩
def GLB_VAT_MAP_LO.PHYS3 : Fld := ⟨28, 24, .il, 3⟩
def GLB_VAT_MAP_LO.VALID4 : Fld := ⟨39, 39, .il, 0⟩
def GLB_VAT_MAP_LO.PHYS4 : Fld := ⟨36, 32, .il, 4⟩
def GLB_VAT_MAP_LO.VALID5 : Fld := ⟨47, 47, .il, 0⟩
def GLB_VAT_MAP_LO.PHYS5 : Fld := ⟨44, 40, .il, 5⟩
def GLB_VAT_MAP_LO.VALID6 : Fld := ⟨55, 55, .il, 0⟩
def GLB_VAT_MAP_LO.PHYS6 : Fld := ⟨52, 48, .il, 6⟩
def GLB_VAT_MAP_LO.VALID7 : Fld := ⟨63, 63, .il, 0⟩
def GLB_VAT_MAP_LO.PHYS7 : Fld := ⟨60, 56, .il, 7⟩
/-! GLB_VAT_MAP_HI, R30 -/
def GLB_VAT_MAP_HI.VALID0 : Fld := ⟨7, 7, .il, 0⟩
def GLB_VAT_MAP_HI.PHYS0 : Fld := ⟨4, 0, .il, 8⟩
def GLB_VAT_MAP_HI.VALID1 : Fld := ⟨15, 15, .il, 0⟩
def GLB_VAT_MAP_HI.PHYS1 : Fld := ⟨12, 8, .il, 9⟩
def GLB_VAT_MAP_HI.VALID2 : Fld := ⟨23, 23, .il, 0⟩
def GLB_VAT_MAP_HI.PHYS2 : Fld := ⟨20, 16, .il, 10⟩
def GLB_VAT_MAP_HI.VALID3 : Fld := ⟨31, 31, .il, 0⟩
def GLB_VAT_MAP_HI.PHYS3 : Fld := ⟨28, 24, .il, 11⟩
def GLB_VAT_MAP_HI.VALID4 : Fld := ⟨39, 39, .il, 0⟩
def GLB_VAT_MAP_HI.PHYS4 : Fld := ⟨36, 32, .il, 12⟩
def GLB_VAT_MAP_HI.VALID5 : Fld := ⟨47, 47, .il, 0⟩
def GLB_VAT_MAP_HI.PHYS5 : Fld := ⟨44, 40, .il, 13⟩
def GLB_VAT_MAP_HI.VALID6 : Fld := ⟨55, 55, .il, 0⟩
def GLB_VAT_MAP_HI.PHYS6 : Fld := ⟨52, 48, .il, 14⟩
def GLB_VAT_MAP_HI.VALID7 : Fld := ⟨63, 63, .il, 0⟩
def GLB_VAT_MAP_HI.PHYS7 : Fld := ⟨60, 56, .il, 15⟩
/-! GLB_VAT_PART, R32 -/
def GLB_VAT_PART.PART0 : Fld := ⟨3, 0, .il, 0⟩
def GLB_VAT_PART.PART1 : Fld := ⟨7, 4, .il, 0⟩
def GLB_VAT_PART.PART2 : Fld := ⟨11, 8, .il, 0⟩
def GLB_VAT_PART.PART3 : Fld := ⟨15, 12, .il, 0⟩
def GLB_VAT_PART.PART4 : Fld := ⟨19, 16, .il, 0⟩
def GLB_VAT_PART.PART5 : Fld := ⟨23, 20, .il, 0⟩
def GLB_VAT_PART.PART6 : Fld := ⟨27, 24, .il, 0⟩
def GLB_VAT_PART.PART7 : Fld := ⟨31, 28, .il, 0⟩
def GLB_VAT_PART.PART8 : Fld := ⟨35, 32, .il, 0⟩
def GLB_VAT_PART.PART9 : Fld := ⟨39, 36, .il, 0⟩
def GLB_VAT_PART.PART10 : Fld := ⟨43, 40, .il, 0⟩
def GLB_VAT_PART.PART11 : Fld := ⟨47, 44, .il, 0⟩
def GLB_VAT_PART.PART12 : Fld := ⟨51, 48, .il, 0⟩
def GLB_VAT_PART.PART13 : Fld := ⟨55, 52, .il, 0⟩
def GLB_VAT_PART.PART14 : Fld := ⟨59, 56, .il, 0⟩
def GLB_VAT_PART.PART15 : Fld := ⟨63, 60, .il, 0⟩
/-! GLB_TIME, R33 -/
def GLB_TIME.TIME_NS : Fld := ⟨63, 0, .ro, 0⟩
/-! GLB_DNET_ERR, R34 -/
def GLB_DNET_ERR.CLEAR : Fld := ⟨63, 63, .wo, 0⟩
def GLB_DNET_ERR.PART_DROP : Fld := ⟨55, 48, .ro, 0⟩
def GLB_DNET_ERR.POISON : Fld := ⟨47, 32, .ro, 0⟩
def GLB_DNET_ERR.CORR : Fld := ⟨31, 0, .ro, 0⟩
/-! RST_CAUSE, R500 -/
def RST_CAUSE.DETAIL : Fld := ⟨39, 32, .ro, 0⟩
def RST_CAUSE.LEVEL : Fld := ⟨5, 4, .ro, 0⟩
def RST_CAUSE.CAUSE : Fld := ⟨3, 0, .ro, 0⟩
/-! RST_TIME, R501 -/
def RST_TIME.TIME_NS : Fld := ⟨63, 0, .ro, 0⟩
/-! RST_STATUS, R502 -/
def RST_STATUS.EPOCH : Fld := ⟨63, 32, .ro, 0⟩
def RST_STATUS.LFAIL : Fld := ⟨5, 5, .ro, 0⟩
def RST_STATUS.FUSE_BAD : Fld := ⟨4, 4, .ro, 0⟩
def RST_STATUS.PHASE : Fld := ⟨2, 0, .ro, 0⟩
/-! RST_WDT, R503 -/
def RST_WDT.KICK : Fld := ⟨16, 16, .wo, 0⟩
def RST_WDT.TIMEOUT_MS : Fld := ⟨9, 0, .rw, 100⟩
/-! RST_PART_LAST, R504 -/
def RST_PART_LAST.PART : Fld := ⟨11, 8, .ro, 0⟩
def RST_PART_LAST.REASON : Fld := ⟨5, 4, .ro, 0⟩
def RST_PART_LAST.VALID : Fld := ⟨0, 0, .ro, 0⟩
/-! RST_FUSE, R505 -/
def RST_FUSE.SEC_STATE : Fld := ⟨39, 38, .ro, 0⟩
def RST_FUSE.OPT : Fld := ⟨37, 35, .ro, 0⟩
def RST_FUSE.VAT_DIS : Fld := ⟨17, 0, .ro, 0⟩
/-! RST_UNITS, R507 -/
def RST_UNITS.FREE : Fld := ⟨49, 32, .ro, 0⟩
def RST_UNITS.RETIRED : Fld := ⟨17, 0, .ro, 0⟩
/-! RST_FUSE_UNIT, R506 -/
def RST_FUSE_UNIT.BANK0 : Fld := ⟨27, 20, .ro, 0⟩
def RST_FUSE_UNIT.BANK1 : Fld := ⟨35, 28, .ro, 0⟩
def RST_FUSE_UNIT.BANK2 : Fld := ⟨43, 36, .ro, 0⟩
def RST_FUSE_UNIT.BANK3 : Fld := ⟨51, 44, .ro, 0⟩
def RST_FUSE_UNIT.LANE1 : Fld := ⟨19, 10, .ro, 0⟩
def RST_FUSE_UNIT.LANE0 : Fld := ⟨9, 0, .ro, 0⟩
/-! PWR_STATUS, R560 -/
def PWR_STATUS.P_IN_W : Fld := ⟨63, 48, .ro, 0⟩
def PWR_STATUS.I_IN : Fld := ⟨47, 32, .ro, 0⟩
def PWR_STATUS.V_IN_MV : Fld := ⟨31, 16, .ro, 0⟩
def PWR_STATUS.CAL_HOLD : Fld := ⟨5, 5, .ro, 0⟩
def PWR_STATUS.INPUT_WARN : Fld := ⟨4, 4, .ro, 0⟩
def PWR_STATUS.FIXED_HELD : Fld := ⟨3, 3, .ro, 1⟩
def PWR_STATUS.THERM_LIMIT : Fld := ⟨2, 2, .ro, 0⟩
def PWR_STATUS.THERM_REG : Fld := ⟨1, 1, .ro, 0⟩
def PWR_STATUS.CAP_LIMIT : Fld := ⟨0, 0, .ro, 0⟩
/-! PWR_CAP, R561 -/
def PWR_CAP.FIXED_FLOOR_W : Fld := ⟨47, 32, .ro, 0⟩
def PWR_CAP.PEAK_W : Fld := ⟨31, 16, .ro, 2400⟩
def PWR_CAP.CAP_W : Fld := ⟨15, 0, .ro, 2000⟩
/-! PWR_CLOCK, R562 -/
def PWR_CLOCK.F_MAX_MHZ : Fld := ⟨42, 32, .ro, 0⟩
def PWR_CLOCK.F_FIXED_MHZ : Fld := ⟨26, 16, .ro, 1500⟩
def PWR_CLOCK.F_T_MHZ : Fld := ⟨10, 0, .ro, 1600⟩
/-! PWR_CTRL, R563 -/
def PWR_CTRL.THERM_TARGET_C : Fld := ⟨6, 0, .rw, 100⟩
/-! PWR_STAT, R564 -/
def PWR_STAT.CLEAR : Fld := ⟨63, 63, .wo, 0⟩
def PWR_STAT.FIXED_LOWERED : Fld := ⟨47, 32, .ro, 0⟩
def PWR_STAT.CAP_STEPS : Fld := ⟨31, 0, .ro, 0⟩
/-! PWR_EST, R565 -/
def PWR_EST.GAIN : Fld := ⟨63, 48, .ro, 16384⟩
def PWR_EST.OFFSET_W : Fld := ⟨47, 32, .ro, 0⟩
def PWR_EST.EST_W : Fld := ⟨15, 0, .ro, 0⟩
/-! PWR_THERM, R566 -/
def PWR_THERM.VALID : Fld := ⟨16, 16, .ro, 0⟩
def PWR_THERM.TEMP : Fld := ⟨15, 0, .ro, 0⟩
/-! PWR_DROOP, R567 -/
def PWR_DROOP.COUNT : Fld := ⟨31, 0, .ro, 0⟩
/-! LAYOUT_STATUS, R508 -/
def LAYOUT_STATUS.LAST_ERR : Fld := ⟨15, 8, .ro, 0⟩
def LAYOUT_STATUS.UNKEYED : Fld := ⟨7, 7, .ro, 0⟩
def LAYOUT_STATUS.SINGLE : Fld := ⟨6, 6, .ro, 0⟩
def LAYOUT_STATUS.SLOT : Fld := ⟨5, 4, .ro, 0⟩
def LAYOUT_STATUS.BUSY : Fld := ⟨3, 3, .ro, 0⟩
def LAYOUT_STATUS.STATE : Fld := ⟨2, 0, .ro, 0⟩
/-! LAYOUT_SERIAL, R509 -/
def LAYOUT_SERIAL.SERIAL : Fld := ⟨63, 0, .ro, 0⟩
/-! LAYOUT_PART, R510 -/
def LAYOUT_PART.STATE : Fld := ⟨63, 62, .ro, 0⟩
def LAYOUT_PART.SERIAL : Fld := ⟨47, 0, .ro, 0⟩
/-! SEC_STATUS, R536 -/
def SEC_STATUS.SEC_STATE : Fld := ⟨33, 32, .ro, 0⟩
def SEC_STATUS.THROTTLED : Fld := ⟨10, 8, .ro, 0⟩
def SEC_STATUS.ENROLLED : Fld := ⟨0, 0, .ro, 0⟩
/-! SEC_CMD_BUF, R537 -/
def SEC_CMD_BUF.DATA : Fld := ⟨63, 0, .il, 0⟩
/-! SEC_CMD_CTRL, R538 -/
def SEC_CMD_CTRL.GO : Fld := ⟨0, 0, .w1s, 0⟩
/-! SEC_CMD_RESULT, R538 -/
def SEC_CMD_RESULT.ERR : Fld := ⟨15, 8, .ro, 0⟩
def SEC_CMD_RESULT.OPCODE : Fld := ⟨7, 0, .ro, 0⟩
/-! SEC_SLOT, R539 -/
def SEC_SLOT.KEYED : Fld := ⟨63, 63, .ro, 0⟩
def SEC_SLOT.MASTERS : Fld := ⟨18, 16, .ro, 0⟩
def SEC_SLOT.PERM : Fld := ⟨15, 0, .ro, 0⟩
/-! SEC_SLOT_LAST, R539 -/
def SEC_SLOT_LAST.LAST : Fld := ⟨63, 0, .ro, 0⟩
/-! ERR_STATUS, R540 -/
def ERR_STATUS.OVERFLOWS : Fld := ⟨63, 48, .ro, 0⟩
def ERR_STATUS.PENDING : Fld := ⟨42, 32, .ro, 0⟩
def ERR_STATUS.PROD : Fld := ⟨31, 0, .ro, 0⟩
/-! ERR_HOST, R541 -/
def ERR_HOST.LOST_HOST : Fld := ⟨63, 48, .ro, 0⟩
def ERR_HOST.RD : Fld := ⟨31, 0, .rw, 0⟩
/-! ERR_DEGRADED, R542 -/
def ERR_DEGRADED.MODULE_DOWN : Fld := ⟨63, 63, .ro, 0⟩
def ERR_DEGRADED.OUT : Fld := ⟨21, 16, .ro, 0⟩
def ERR_DEGRADED.PARTS : Fld := ⟨15, 0, .ro, 0⟩
/-! ERR_ENTRY, R543 -/
def ERR_ENTRY.DATA : Fld := ⟨63, 0, .ro, 0⟩
/-! PERF_CTL, R620 -/
def PERF_CTL.FREEZE : Fld := ⟨0, 0, .rw, 0⟩
/-! PERF_DUMP_BASE, R621 -/
def PERF_DUMP_BASE.BASE : Fld := ⟨63, 12, .il, 0⟩
/-! PERF_DUMP_CFG, R622 -/
def PERF_DUMP_CFG.EN : Fld := ⟨63, 63, .rw, 0⟩
def PERF_DUMP_CFG.SLOTS : Fld := ⟨51, 32, .il, 1⟩
def PERF_DUMP_CFG.PERIOD_US : Fld := ⟨19, 0, .st, 1000⟩
/-! PERF_DUMP_STAT, R623 -/
def PERF_DUMP_STAT.MISSED : Fld := ⟨63, 32, .ro, 0⟩
def PERF_DUMP_STAT.SEQ : Fld := ⟨31, 0, .ro, 0⟩
/-! PERF_TRACE_BASE, R621 -/
def PERF_TRACE_BASE.BASE : Fld := ⟨63, 12, .il, 0⟩
/-! PERF_TRACE_CFG, R624 -/
def PERF_TRACE_CFG.EN : Fld := ⟨63, 63, .rw, 0⟩
def PERF_TRACE_CFG.SLOTS : Fld := ⟨51, 32, .il, 1⟩
def PERF_TRACE_CFG.HEAD : Fld := ⟨31, 0, .ro, 0⟩
/-! PERF_FUNC, R625 -/
def PERF_FUNC.PERF_USER : Fld := ⟨63, 1, .rw, 0⟩
def PERF_FUNC.PF : Fld := ⟨0, 0, .ro, 1⟩
/-! PERF_BW_CFG, R626 -/
def PERF_BW_CFG.WIN_US : Fld := ⟨9, 0, .st, 100⟩
/-! PERF_CFG, R627 -/
def PERF_CFG.EN : Fld := ⟨63, 63, .rw, 0⟩
def PERF_CFG.CHAIN : Fld := ⟨62, 62, .rw, 0⟩
def PERF_CFG.SAMPLE : Fld := ⟨61, 61, .rw, 0⟩
def PERF_CFG.OVF : Fld := ⟨60, 60, .w1c, 0⟩
def PERF_CFG.MODE : Fld := ⟨59, 58, .rw, 0⟩
def PERF_CFG.THRESH : Fld := ⟨47, 32, .rw, 0⟩
def PERF_CFG.SEL : Fld := ⟨15, 8, .rw, 0⟩
def PERF_CFG.EVENT : Fld := ⟨7, 0, .rw, 0⟩
/-! PERF_VALUE, R628 -/
def PERF_VALUE.COUNT : Fld := ⟨47, 0, .rw, 0⟩
/-! PERF_SAMPLE, R629 -/
def PERF_SAMPLE.VALID : Fld := ⟨63, 63, .w1c, 0⟩
def PERF_SAMPLE.CTR : Fld := ⟨59, 56, .ro, 0⟩
def PERF_SAMPLE.CTX : Fld := ⟨49, 48, .ro, 0⟩
def PERF_SAMPLE.PC : Fld := ⟨13, 0, .ro, 0⟩
/-! PERF_SAMPLE_TIME, R629 -/
def PERF_SAMPLE_TIME.TIME_NS : Fld := ⟨63, 0, .ro, 0⟩
/-! PERF_BW_TX, R630 -/
def PERF_BW_TX.RATE : Fld := ⟨63, 48, .ro, 0⟩
def PERF_BW_TX.BYTES : Fld := ⟨39, 0, .ro, 0⟩
/-! PERF_BW_RX, R630 -/
def PERF_BW_RX.RATE : Fld := ⟨63, 48, .ro, 0⟩
def PERF_BW_RX.BYTES : Fld := ⟨39, 0, .ro, 0⟩
/-! REEVE_STATUS, R307 -/
def REEVE_STATUS.FW_MAJOR : Fld := ⟨63, 56, .ro, 0⟩
def REEVE_STATUS.FW_MINOR : Fld := ⟨55, 48, .ro, 0⟩
def REEVE_STATUS.ACTIVE : Fld := ⟨44, 32, .ro, 0⟩
def REEVE_STATUS.HEARTBEAT : Fld := ⟨31, 16, .ro, 0⟩
def REEVE_STATUS.STATE : Fld := ⟨1, 0, .ro, 0⟩
/-! REEVE_SCHED, R308 -/
def REEVE_SCHED.RERUN_LIMIT : Fld := ⟨47, 44, .rw, 2⟩
def REEVE_SCHED.MISS_LIMIT : Fld := ⟨43, 40, .rw, 3⟩
def REEVE_SCHED.SPILL_MS : Fld := ⟨39, 24, .rw, 1000⟩
def REEVE_SCHED.TAIL_LO_US : Fld := ⟨23, 12, .rw, 50⟩
def REEVE_SCHED.TAIL_HI_US : Fld := ⟨11, 0, .rw, 500⟩
/-! REEVE_PART_CFG, R309 -/
def REEVE_PART_CFG.DUTY_ALLOWED : Fld := ⟨60, 58, .ro, 0⟩
def REEVE_PART_CFG.DUTY : Fld := ⟨57, 56, .ro, 0⟩
def REEVE_PART_CFG.PREEMPT_US : Fld := ⟨55, 44, .st, 100⟩
def REEVE_PART_CFG.PACK_WAIT_US : Fld := ⟨43, 32, .st, 200⟩
def REEVE_PART_CFG.PACK_MIN : Fld := ⟨31, 16, .st, 2048⟩
def REEVE_PART_CFG.PASS_TOKENS : Fld := ⟨15, 0, .st, 4096⟩
/-! REEVE_PART_LAYOUT, R310 -/
def REEVE_PART_LAYOUT.TAIL_MAX : Fld := ⟨28, 24, .ro, 0⟩
def REEVE_PART_LAYOUT.TAIL_MIN : Fld := ⟨20, 16, .ro, 0⟩
def REEVE_PART_LAYOUT.GROUP : Fld := ⟨3, 0, .ro, 0⟩
/-! REEVE_MBOX_CMD, R311 -/
def REEVE_MBOX_CMD.GO : Fld := ⟨8, 8, .w1s, 0⟩
def REEVE_MBOX_CMD.OPCODE : Fld := ⟨7, 0, .il, 0⟩
/-! REEVE_MBOX_RESULT, R311 -/
def REEVE_MBOX_RESULT.ERR : Fld := ⟨7, 0, .ro, 0⟩
/-! REEVE_MBOX_ARG, R312 -/
def REEVE_MBOX_ARG.VALUE : Fld := ⟨63, 0, .il, 0⟩
/-! REEVE_RING_BASE, R313 -/
def REEVE_RING_BASE.BASE : Fld := ⟨63, 12, .il, 0⟩
/-! REEVE_RING_CFG, R314 -/
def REEVE_RING_CFG.BUDGET_COUNT : Fld := ⟨51, 39, .il, 0⟩
def REEVE_RING_CFG.BUDGET_BASE : Fld := ⟨38, 26, .il, 0⟩
def REEVE_RING_CFG.PARTS : Fld := ⟨25, 10, .ro, 0⟩
def REEVE_RING_CFG.PRIO_MAX : Fld := ⟨9, 8, .il, 0⟩
def REEVE_RING_CFG.ENABLE : Fld := ⟨5, 5, .rw, 0⟩
def REEVE_RING_CFG.SIZE_LOG2 : Fld := ⟨4, 0, .il, 4⟩
/-! REEVE_RING_PTR, R315 -/
def REEVE_RING_PTR.FAULT : Fld := ⟨63, 63, .ro, 0⟩
def REEVE_RING_PTR.CONS : Fld := ⟨31, 16, .ro, 0⟩
def REEVE_RING_PTR.PROD : Fld := ⟨15, 0, .ro, 0⟩
/-! REEVE_GRAM_BASE, R397 -/
def REEVE_GRAM_BASE.BASE : Fld := ⟨63, 12, .il, 0⟩
/-! REEVE_GRAM_CFG, R398 -/
def REEVE_GRAM_CFG.ENABLE : Fld := ⟨63, 63, .rw, 0⟩
def REEVE_GRAM_CFG.SHARED : Fld := ⟨62, 62, .il, 0⟩
def REEVE_GRAM_CFG.OWNER : Fld := ⟨61, 56, .il, 0⟩
def REEVE_GRAM_CFG.NMASK : Fld := ⟨51, 32, .il, 0⟩
def REEVE_GRAM_CFG.NSTATE : Fld := ⟨19, 0, .il, 0⟩
/-! REEVE_VARIANT_CFG, R399 -/
def REEVE_VARIANT_CFG.VALID : Fld := ⟨63, 63, .ro, 0⟩
def REEVE_VARIANT_CFG.DRAFT : Fld := ⟨62, 61, .il, 0⟩
def REEVE_VARIANT_CFG.NODES : Fld := ⟨53, 48, .il, 15⟩
def REEVE_VARIANT_CFG.DEPTH : Fld := ⟨47, 44, .il, 4⟩
def REEVE_VARIANT_CFG.BRANCH : Fld := ⟨43, 41, .il, 1⟩
def REEVE_VARIANT_CFG.NGRAM : Fld := ⟨40, 38, .il, 2⟩
def REEVE_VARIANT_CFG.WINDOW : Fld := ⟨37, 35, .il, 1⟩
def REEVE_VARIANT_CFG.NPRIV : Fld := ⟨34, 28, .ro, 0⟩
/-! REEVE_VARIANT_FUNCS, R400 -/
def REEVE_VARIANT_FUNCS.FUNCS : Fld := ⟨63, 0, .ro, 0⟩
/-! REEVE_MODEL, R401 -/
def REEVE_MODEL.STOP_ID : Fld := ⟨63, 32, .ro, 0⟩
def REEVE_MODEL.NSHARED : Fld := ⟨31, 23, .ro, 0⟩
def REEVE_MODEL.EXPERT_K : Fld := ⟨22, 19, .ro, 0⟩
def REEVE_MODEL.VOCAB : Fld := ⟨18, 0, .ro, 0⟩
/-! REEVE_BUDGET_CFG, R316 -/
def REEVE_BUDGET_CFG.CEIL : Fld := ⟨63, 32, .rw, 0⟩
def REEVE_BUDGET_CFG.RATE : Fld := ⟨31, 0, .rw, 0⟩
/-! REEVE_BUDGET_BAL, R316 -/
def REEVE_BUDGET_BAL.BALANCE : Fld := ⟨47, 0, .ro, 0⟩
/-! VAT_GEOM, R104 -/
def VAT_GEOM.SEG_LEN : Fld := ⟨55, 48, .ro, 64⟩
def VAT_GEOM.CURD_SLOTS : Fld := ⟨47, 32, .ro, 4096⟩
def VAT_GEOM.MOULD_ROWS : Fld := ⟨31, 22, .ro, 256⟩
def VAT_GEOM.SPARE_POS : Fld := ⟨21, 18, .ro, 2⟩
def VAT_GEOM.LANES : Fld := ⟨17, 8, .ro, 256⟩
def VAT_GEOM.PLATES : Fld := ⟨7, 0, .ro, 4⟩
/-! VAT_STATUS, R105 -/
def VAT_STATUS.SPARES_FREE : Fld := ⟨17, 16, .ro, 2⟩
def VAT_STATUS.STREAM_MODE : Fld := ⟨15, 15, .ro, 0⟩
def VAT_STATUS.CLK_CLASS : Fld := ⟨14, 14, .ro, 0⟩
def VAT_STATUS.PART : Fld := ⟨11, 8, .ro, 0⟩
def VAT_STATUS.CTX_VALID : Fld := ⟨5, 5, .ro, 0⟩
def VAT_STATUS.CTX : Fld := ⟨4, 3, .ro, 0⟩
def VAT_STATUS.STATE : Fld := ⟨2, 0, .ro, 1⟩
/-! VAT_FLAGS, R106 -/
def VAT_FLAGS.IV : Fld := ⟨3, 3, .w1c, 0⟩
def VAT_FLAGS.OF : Fld := ⟨2, 2, .w1c, 0⟩
def VAT_FLAGS.UF : Fld := ⟨1, 1, .w1c, 0⟩
def VAT_FLAGS.IX : Fld := ⟨0, 0, .w1c, 0⟩
/-! VAT_CHK_CTRL, R107 -/
def VAT_CHK_CTRL.LOG_TRANSIENT : Fld := ⟨2, 2, .rw, 1⟩
def VAT_CHK_CTRL.POLICY : Fld := ⟨1, 0, .st, 0⟩
/-! VAT_CHK_STAT, R108 -/
def VAT_CHK_STAT.CLEAR : Fld := ⟨63, 63, .wo, 0⟩
def VAT_CHK_STAT.SKIPPED : Fld := ⟨47, 32, .ro, 0⟩
def VAT_CHK_STAT.LASTING : Fld := ⟨31, 16, .ro, 0⟩
def VAT_CHK_STAT.TRANSIENT : Fld := ⟨15, 0, .ro, 0⟩
/-! VAT_CHK_LAST, R109 -/
def VAT_CHK_LAST.TOKEN : Fld := ⟨63, 48, .ro, 65535⟩
def VAT_CHK_LAST.POS : Fld := ⟨40, 32, .ro, 511⟩
def VAT_CHK_LAST.VERDICT : Fld := ⟨31, 30, .ro, 0⟩
def VAT_CHK_LAST.PLATE : Fld := ⟨29, 28, .ro, 0⟩
def VAT_CHK_LAST.VALID : Fld := ⟨0, 0, .w1c, 0⟩
/-! VAT_LANE_REMAP, R110 -/
def VAT_LANE_REMAP.SP1_BAD : Fld := ⟨33, 33, .il, 0⟩
def VAT_LANE_REMAP.SP0_BAD : Fld := ⟨32, 32, .il, 0⟩
def VAT_LANE_REMAP.S1_VALID : Fld := ⟨31, 31, .il, 0⟩
def VAT_LANE_REMAP.S1_POS : Fld := ⟨24, 16, .il, 0⟩
def VAT_LANE_REMAP.S0_VALID : Fld := ⟨15, 15, .il, 0⟩
def VAT_LANE_REMAP.S0_POS : Fld := ⟨8, 0, .il, 0⟩
/-! VAT_CURD_SPLIT, R111 -/
def VAT_CURD_SPLIT.SHARE3 : Fld := ⟨31, 24, .il, 0⟩
def VAT_CURD_SPLIT.SHARE2 : Fld := ⟨23, 16, .il, 0⟩
def VAT_CURD_SPLIT.SHARE1 : Fld := ⟨15, 8, .il, 0⟩
def VAT_CURD_SPLIT.SHARE0 : Fld := ⟨7, 0, .il, 16⟩
/-! VAT_ECC_STAT, R112 -/
def VAT_ECC_STAT.CLEAR : Fld := ⟨63, 63, .wo, 0⟩
def VAT_ECC_STAT.RIND_MISMATCH : Fld := ⟨55, 48, .ro, 0⟩
def VAT_ECC_STAT.CURD_UNCORR : Fld := ⟨47, 32, .ro, 0⟩
def VAT_ECC_STAT.CURD_CORR : Fld := ⟨31, 0, .ro, 0⟩
/-! VAT_CTX_CTRL, R163 -/
def VAT_CTX_CTRL.PRIO : Fld := ⟨9, 8, .st, 0⟩
def VAT_CTX_CTRL.ABORT : Fld := ⟨3, 3, .wo, 0⟩
def VAT_CTX_CTRL.RESUME : Fld := ⟨2, 2, .wo, 0⟩
def VAT_CTX_CTRL.PAUSE : Fld := ⟨1, 1, .w1s, 0⟩
def VAT_CTX_CTRL.START : Fld := ⟨0, 0, .wo, 0⟩
/-! VAT_CTX_STATUS, R164 -/
def VAT_CTX_STATUS.HALT_CODE : Fld := ⟨63, 48, .ro, 0⟩
def VAT_CTX_STATUS.DEPTH : Fld := ⟨34, 32, .il, 0⟩
def VAT_CTX_STATUS.PC : Fld := ⟨29, 16, .il, 0⟩
def VAT_CTX_STATUS.ERR : Fld := ⟨15, 8, .ro, 0⟩
def VAT_CTX_STATUS.WAIT_ON : Fld := ⟨5, 4, .ro, 0⟩
def VAT_CTX_STATUS.STATE : Fld := ⟨2, 0, .il, 0⟩
/-! VAT_CTX_PROG, R165 -/
def VAT_CTX_PROG.ENTRY : Fld := ⟨45, 32, .il, 0⟩
def VAT_CTX_PROG.LIMIT : Fld := ⟨29, 16, .il, 16383⟩
def VAT_CTX_PROG.BASE : Fld := ⟨13, 0, .il, 0⟩
/-! VAT_CTX_RESUME, R166 -/
def VAT_CTX_RESUME.MID : Fld := ⟨63, 63, .il, 0⟩
def VAT_CTX_RESUME.PASS : Fld := ⟨51, 48, .il, 0⟩
def VAT_CTX_RESUME.C : Fld := ⟨47, 32, .il, 0⟩
def VAT_CTX_RESUME.B : Fld := ⟨31, 16, .il, 0⟩
def VAT_CTX_RESUME.A : Fld := ⟨15, 0, .il, 0⟩
/-! VAT_CTX_LOOPEND, R168 -/
def VAT_CTX_LOOPEND.END4 : Fld := ⟨61, 48, .il, 0⟩
def VAT_CTX_LOOPEND.END3 : Fld := ⟨45, 32, .il, 0⟩
def VAT_CTX_LOOPEND.END2 : Fld := ⟨29, 16, .il, 0⟩
def VAT_CTX_LOOPEND.END1 : Fld := ⟨13, 0, .il, 0⟩
/-! VAT_CTX_KEPT, R169 -/
def VAT_CTX_KEPT.M : Fld := ⟨28, 16, .il, 0⟩
def VAT_CTX_KEPT.MODE : Fld := ⟨2, 1, .il, 0⟩
def VAT_CTX_KEPT.VALID : Fld := ⟨0, 0, .il, 0⟩
/-! VAT_CTX_ERRTIME, R170 -/
def VAT_CTX_ERRTIME.TIME_NS : Fld := ⟨63, 0, .ro, 0⟩
/-! VAT_CTX_LOOP, R167 -/
def VAT_CTX_LOOP.START : Fld := ⟨61, 48, .il, 0⟩
def VAT_CTX_LOOP.ITER : Fld := ⟨47, 24, .il, 0⟩
def VAT_CTX_LOOP.COUNT : Fld := ⟨23, 0, .il, 0⟩
/-! VAT_CTX_RSLOT, R171 -/
def VAT_CTX_RSLOT.VALUE : Fld := ⟨63, 0, .il, 0⟩
/-! VAT_CTX_PS, R172 -/
def VAT_CTX_PS.VALUE : Fld := ⟨63, 0, .st, 0⟩
/-! VAT_CTX_GEN, R173 -/
def VAT_CTX_GEN.LO : Fld := ⟨31, 0, .il, 0⟩
def VAT_CTX_GEN.HI : Fld := ⟨63, 32, .il, 0⟩
/-! VAT_SEM_FULL, R270 -/
def VAT_SEM_FULL.COUNT : Fld := ⟨31, 0, .rw, 0⟩
/-! VAT_SEM_EMPTY, R270 -/
def VAT_SEM_EMPTY.COUNT : Fld := ⟨31, 0, .rw, 0⟩
/-! VAT_ARRIVAL, R439 -/
def VAT_ARRIVAL.COUNT : Fld := ⟨31, 0, .rw, 0⟩
/-! VAT_PROG_WIN, R174 -/
def VAT_PROG_WIN.HALF : Fld := ⟨0, 0, .rw, 0⟩
/-! VAT_PROG, R175 -/
def VAT_PROG.DATA : Fld := ⟨63, 0, .il, 0⟩
/-! CELLAR_GEOM, R201 -/
def CELLAR_GEOM.ROW_BYTES : Fld := ⟨63, 48, .ro, 512⟩
def CELLAR_GEOM.ROWS_PER_BANK : Fld := ⟨47, 32, .ro, 1024⟩
def CELLAR_GEOM.ROW_ADDR_BITS : Fld := ⟨31, 24, .ro, 17⟩
def CELLAR_GEOM.SPARE_BANKS : Fld := ⟨23, 16, .ro, 4⟩
def CELLAR_GEOM.GROUPS : Fld := ⟨15, 12, .ro, 4⟩
def CELLAR_GEOM.BANKS : Fld := ⟨11, 0, .ro, 128⟩
/-! CELLAR_STATUS, R235 -/
def CELLAR_STATUS.DIRTY_ROWS : Fld := ⟨49, 32, .ro, 0⟩
def CELLAR_STATUS.SCRUB_BUSY : Fld := ⟨4, 4, .ro, 0⟩
def CELLAR_STATUS.SPARES_FREE : Fld := ⟨2, 0, .ro, 4⟩
def CELLAR_STATUS.GS0 : Fld := ⟨9, 8, .ro, 0⟩
def CELLAR_STATUS.GS1 : Fld := ⟨11, 10, .ro, 0⟩
def CELLAR_STATUS.GS2 : Fld := ⟨13, 12, .ro, 0⟩
def CELLAR_STATUS.GS3 : Fld := ⟨15, 14, .ro, 0⟩
/-! CELLAR_GROUP_CTRL, R236 -/
def CELLAR_GROUP_CTRL.OWNED : Fld := ⟨7, 4, .il, 0⟩
def CELLAR_GROUP_CTRL.PWR : Fld := ⟨3, 0, .rw, 0⟩
/-! CELLAR_BANK_MAP, R237 -/
def CELLAR_BANK_MAP.VALID0 : Fld := ⟨15, 15, .il, 0⟩
def CELLAR_BANK_MAP.BAD0 : Fld := ⟨14, 14, .il, 0⟩
def CELLAR_BANK_MAP.COPYING0 : Fld := ⟨13, 13, .ro, 0⟩
def CELLAR_BANK_MAP.LBANK0 : Fld := ⟨6, 0, .il, 0⟩
def CELLAR_BANK_MAP.VALID1 : Fld := ⟨31, 31, .il, 0⟩
def CELLAR_BANK_MAP.BAD1 : Fld := ⟨30, 30, .il, 0⟩
def CELLAR_BANK_MAP.COPYING1 : Fld := ⟨29, 29, .ro, 0⟩
def CELLAR_BANK_MAP.LBANK1 : Fld := ⟨22, 16, .il, 0⟩
def CELLAR_BANK_MAP.VALID2 : Fld := ⟨47, 47, .il, 0⟩
def CELLAR_BANK_MAP.BAD2 : Fld := ⟨46, 46, .il, 0⟩
def CELLAR_BANK_MAP.COPYING2 : Fld := ⟨45, 45, .ro, 0⟩
def CELLAR_BANK_MAP.LBANK2 : Fld := ⟨38, 32, .il, 0⟩
def CELLAR_BANK_MAP.VALID3 : Fld := ⟨63, 63, .il, 0⟩
def CELLAR_BANK_MAP.BAD3 : Fld := ⟨62, 62, .il, 0⟩
def CELLAR_BANK_MAP.COPYING3 : Fld := ⟨61, 61, .ro, 0⟩
def CELLAR_BANK_MAP.LBANK3 : Fld := ⟨54, 48, .il, 0⟩
/-! CELLAR_ERR_STAT, R238 -/
def CELLAR_ERR_STAT.CLEAR : Fld := ⟨63, 63, .wo, 0⟩
def CELLAR_ERR_STAT.LATE_DROP : Fld := ⟨55, 48, .ro, 0⟩
def CELLAR_ERR_STAT.REREAD_OK : Fld := ⟨47, 40, .ro, 0⟩
def CELLAR_ERR_STAT.UNCORR : Fld := ⟨39, 32, .ro, 0⟩
def CELLAR_ERR_STAT.CORR : Fld := ⟨31, 0, .ro, 0⟩
/-! CELLAR_LAST_ERR, R239 -/
def CELLAR_LAST_ERR.KIND : Fld := ⟨63, 60, .ro, 0⟩
def CELLAR_LAST_ERR.ROW : Fld := ⟨48, 32, .ro, 0⟩
def CELLAR_LAST_ERR.VALID : Fld := ⟨0, 0, .w1c, 0⟩
/-! SKIM_CTRL, R240 -/
def SKIM_CTRL.MACS : Fld := ⟨15, 8, .ro, 64⟩
def SKIM_CTRL.CYCLES_PER_ROW : Fld := ⟨7, 4, .ro, 4⟩
def SKIM_CTRL.AVAIL : Fld := ⟨2, 2, .ro, 0⟩
def SKIM_CTRL.SELFTEST_DONE : Fld := ⟨1, 1, .rw, 0⟩
def SKIM_CTRL.THIN_ROUTE : Fld := ⟨0, 0, .rw, 0⟩
/-! SKIM_STAT, R241 -/
def SKIM_STAT.CLEAR : Fld := ⟨63, 63, .wo, 0⟩
def SKIM_STAT.SKIPPED : Fld := ⟨47, 32, .ro, 0⟩
def SKIM_STAT.LASTING : Fld := ⟨31, 16, .ro, 0⟩
def SKIM_STAT.TRANSIENT : Fld := ⟨15, 0, .ro, 0⟩
/-! CELLAR_CLAIM, R215 -/
def CELLAR_CLAIM.HOLDERS : Fld := ⟨23, 16, .ro, 0⟩
def CELLAR_CLAIM.WITHDRAWN : Fld := ⟨7, 7, .ro, 0⟩
def CELLAR_CLAIM.SPARE : Fld := ⟨6, 6, .ro, 0⟩
def CELLAR_CLAIM.COPYING : Fld := ⟨5, 5, .ro, 0⟩
def CELLAR_CLAIM.PORT : Fld := ⟨2, 0, .ro, 0⟩
/-! WAGON_GLB_TAGS, R271 -/
def WAGON_GLB_TAGS.POOL : Fld := ⟨63, 48, .ro, 8192⟩
def WAGON_GLB_TAGS.SHARED : Fld := ⟨47, 32, .ro, 7296⟩
def WAGON_GLB_TAGS.PER_WAGON : Fld := ⟨31, 16, .ro, 512⟩
def WAGON_GLB_TAGS.SHARED_FREE : Fld := ⟨15, 0, .ro, 7296⟩
/-! WAGON_GLB_TIMEOUT, R272 -/
def WAGON_GLB_TIMEOUT.TIMEOUT_FABRIC_US : Fld := ⟨47, 24, .st, 10000⟩
def WAGON_GLB_TIMEOUT.TIMEOUT_LOCAL_US : Fld := ⟨23, 0, .st, 100⟩
/-! WAGON_STATUS, R273 -/
def WAGON_STATUS.TAGS_USED : Fld := ⟨41, 32, .ro, 0⟩
def WAGON_STATUS.ACTIVE : Fld := ⟨8, 1, .ro, 0⟩
def WAGON_STATUS.BUSY : Fld := ⟨0, 0, .ro, 0⟩
/-! WAGON_MISS_INFO, R274 -/
def WAGON_MISS_INFO.CTX : Fld := ⟨8, 7, .ro, 0⟩
def WAGON_MISS_INFO.STREAM : Fld := ⟨6, 1, .ro, 0⟩
def WAGON_MISS_INFO.VALID : Fld := ⟨0, 0, .w1c, 0⟩
/-! WAGON_MISS_TIME, R275 -/
def WAGON_MISS_TIME.TIME_NS : Fld := ⟨63, 0, .ro, 0⟩
/-! WAGON_MISS_DEADLINE, R275 -/
def WAGON_MISS_DEADLINE.TIME_NS : Fld := ⟨63, 0, .ro, 0⟩
/-! WAGON_STREAM_CFG, R276 -/
def WAGON_STREAM_CFG.RATE : Fld := ⟨63, 48, .st, 0⟩
def WAGON_STREAM_CFG.SLACK_NS : Fld := ⟨47, 28, .st, 2000⟩
def WAGON_STREAM_CFG.FILLSRC : Fld := ⟨25, 25, .st, 0⟩
def WAGON_STREAM_CFG.ROWS_PER_COUNT : Fld := ⟨24, 13, .st, 1⟩
def WAGON_STREAM_CFG.PAIR : Fld := ⟨12, 7, .st, 0⟩
def WAGON_STREAM_CFG.RESET : Fld := ⟨1, 1, .wo, 0⟩
def WAGON_STREAM_CFG.ENABLE : Fld := ⟨0, 0, .rw, 1⟩
/-! WAGON_STREAM_STAT, R277 -/
def WAGON_STREAM_STAT.STATE : Fld := ⟨63, 62, .ro, 0⟩
def WAGON_STREAM_STAT.QUEUED : Fld := ⟨61, 59, .ro, 0⟩
def WAGON_STREAM_STAT.CTX : Fld := ⟨58, 57, .ro, 0⟩
def WAGON_STREAM_STAT.ERR : Fld := ⟨47, 40, .ro, 0⟩
def WAGON_STREAM_STAT.DIDX : Fld := ⟨39, 28, .ro, 0⟩
def WAGON_STREAM_STAT.LATE : Fld := ⟨15, 0, .ro, 0⟩
/-! THR_PORT_CFG, R430 -/
def THR_PORT_CFG.EXP_HI : Fld := ⟨63, 48, .il, 0⟩
def THR_PORT_CFG.EXP_LO : Fld := ⟨47, 32, .il, 0⟩
def THR_PORT_CFG.RATE : Fld := ⟨2, 2, .il, 0⟩
def THR_PORT_CFG.MODE : Fld := ⟨1, 0, .il, 1⟩
/-! THR_PORT_STATUS, R431 -/
def THR_PORT_STATUS.RAMP : Fld := ⟨39, 37, .ro, 0⟩
def THR_PORT_STATUS.PPORT : Fld := ⟨36, 32, .ro, 0⟩
def THR_PORT_STATUS.PARTNER : Fld := ⟨31, 16, .ro, 0⟩
def THR_PORT_STATUS.CAUSE : Fld := ⟨15, 8, .ro, 0⟩
def THR_PORT_STATUS.STATE : Fld := ⟨2, 0, .ro, 0⟩
/-! THR_PORT_VCW, R432 -/
def THR_PORT_VCW.W0 : Fld := ⟨7, 0, .st, 32⟩
def THR_PORT_VCW.W1 : Fld := ⟨15, 8, .st, 64⟩
def THR_PORT_VCW.W2 : Fld := ⟨23, 16, .st, 48⟩
def THR_PORT_VCW.W3 : Fld := ⟨31, 24, .st, 48⟩
def THR_PORT_VCW.W4 : Fld := ⟨39, 32, .st, 24⟩
def THR_PORT_VCW.W5 : Fld := ⟨47, 40, .st, 16⟩
def THR_PORT_VCW.W6 : Fld := ⟨55, 48, .st, 16⟩
def THR_PORT_VCW.W7 : Fld := ⟨63, 56, .st, 8⟩
/-! THR_PORT_ERR, R433 -/
def THR_PORT_ERR.CLEAR : Fld := ⟨63, 63, .wo, 0⟩
def THR_PORT_ERR.RETRAINS : Fld := ⟨55, 48, .ro, 0⟩
def THR_PORT_ERR.REPLAYS : Fld := ⟨47, 32, .ro, 0⟩
def THR_PORT_ERR.CRC_ERR : Fld := ⟨31, 0, .ro, 0⟩
/-! THR_GLB_ID, R434 -/
def THR_GLB_ID.MASTER_SLOT : Fld := ⟨22, 20, .ro, 0⟩
def THR_GLB_ID.MASTER : Fld := ⟨19, 19, .ro, 0⟩
def THR_GLB_ID.SLOT : Fld := ⟨18, 16, .ro, 0⟩
def THR_GLB_ID.MODULE : Fld := ⟨15, 0, .ro, 0⟩
/-! THR_GLB_CFG, R435 -/
def THR_GLB_CFG.SPARE_COVER : Fld := ⟨48, 32, .il, 0⟩
def THR_GLB_CFG.DIM : Fld := ⟨31, 16, .il, 0⟩
def THR_GLB_CFG.FABRIC_REG : Fld := ⟨0, 0, .rw, 0⟩
/-! THR_SPARE, R436 -/
def THR_SPARE.ACTIVE : Fld := ⟨7, 7, .ro, 0⟩
def THR_SPARE.FOR : Fld := ⟨4, 0, .ro, 0⟩
/-! THR_TIME, R436 -/
def THR_TIME.STATE : Fld := ⟨33, 32, .ro, 0⟩
def THR_TIME.OFFSET_NS : Fld := ⟨31, 0, .ro, 0⟩
/-! THR_INBOUND_A, R437 -/
def THR_INBOUND_A.SRC_LO : Fld := ⟨63, 48, .il, 0⟩
def THR_INBOUND_A.BASE : Fld := ⟨47, 12, .il, 0⟩
def THR_INBOUND_A.READ : Fld := ⟨3, 3, .il, 0⟩
def THR_INBOUND_A.VC4 : Fld := ⟨2, 2, .il, 0⟩
def THR_INBOUND_A.VC2 : Fld := ⟨1, 1, .il, 0⟩
def THR_INBOUND_A.VALID : Fld := ⟨0, 0, .il, 0⟩
/-! THR_INBOUND_B, R437 -/
def THR_INBOUND_B.SRC_HI : Fld := ⟨63, 48, .il, 0⟩
def THR_INBOUND_B.LIMIT : Fld := ⟨47, 12, .il, 0⟩
/-! THR_WIN_A, R438 -/
def THR_WIN_A.STATE : Fld := ⟨63, 62, .ro, 0⟩
def THR_WIN_A.CTR : Fld := ⟨49, 42, .ro, 0⟩
def THR_WIN_A.LEN : Fld := ⟨33, 17, .ro, 0⟩
def THR_WIN_A.BASE : Fld := ⟨16, 0, .ro, 0⟩
/-! THR_WIN_B, R438 -/
def THR_WIN_B.SRC_HI : Fld := ⟨63, 48, .ro, 0⟩
def THR_WIN_B.SRC_LO : Fld := ⟨47, 32, .ro, 0⟩
def THR_WIN_B.REFUSED : Fld := ⟨31, 0, .ro, 0⟩
/-! SHEAF_DEF_A, R470 -/
def SHEAF_DEF_A.VALID : Fld := ⟨63, 63, .il, 0⟩
def SHEAF_DEF_A.LOCAL : Fld := ⟨52, 48, .il, 0⟩
def SHEAF_DEF_A.CNTM1 : Fld := ⟨31, 16, .il, 0⟩
def SHEAF_DEF_A.LO : Fld := ⟨15, 0, .il, 0⟩
/-! SHEAF_DEF_B, R471 -/
def SHEAF_DEF_B.LEAD : Fld := ⟨63, 48, .ro, 0⟩
def SHEAF_DEF_B.RANK : Fld := ⟨47, 32, .ro, 0⟩
def SHEAF_DEF_B.MEMBER : Fld := ⟨31, 31, .ro, 0⟩
def SHEAF_DEF_B.MEMBERS : Fld := ⟨16, 0, .ro, 0⟩
/-! SHEAF_SEQ, R472 -/
def SHEAF_SEQ.ACTIVE : Fld := ⟨15, 15, .ro, 0⟩
def SHEAF_SEQ.NEXT : Fld := ⟨14, 0, .ro, 0⟩
/-! SHEAF_STATUS, R473 -/
def SHEAF_STATUS.QUEUED : Fld := ⟨42, 32, .ro, 0⟩
def SHEAF_STATUS.ACTIVE : Fld := ⟨20, 16, .ro, 0⟩
def SHEAF_STATUS.READY : Fld := ⟨0, 0, .ro, 0⟩
/-! SHEAF_STAT, R474 -/
def SHEAF_STAT.CLEAR : Fld := ⟨63, 63, .wo, 0⟩
def SHEAF_STAT.MISMATCHES : Fld := ⟨55, 48, .ro, 0⟩
def SHEAF_STAT.ABORTS : Fld := ⟨47, 40, .ro, 0⟩
def SHEAF_STAT.RESENDS : Fld := ⟨39, 24, .ro, 0⟩
def SHEAF_STAT.COMPLETED : Fld := ⟨23, 0, .ro, 0⟩
/-! SHEAF_LAST, R475 -/
def SHEAF_LAST.CAUSE : Fld := ⟨63, 56, .ro, 0⟩
def SHEAF_LAST.REASON : Fld := ⟨55, 48, .ro, 0⟩
def SHEAF_LAST.STEP : Fld := ⟨47, 32, .ro, 0⟩
def SHEAF_LAST.OPSEQ : Fld := ⟨31, 16, .ro, 0⟩
def SHEAF_LAST.DEF : Fld := ⟨15, 6, .ro, 0⟩
def SHEAF_LAST.VALID : Fld := ⟨0, 0, .w1c, 0⟩
/-! HBM_STATUS, R599 -/
def HBM_STATUS.RETIRED_PC : Fld := ⟨23, 16, .ro, 0⟩
def HBM_STATUS.REPAIRS : Fld := ⟨15, 8, .ro, 0⟩
def HBM_STATUS.PC_SPARES : Fld := ⟨3, 2, .ro, 2⟩
def HBM_STATUS.COPYING : Fld := ⟨1, 1, .ro, 0⟩
def HBM_STATUS.TRAINED : Fld := ⟨0, 0, .ro, 0⟩
/-! HBM_ECC, R600 -/
def HBM_ECC.CLEAR : Fld := ⟨63, 63, .wo, 0⟩
def HBM_ECC.POISONED : Fld := ⟨55, 48, .ro, 0⟩
def HBM_ECC.REREAD_OK : Fld := ⟨47, 32, .ro, 0⟩
def HBM_ECC.CORR : Fld := ⟨31, 0, .ro, 0⟩
/-! KVX_STATUS, R354 -/
def KVX_STATUS.DOWN_COUNT : Fld := ⟨44, 32, .ro, 0⟩
def KVX_STATUS.QUEUED : Fld := ⟨31, 10, .ro, 0⟩
def KVX_STATUS.TAGS_USED : Fld := ⟨9, 0, .ro, 0⟩
/-! KVX_STAT, R355 -/
def KVX_STAT.CLEAR : Fld := ⟨63, 63, .wo, 0⟩
def KVX_STAT.DROPPED_IN : Fld := ⟨62, 48, .ro, 0⟩
def KVX_STAT.MARKERS : Fld := ⟨47, 32, .ro, 0⟩
def KVX_STAT.PAGES : Fld := ⟨31, 0, .ro, 0⟩
/-! KVX_PORT_CFG, R356 -/
def KVX_PORT_CFG.MAC : Fld := ⟨63, 16, .il, 0⟩
def KVX_PORT_CFG.PFC_PRIO : Fld := ⟨15, 13, .il, 3⟩
def KVX_PORT_CFG.VLAN_EN : Fld := ⟨12, 12, .il, 0⟩
def KVX_PORT_CFG.VLAN_ID : Fld := ⟨11, 0, .il, 0⟩
/-! KVX_PORT_NET, R357 -/
def KVX_PORT_NET.DSCP : Fld := ⟨63, 58, .il, 26⟩
def KVX_PORT_NET.MTU : Fld := ⟨57, 56, .il, 2⟩
def KVX_PORT_NET.IPV6 : Fld := ⟨55, 55, .il, 0⟩
def KVX_PORT_NET.ACK_TIMEOUT_US : Fld := ⟨15, 0, .il, 100⟩
/-! KVX_PORT_IP_HI, R358 -/
def KVX_PORT_IP_HI.ADDR : Fld := ⟨63, 0, .il, 0⟩
/-! KVX_PORT_IP_LO, R358 -/
def KVX_PORT_IP_LO.ADDR : Fld := ⟨63, 0, .il, 0⟩
/-! KVX_PORT_CC, R359 -/
def KVX_PORT_CC.CUT : Fld := ⟨63, 56, .st, 64⟩
def KVX_PORT_CC.CUT_GAP_US : Fld := ⟨55, 40, .st, 50⟩
def KVX_PORT_CC.STEP_US : Fld := ⟨39, 24, .st, 55⟩
def KVX_PORT_CC.STEP : Fld := ⟨23, 14, .st, 8⟩
def KVX_PORT_CC.MIN_RATE : Fld := ⟨9, 0, .st, 8⟩
/-! KVX_PEER_MAC, R360 -/
def KVX_PEER_MAC.MAC : Fld := ⟨63, 16, .il, 0⟩
/-! KVX_PEER_IP_HI, R360 -/
def KVX_PEER_IP_HI.ADDR : Fld := ⟨63, 0, .il, 0⟩
/-! KVX_PEER_IP_LO, R360 -/
def KVX_PEER_IP_LO.ADDR : Fld := ⟨63, 0, .il, 0⟩
/-! KVX_DEST_CFG, R361 -/
def KVX_DEST_CFG.ENABLE : Fld := ⟨63, 63, .rw, 0⟩
def KVX_DEST_CFG.DOWN : Fld := ⟨62, 62, .ro, 0⟩
def KVX_DEST_CFG.OWNER : Fld := ⟨61, 56, .il, 0⟩
def KVX_DEST_CFG.PATH : Fld := ⟨55, 54, .il, 0⟩
def KVX_DEST_CFG.FMT : Fld := ⟨53, 50, .il, 0⟩
def KVX_DEST_CFG.RM : Fld := ⟨49, 48, .il, 0⟩
def KVX_DEST_CFG.SLOT_KIB : Fld := ⟨47, 40, .il, 36⟩
def KVX_DEST_CFG.SLOTS_LOG2 : Fld := ⟨39, 32, .il, 6⟩
def KVX_DEST_CFG.MODULE : Fld := ⟨31, 16, .il, 0⟩
def KVX_DEST_CFG.PEER : Fld := ⟨15, 8, .il, 0⟩
def KVX_DEST_CFG.CREDIT_TIMEOUT_MS : Fld := ⟨7, 0, .rw, 100⟩
/-! KVX_DEST_BASE, R362 -/
def KVX_DEST_BASE.BASE : Fld := ⟨63, 0, .il, 0⟩
/-! KVX_DEST_KEY, R363 -/
def KVX_DEST_KEY.COARSE : Fld := ⟨63, 32, .il, 0x3f800000⟩
def KVX_DEST_KEY.RKEY : Fld := ⟨31, 0, .il, 0⟩
/-! KVX_DEST_QP, R364 -/
def KVX_DEST_QP.SPSN : Fld := ⟨63, 40, .il, 0⟩
def KVX_DEST_QP.DQPN : Fld := ⟨39, 16, .il, 0⟩
/-! KVX_DEST_CREDIT, R365 -/
def KVX_DEST_CREDIT.CREDIT : Fld := ⟨63, 0, .rw, 0⟩
/-! KVX_DEST_SEQ, R365 -/
def KVX_DEST_SEQ.NEXT_SEQ : Fld := ⟨63, 0, .ro, 0⟩
/-! KVX_DEST_STAT, R366 -/
def KVX_DEST_STAT.ERR : Fld := ⟨63, 56, .ro, 0⟩
def KVX_DEST_STAT.CAUSE : Fld := ⟨55, 48, .ro, 0⟩
def KVX_DEST_STAT.STALLS : Fld := ⟨31, 16, .ro, 0⟩
def KVX_DEST_STAT.QUEUED : Fld := ⟨15, 0, .ro, 0⟩
/-! PFX_STATUS, R367 -/
def PFX_STATUS.VALID : Fld := ⟨52, 32, .ro, 0⟩
def PFX_STATUS.SPILLED : Fld := ⟨20, 8, .ro, 0⟩
def PFX_STATUS.READY : Fld := ⟨0, 0, .ro, 0⟩
/-! PFX_STAT, R368 -/
def PFX_STAT.CLEAR : Fld := ⟨63, 63, .wo, 0⟩
def PFX_STAT.ID_MISMATCH : Fld := ⟨62, 48, .ro, 0⟩
def PFX_STAT.LOOKUPS : Fld := ⟨47, 24, .ro, 0⟩
def PFX_STAT.HITS : Fld := ⟨23, 0, .ro, 0⟩
/-! PFX_SPILL_STAT, R368 -/
def PFX_SPILL_STAT.CLEAR : Fld := ⟨63, 63, .wo, 0⟩
def PFX_SPILL_STAT.NOT_INSERTED : Fld := ⟨62, 48, .ro, 0⟩
def PFX_SPILL_STAT.EXPIRED : Fld := ⟨47, 32, .ro, 0⟩
def PFX_SPILL_STAT.DEFERRED : Fld := ⟨31, 16, .ro, 0⟩
def PFX_SPILL_STAT.CRC_FAIL : Fld := ⟨15, 0, .ro, 0⟩
/-! PFX_GROUP_IDX, R369 -/
def PFX_GROUP_IDX.BLOCK_KIB : Fld := ⟨63, 48, .ro, 0⟩
def PFX_GROUP_IDX.INDEX_BASE : Fld := ⟨47, 12, .ro, 0⟩
def PFX_GROUP_IDX.ENTRIES_LOG2 : Fld := ⟨4, 0, .ro, 0⟩
/-! PFX_GROUP_POOL, R369 -/
def PFX_GROUP_POOL.POOL_BLOCKS : Fld := ⟨63, 48, .ro, 0⟩
def PFX_GROUP_POOL.POOL_BASE : Fld := ⟨47, 12, .ro, 0⟩
/-! PFX_FUNC_CFG, R370 -/
def PFX_FUNC_CFG.TENANT : Fld := ⟨63, 56, .il, 0⟩
def PFX_FUNC_CFG.TTL_S : Fld := ⟨55, 39, .il, 3600⟩
def PFX_FUNC_CFG.SPILL_EN : Fld := ⟨38, 38, .il, 0⟩
/-! PFX_SPILL_BASE, R371 -/
def PFX_SPILL_BASE.BASE : Fld := ⟨63, 12, .il, 0⟩
/-! PFX_SPILL_SIZE, R371 -/
def PFX_SPILL_SIZE.SIZE_4K : Fld := ⟨35, 0, .il, 0⟩
/-! PFX_TENANT_GEN, R372 -/
def PFX_TENANT_GEN.KEYED : Fld := ⟨16, 16, .ro, 0⟩
def PFX_TENANT_GEN.GEN : Fld := ⟨15, 0, .ro, 0⟩
/-! HOST_STATUS, R594 -/
def HOST_STATUS.NUM_VFS : Fld := ⟨29, 24, .ro, 0⟩
def HOST_STATUS.TOTAL_VFS : Fld := ⟨23, 18, .ro, 0⟩
def HOST_STATUS.WIDTH : Fld := ⟨17, 13, .ro, 0⟩
def HOST_STATUS.SPEED : Fld := ⟨12, 10, .ro, 0⟩
def HOST_STATUS.FLIT : Fld := ⟨9, 9, .ro, 0⟩
def HOST_STATUS.LINK_UP : Fld := ⟨0, 0, .ro, 0⟩
/-! HOST_ACC, R595 -/
def HOST_ACC.ERR : Fld := ⟨63, 56, .ro, 0⟩
def HOST_ACC.OFFSET : Fld := ⟨55, 30, .ro, 0⟩
def HOST_ACC.BAR2 : Fld := ⟨29, 29, .ro, 0⟩
def HOST_ACC.COUNT : Fld := ⟨15, 1, .ro, 0⟩
def HOST_ACC.VALID : Fld := ⟨0, 0, .w1c, 0⟩
/-! MGMT_STATUS, R596 -/
def MGMT_STATUS.ADDR : Fld := ⟨38, 32, .ro, 0⟩
def MGMT_STATUS.TIMEOUTS : Fld := ⟨31, 16, .ro, 0⟩
def MGMT_STATUS.PEC_ERR : Fld := ⟨15, 0, .ro, 0⟩
/-! MGMT_ALERT, R597 -/
def MGMT_ALERT.RESET : Fld := ⟨5, 5, .w1c, 0⟩
def MGMT_ALERT.SEC : Fld := ⟨4, 4, .w1c, 0⟩
def MGMT_ALERT.DEGRADED : Fld := ⟨3, 3, .w1c, 0⟩
def MGMT_ALERT.INPUT : Fld := ⟨2, 2, .w1c, 0⟩
def MGMT_ALERT.THERM : Fld := ⟨1, 1, .w1c, 0⟩
def MGMT_ALERT.CAP : Fld := ⟨0, 0, .w1c, 0⟩
/-! MGMT_ALERT_EN, R597 -/
def MGMT_ALERT_EN.EN : Fld := ⟨5, 0, .rw, 63⟩

/-- The fields of a register. -/
def Reg.flds : Reg → List Fld
  | .GLB_ID => [GLB_ID.VENDOR, GLB_ID.DEVICE, GLB_ID.STEPPING]
  | .GLB_VAT_MAP_LO => [GLB_VAT_MAP_LO.VALID0, GLB_VAT_MAP_LO.PHYS0, GLB_VAT_MAP_LO.VALID1, GLB_VAT_MAP_LO.PHYS1, GLB_VAT_MAP_LO.VALID2, GLB_VAT_MAP_LO.PHYS2, GLB_VAT_MAP_LO.VALID3, GLB_VAT_MAP_LO.PHYS3, GLB_VAT_MAP_LO.VALID4, GLB_VAT_MAP_LO.PHYS4, GLB_VAT_MAP_LO.VALID5, GLB_VAT_MAP_LO.PHYS5, GLB_VAT_MAP_LO.VALID6, GLB_VAT_MAP_LO.PHYS6, GLB_VAT_MAP_LO.VALID7, GLB_VAT_MAP_LO.PHYS7]
  | .GLB_VAT_MAP_HI => [GLB_VAT_MAP_HI.VALID0, GLB_VAT_MAP_HI.PHYS0, GLB_VAT_MAP_HI.VALID1, GLB_VAT_MAP_HI.PHYS1, GLB_VAT_MAP_HI.VALID2, GLB_VAT_MAP_HI.PHYS2, GLB_VAT_MAP_HI.VALID3, GLB_VAT_MAP_HI.PHYS3, GLB_VAT_MAP_HI.VALID4, GLB_VAT_MAP_HI.PHYS4, GLB_VAT_MAP_HI.VALID5, GLB_VAT_MAP_HI.PHYS5, GLB_VAT_MAP_HI.VALID6, GLB_VAT_MAP_HI.PHYS6, GLB_VAT_MAP_HI.VALID7, GLB_VAT_MAP_HI.PHYS7]
  | .GLB_VAT_PART => [GLB_VAT_PART.PART0, GLB_VAT_PART.PART1, GLB_VAT_PART.PART2, GLB_VAT_PART.PART3, GLB_VAT_PART.PART4, GLB_VAT_PART.PART5, GLB_VAT_PART.PART6, GLB_VAT_PART.PART7, GLB_VAT_PART.PART8, GLB_VAT_PART.PART9, GLB_VAT_PART.PART10, GLB_VAT_PART.PART11, GLB_VAT_PART.PART12, GLB_VAT_PART.PART13, GLB_VAT_PART.PART14, GLB_VAT_PART.PART15]
  | .GLB_TIME => [GLB_TIME.TIME_NS]
  | .GLB_DNET_ERR => [GLB_DNET_ERR.CLEAR, GLB_DNET_ERR.PART_DROP, GLB_DNET_ERR.POISON, GLB_DNET_ERR.CORR]
  | .RST_CAUSE => [RST_CAUSE.DETAIL, RST_CAUSE.LEVEL, RST_CAUSE.CAUSE]
  | .RST_TIME => [RST_TIME.TIME_NS]
  | .RST_STATUS => [RST_STATUS.EPOCH, RST_STATUS.LFAIL, RST_STATUS.FUSE_BAD, RST_STATUS.PHASE]
  | .RST_WDT => [RST_WDT.KICK, RST_WDT.TIMEOUT_MS]
  | .RST_PART_LAST => [RST_PART_LAST.PART, RST_PART_LAST.REASON, RST_PART_LAST.VALID]
  | .RST_FUSE => [RST_FUSE.SEC_STATE, RST_FUSE.OPT, RST_FUSE.VAT_DIS]
  | .RST_UNITS => [RST_UNITS.FREE, RST_UNITS.RETIRED]
  | .RST_FUSE_UNIT _ => [RST_FUSE_UNIT.BANK0, RST_FUSE_UNIT.BANK1, RST_FUSE_UNIT.BANK2, RST_FUSE_UNIT.BANK3, RST_FUSE_UNIT.LANE1, RST_FUSE_UNIT.LANE0]
  | .PWR_STATUS => [PWR_STATUS.P_IN_W, PWR_STATUS.I_IN, PWR_STATUS.V_IN_MV, PWR_STATUS.CAL_HOLD, PWR_STATUS.INPUT_WARN, PWR_STATUS.FIXED_HELD, PWR_STATUS.THERM_LIMIT, PWR_STATUS.THERM_REG, PWR_STATUS.CAP_LIMIT]
  | .PWR_CAP => [PWR_CAP.FIXED_FLOOR_W, PWR_CAP.PEAK_W, PWR_CAP.CAP_W]
  | .PWR_CLOCK => [PWR_CLOCK.F_MAX_MHZ, PWR_CLOCK.F_FIXED_MHZ, PWR_CLOCK.F_T_MHZ]
  | .PWR_CTRL => [PWR_CTRL.THERM_TARGET_C]
  | .PWR_STAT => [PWR_STAT.CLEAR, PWR_STAT.FIXED_LOWERED, PWR_STAT.CAP_STEPS]
  | .PWR_EST _ => [PWR_EST.GAIN, PWR_EST.OFFSET_W, PWR_EST.EST_W]
  | .PWR_THERM _ => [PWR_THERM.VALID, PWR_THERM.TEMP]
  | .PWR_DROOP _ => [PWR_DROOP.COUNT]
  | .LAYOUT_STATUS => [LAYOUT_STATUS.LAST_ERR, LAYOUT_STATUS.UNKEYED, LAYOUT_STATUS.SINGLE, LAYOUT_STATUS.SLOT, LAYOUT_STATUS.BUSY, LAYOUT_STATUS.STATE]
  | .LAYOUT_SERIAL => [LAYOUT_SERIAL.SERIAL]
  | .LAYOUT_PART _ => [LAYOUT_PART.STATE, LAYOUT_PART.SERIAL]
  | .SEC_STATUS => [SEC_STATUS.SEC_STATE, SEC_STATUS.THROTTLED, SEC_STATUS.ENROLLED]
  | .SEC_CMD_BUF _ _ => [SEC_CMD_BUF.DATA]
  | .SEC_CMD_CTRL _ => [SEC_CMD_CTRL.GO]
  | .SEC_CMD_RESULT _ => [SEC_CMD_RESULT.ERR, SEC_CMD_RESULT.OPCODE]
  | .SEC_SLOT _ => [SEC_SLOT.KEYED, SEC_SLOT.MASTERS, SEC_SLOT.PERM]
  | .SEC_SLOT_LAST _ => [SEC_SLOT_LAST.LAST]
  | .ERR_STATUS => [ERR_STATUS.OVERFLOWS, ERR_STATUS.PENDING, ERR_STATUS.PROD]
  | .ERR_HOST => [ERR_HOST.LOST_HOST, ERR_HOST.RD]
  | .ERR_DEGRADED => [ERR_DEGRADED.MODULE_DOWN, ERR_DEGRADED.OUT, ERR_DEGRADED.PARTS]
  | .ERR_ENTRY _ _ => [ERR_ENTRY.DATA]
  | .PERF_CTL => [PERF_CTL.FREEZE]
  | .PERF_DUMP_BASE => [PERF_DUMP_BASE.BASE]
  | .PERF_DUMP_CFG => [PERF_DUMP_CFG.EN, PERF_DUMP_CFG.SLOTS, PERF_DUMP_CFG.PERIOD_US]
  | .PERF_DUMP_STAT => [PERF_DUMP_STAT.MISSED, PERF_DUMP_STAT.SEQ]
  | .PERF_TRACE_BASE => [PERF_TRACE_BASE.BASE]
  | .PERF_TRACE_CFG => [PERF_TRACE_CFG.EN, PERF_TRACE_CFG.SLOTS, PERF_TRACE_CFG.HEAD]
  | .PERF_FUNC => [PERF_FUNC.PERF_USER, PERF_FUNC.PF]
  | .PERF_BW_CFG => [PERF_BW_CFG.WIN_US]
  | .PERF_CFG _ _ => [PERF_CFG.EN, PERF_CFG.CHAIN, PERF_CFG.SAMPLE, PERF_CFG.OVF, PERF_CFG.MODE, PERF_CFG.THRESH, PERF_CFG.SEL, PERF_CFG.EVENT]
  | .PERF_VALUE _ _ => [PERF_VALUE.COUNT]
  | .PERF_SAMPLE _ => [PERF_SAMPLE.VALID, PERF_SAMPLE.CTR, PERF_SAMPLE.CTX, PERF_SAMPLE.PC]
  | .PERF_SAMPLE_TIME _ => [PERF_SAMPLE_TIME.TIME_NS]
  | .PERF_BW_TX _ => [PERF_BW_TX.RATE, PERF_BW_TX.BYTES]
  | .PERF_BW_RX _ => [PERF_BW_RX.RATE, PERF_BW_RX.BYTES]
  | .REEVE_STATUS => [REEVE_STATUS.FW_MAJOR, REEVE_STATUS.FW_MINOR, REEVE_STATUS.ACTIVE, REEVE_STATUS.HEARTBEAT, REEVE_STATUS.STATE]
  | .REEVE_SCHED => [REEVE_SCHED.RERUN_LIMIT, REEVE_SCHED.MISS_LIMIT, REEVE_SCHED.SPILL_MS, REEVE_SCHED.TAIL_LO_US, REEVE_SCHED.TAIL_HI_US]
  | .REEVE_PART_CFG _ => [REEVE_PART_CFG.DUTY_ALLOWED, REEVE_PART_CFG.DUTY, REEVE_PART_CFG.PREEMPT_US, REEVE_PART_CFG.PACK_WAIT_US, REEVE_PART_CFG.PACK_MIN, REEVE_PART_CFG.PASS_TOKENS]
  | .REEVE_PART_LAYOUT _ => [REEVE_PART_LAYOUT.TAIL_MAX, REEVE_PART_LAYOUT.TAIL_MIN, REEVE_PART_LAYOUT.GROUP]
  | .REEVE_MBOX_CMD => [REEVE_MBOX_CMD.GO, REEVE_MBOX_CMD.OPCODE]
  | .REEVE_MBOX_RESULT => [REEVE_MBOX_RESULT.ERR]
  | .REEVE_MBOX_ARG _ => [REEVE_MBOX_ARG.VALUE]
  | .REEVE_RING_BASE _ => [REEVE_RING_BASE.BASE]
  | .REEVE_RING_CFG _ => [REEVE_RING_CFG.BUDGET_COUNT, REEVE_RING_CFG.BUDGET_BASE, REEVE_RING_CFG.PARTS, REEVE_RING_CFG.PRIO_MAX, REEVE_RING_CFG.ENABLE, REEVE_RING_CFG.SIZE_LOG2]
  | .REEVE_RING_PTR _ => [REEVE_RING_PTR.FAULT, REEVE_RING_PTR.CONS, REEVE_RING_PTR.PROD]
  | .REEVE_GRAM_BASE _ => [REEVE_GRAM_BASE.BASE]
  | .REEVE_GRAM_CFG _ => [REEVE_GRAM_CFG.ENABLE, REEVE_GRAM_CFG.SHARED, REEVE_GRAM_CFG.OWNER, REEVE_GRAM_CFG.NMASK, REEVE_GRAM_CFG.NSTATE]
  | .REEVE_VARIANT_CFG _ => [REEVE_VARIANT_CFG.VALID, REEVE_VARIANT_CFG.DRAFT, REEVE_VARIANT_CFG.NODES, REEVE_VARIANT_CFG.DEPTH, REEVE_VARIANT_CFG.BRANCH, REEVE_VARIANT_CFG.NGRAM, REEVE_VARIANT_CFG.WINDOW, REEVE_VARIANT_CFG.NPRIV]
  | .REEVE_VARIANT_FUNCS _ => [REEVE_VARIANT_FUNCS.FUNCS]
  | .REEVE_MODEL => [REEVE_MODEL.STOP_ID, REEVE_MODEL.NSHARED, REEVE_MODEL.EXPERT_K, REEVE_MODEL.VOCAB]
  | .REEVE_BUDGET_CFG _ => [REEVE_BUDGET_CFG.CEIL, REEVE_BUDGET_CFG.RATE]
  | .REEVE_BUDGET_BAL _ => [REEVE_BUDGET_BAL.BALANCE]
  | .VAT_GEOM _ => [VAT_GEOM.SEG_LEN, VAT_GEOM.CURD_SLOTS, VAT_GEOM.MOULD_ROWS, VAT_GEOM.SPARE_POS, VAT_GEOM.LANES, VAT_GEOM.PLATES]
  | .VAT_STATUS _ => [VAT_STATUS.SPARES_FREE, VAT_STATUS.STREAM_MODE, VAT_STATUS.CLK_CLASS, VAT_STATUS.PART, VAT_STATUS.CTX_VALID, VAT_STATUS.CTX, VAT_STATUS.STATE]
  | .VAT_FLAGS _ => [VAT_FLAGS.IV, VAT_FLAGS.OF, VAT_FLAGS.UF, VAT_FLAGS.IX]
  | .VAT_CHK_CTRL _ => [VAT_CHK_CTRL.LOG_TRANSIENT, VAT_CHK_CTRL.POLICY]
  | .VAT_CHK_STAT _ => [VAT_CHK_STAT.CLEAR, VAT_CHK_STAT.SKIPPED, VAT_CHK_STAT.LASTING, VAT_CHK_STAT.TRANSIENT]
  | .VAT_CHK_LAST _ => [VAT_CHK_LAST.TOKEN, VAT_CHK_LAST.POS, VAT_CHK_LAST.VERDICT, VAT_CHK_LAST.PLATE, VAT_CHK_LAST.VALID]
  | .VAT_LANE_REMAP _ => [VAT_LANE_REMAP.SP1_BAD, VAT_LANE_REMAP.SP0_BAD, VAT_LANE_REMAP.S1_VALID, VAT_LANE_REMAP.S1_POS, VAT_LANE_REMAP.S0_VALID, VAT_LANE_REMAP.S0_POS]
  | .VAT_CURD_SPLIT _ => [VAT_CURD_SPLIT.SHARE3, VAT_CURD_SPLIT.SHARE2, VAT_CURD_SPLIT.SHARE1, VAT_CURD_SPLIT.SHARE0]
  | .VAT_ECC_STAT _ => [VAT_ECC_STAT.CLEAR, VAT_ECC_STAT.RIND_MISMATCH, VAT_ECC_STAT.CURD_UNCORR, VAT_ECC_STAT.CURD_CORR]
  | .VAT_CTX_CTRL _ _ => [VAT_CTX_CTRL.PRIO, VAT_CTX_CTRL.ABORT, VAT_CTX_CTRL.RESUME, VAT_CTX_CTRL.PAUSE, VAT_CTX_CTRL.START]
  | .VAT_CTX_STATUS _ _ => [VAT_CTX_STATUS.HALT_CODE, VAT_CTX_STATUS.DEPTH, VAT_CTX_STATUS.PC, VAT_CTX_STATUS.ERR, VAT_CTX_STATUS.WAIT_ON, VAT_CTX_STATUS.STATE]
  | .VAT_CTX_PROG _ _ => [VAT_CTX_PROG.ENTRY, VAT_CTX_PROG.LIMIT, VAT_CTX_PROG.BASE]
  | .VAT_CTX_RESUME _ _ => [VAT_CTX_RESUME.MID, VAT_CTX_RESUME.PASS, VAT_CTX_RESUME.C, VAT_CTX_RESUME.B, VAT_CTX_RESUME.A]
  | .VAT_CTX_LOOPEND _ _ => [VAT_CTX_LOOPEND.END4, VAT_CTX_LOOPEND.END3, VAT_CTX_LOOPEND.END2, VAT_CTX_LOOPEND.END1]
  | .VAT_CTX_KEPT _ _ => [VAT_CTX_KEPT.M, VAT_CTX_KEPT.MODE, VAT_CTX_KEPT.VALID]
  | .VAT_CTX_ERRTIME _ _ => [VAT_CTX_ERRTIME.TIME_NS]
  | .VAT_CTX_LOOP _ _ _ => [VAT_CTX_LOOP.START, VAT_CTX_LOOP.ITER, VAT_CTX_LOOP.COUNT]
  | .VAT_CTX_RSLOT _ _ _ => [VAT_CTX_RSLOT.VALUE]
  | .VAT_CTX_PS _ _ _ => [VAT_CTX_PS.VALUE]
  | .VAT_CTX_GEN _ _ _ _ => [VAT_CTX_GEN.LO, VAT_CTX_GEN.HI]
  | .VAT_SEM_FULL _ _ => [VAT_SEM_FULL.COUNT]
  | .VAT_SEM_EMPTY _ _ => [VAT_SEM_EMPTY.COUNT]
  | .VAT_ARRIVAL _ _ => [VAT_ARRIVAL.COUNT]
  | .VAT_PROG_WIN _ => [VAT_PROG_WIN.HALF]
  | .VAT_PROG _ _ _ => [VAT_PROG.DATA]
  | .CELLAR_GEOM _ => [CELLAR_GEOM.ROW_BYTES, CELLAR_GEOM.ROWS_PER_BANK, CELLAR_GEOM.ROW_ADDR_BITS, CELLAR_GEOM.SPARE_BANKS, CELLAR_GEOM.GROUPS, CELLAR_GEOM.BANKS]
  | .CELLAR_STATUS _ => [CELLAR_STATUS.DIRTY_ROWS, CELLAR_STATUS.SCRUB_BUSY, CELLAR_STATUS.SPARES_FREE, CELLAR_STATUS.GS0, CELLAR_STATUS.GS1, CELLAR_STATUS.GS2, CELLAR_STATUS.GS3]
  | .CELLAR_GROUP_CTRL _ => [CELLAR_GROUP_CTRL.OWNED, CELLAR_GROUP_CTRL.PWR]
  | .CELLAR_BANK_MAP _ => [CELLAR_BANK_MAP.VALID0, CELLAR_BANK_MAP.BAD0, CELLAR_BANK_MAP.COPYING0, CELLAR_BANK_MAP.LBANK0, CELLAR_BANK_MAP.VALID1, CELLAR_BANK_MAP.BAD1, CELLAR_BANK_MAP.COPYING1, CELLAR_BANK_MAP.LBANK1, CELLAR_BANK_MAP.VALID2, CELLAR_BANK_MAP.BAD2, CELLAR_BANK_MAP.COPYING2, CELLAR_BANK_MAP.LBANK2, CELLAR_BANK_MAP.VALID3, CELLAR_BANK_MAP.BAD3, CELLAR_BANK_MAP.COPYING3, CELLAR_BANK_MAP.LBANK3]
  | .CELLAR_ERR_STAT _ => [CELLAR_ERR_STAT.CLEAR, CELLAR_ERR_STAT.LATE_DROP, CELLAR_ERR_STAT.REREAD_OK, CELLAR_ERR_STAT.UNCORR, CELLAR_ERR_STAT.CORR]
  | .CELLAR_LAST_ERR _ => [CELLAR_LAST_ERR.KIND, CELLAR_LAST_ERR.ROW, CELLAR_LAST_ERR.VALID]
  | .SKIM_CTRL _ => [SKIM_CTRL.MACS, SKIM_CTRL.CYCLES_PER_ROW, SKIM_CTRL.AVAIL, SKIM_CTRL.SELFTEST_DONE, SKIM_CTRL.THIN_ROUTE]
  | .SKIM_STAT _ => [SKIM_STAT.CLEAR, SKIM_STAT.SKIPPED, SKIM_STAT.LASTING, SKIM_STAT.TRANSIENT]
  | .CELLAR_CLAIM _ _ => [CELLAR_CLAIM.HOLDERS, CELLAR_CLAIM.WITHDRAWN, CELLAR_CLAIM.SPARE, CELLAR_CLAIM.COPYING, CELLAR_CLAIM.PORT]
  | .WAGON_GLB_TAGS => [WAGON_GLB_TAGS.POOL, WAGON_GLB_TAGS.SHARED, WAGON_GLB_TAGS.PER_WAGON, WAGON_GLB_TAGS.SHARED_FREE]
  | .WAGON_GLB_TIMEOUT => [WAGON_GLB_TIMEOUT.TIMEOUT_FABRIC_US, WAGON_GLB_TIMEOUT.TIMEOUT_LOCAL_US]
  | .WAGON_STATUS _ => [WAGON_STATUS.TAGS_USED, WAGON_STATUS.ACTIVE, WAGON_STATUS.BUSY]
  | .WAGON_MISS_INFO _ => [WAGON_MISS_INFO.CTX, WAGON_MISS_INFO.STREAM, WAGON_MISS_INFO.VALID]
  | .WAGON_MISS_TIME _ => [WAGON_MISS_TIME.TIME_NS]
  | .WAGON_MISS_DEADLINE _ => [WAGON_MISS_DEADLINE.TIME_NS]
  | .WAGON_STREAM_CFG _ s => [WAGON_STREAM_CFG.RATE, WAGON_STREAM_CFG.SLACK_NS, WAGON_STREAM_CFG.FILLSRC, WAGON_STREAM_CFG.ROWS_PER_COUNT, { WAGON_STREAM_CFG.PAIR with reset := s }, WAGON_STREAM_CFG.RESET, WAGON_STREAM_CFG.ENABLE]
  | .WAGON_STREAM_STAT _ _ => [WAGON_STREAM_STAT.STATE, WAGON_STREAM_STAT.QUEUED, WAGON_STREAM_STAT.CTX, WAGON_STREAM_STAT.ERR, WAGON_STREAM_STAT.DIDX, WAGON_STREAM_STAT.LATE]
  | .THR_PORT_CFG _ => [THR_PORT_CFG.EXP_HI, THR_PORT_CFG.EXP_LO, THR_PORT_CFG.RATE, THR_PORT_CFG.MODE]
  | .THR_PORT_STATUS _ => [THR_PORT_STATUS.RAMP, THR_PORT_STATUS.PPORT, THR_PORT_STATUS.PARTNER, THR_PORT_STATUS.CAUSE, THR_PORT_STATUS.STATE]
  | .THR_PORT_VCW _ => [THR_PORT_VCW.W0, THR_PORT_VCW.W1, THR_PORT_VCW.W2, THR_PORT_VCW.W3, THR_PORT_VCW.W4, THR_PORT_VCW.W5, THR_PORT_VCW.W6, THR_PORT_VCW.W7]
  | .THR_PORT_ERR _ => [THR_PORT_ERR.CLEAR, THR_PORT_ERR.RETRAINS, THR_PORT_ERR.REPLAYS, THR_PORT_ERR.CRC_ERR]
  | .THR_GLB_ID => [THR_GLB_ID.MASTER_SLOT, THR_GLB_ID.MASTER, THR_GLB_ID.SLOT, THR_GLB_ID.MODULE]
  | .THR_GLB_CFG => [THR_GLB_CFG.SPARE_COVER, THR_GLB_CFG.DIM, THR_GLB_CFG.FABRIC_REG]
  | .THR_SPARE => [THR_SPARE.ACTIVE, THR_SPARE.FOR]
  | .THR_TIME => [THR_TIME.STATE, THR_TIME.OFFSET_NS]
  | .THR_INBOUND_A _ => [THR_INBOUND_A.SRC_LO, THR_INBOUND_A.BASE, THR_INBOUND_A.READ, THR_INBOUND_A.VC4, THR_INBOUND_A.VC2, THR_INBOUND_A.VALID]
  | .THR_INBOUND_B _ => [THR_INBOUND_B.SRC_HI, THR_INBOUND_B.LIMIT]
  | .THR_WIN_A _ _ => [THR_WIN_A.STATE, THR_WIN_A.CTR, THR_WIN_A.LEN, THR_WIN_A.BASE]
  | .THR_WIN_B _ _ => [THR_WIN_B.SRC_HI, THR_WIN_B.SRC_LO, THR_WIN_B.REFUSED]
  | .SHEAF_DEF_A _ => [SHEAF_DEF_A.VALID, SHEAF_DEF_A.LOCAL, SHEAF_DEF_A.CNTM1, SHEAF_DEF_A.LO]
  | .SHEAF_DEF_B _ => [SHEAF_DEF_B.LEAD, SHEAF_DEF_B.RANK, SHEAF_DEF_B.MEMBER, SHEAF_DEF_B.MEMBERS]
  | .SHEAF_SEQ _ => [SHEAF_SEQ.ACTIVE, SHEAF_SEQ.NEXT]
  | .SHEAF_STATUS => [SHEAF_STATUS.QUEUED, SHEAF_STATUS.ACTIVE, SHEAF_STATUS.READY]
  | .SHEAF_STAT => [SHEAF_STAT.CLEAR, SHEAF_STAT.MISMATCHES, SHEAF_STAT.ABORTS, SHEAF_STAT.RESENDS, SHEAF_STAT.COMPLETED]
  | .SHEAF_LAST => [SHEAF_LAST.CAUSE, SHEAF_LAST.REASON, SHEAF_LAST.STEP, SHEAF_LAST.OPSEQ, SHEAF_LAST.DEF, SHEAF_LAST.VALID]
  | .HBM_STATUS _ => [HBM_STATUS.RETIRED_PC, HBM_STATUS.REPAIRS, HBM_STATUS.PC_SPARES, HBM_STATUS.COPYING, HBM_STATUS.TRAINED]
  | .HBM_ECC _ => [HBM_ECC.CLEAR, HBM_ECC.POISONED, HBM_ECC.REREAD_OK, HBM_ECC.CORR]
  | .KVX_STATUS => [KVX_STATUS.DOWN_COUNT, KVX_STATUS.QUEUED, KVX_STATUS.TAGS_USED]
  | .KVX_STAT => [KVX_STAT.CLEAR, KVX_STAT.DROPPED_IN, KVX_STAT.MARKERS, KVX_STAT.PAGES]
  | .KVX_PORT_CFG _ => [KVX_PORT_CFG.MAC, KVX_PORT_CFG.PFC_PRIO, KVX_PORT_CFG.VLAN_EN, KVX_PORT_CFG.VLAN_ID]
  | .KVX_PORT_NET _ => [KVX_PORT_NET.DSCP, KVX_PORT_NET.MTU, KVX_PORT_NET.IPV6, KVX_PORT_NET.ACK_TIMEOUT_US]
  | .KVX_PORT_IP_HI _ => [KVX_PORT_IP_HI.ADDR]
  | .KVX_PORT_IP_LO _ => [KVX_PORT_IP_LO.ADDR]
  | .KVX_PORT_CC _ => [KVX_PORT_CC.CUT, KVX_PORT_CC.CUT_GAP_US, KVX_PORT_CC.STEP_US, KVX_PORT_CC.STEP, KVX_PORT_CC.MIN_RATE]
  | .KVX_PEER_MAC _ => [KVX_PEER_MAC.MAC]
  | .KVX_PEER_IP_HI _ => [KVX_PEER_IP_HI.ADDR]
  | .KVX_PEER_IP_LO _ => [KVX_PEER_IP_LO.ADDR]
  | .KVX_DEST_CFG _ => [KVX_DEST_CFG.ENABLE, KVX_DEST_CFG.DOWN, KVX_DEST_CFG.OWNER, KVX_DEST_CFG.PATH, KVX_DEST_CFG.FMT, KVX_DEST_CFG.RM, KVX_DEST_CFG.SLOT_KIB, KVX_DEST_CFG.SLOTS_LOG2, KVX_DEST_CFG.MODULE, KVX_DEST_CFG.PEER, KVX_DEST_CFG.CREDIT_TIMEOUT_MS]
  | .KVX_DEST_BASE _ => [KVX_DEST_BASE.BASE]
  | .KVX_DEST_KEY _ => [KVX_DEST_KEY.COARSE, KVX_DEST_KEY.RKEY]
  | .KVX_DEST_QP _ => [KVX_DEST_QP.SPSN, KVX_DEST_QP.DQPN]
  | .KVX_DEST_CREDIT _ => [KVX_DEST_CREDIT.CREDIT]
  | .KVX_DEST_SEQ _ => [KVX_DEST_SEQ.NEXT_SEQ]
  | .KVX_DEST_STAT _ => [KVX_DEST_STAT.ERR, KVX_DEST_STAT.CAUSE, KVX_DEST_STAT.STALLS, KVX_DEST_STAT.QUEUED]
  | .PFX_STATUS => [PFX_STATUS.VALID, PFX_STATUS.SPILLED, PFX_STATUS.READY]
  | .PFX_STAT => [PFX_STAT.CLEAR, PFX_STAT.ID_MISMATCH, PFX_STAT.LOOKUPS, PFX_STAT.HITS]
  | .PFX_SPILL_STAT => [PFX_SPILL_STAT.CLEAR, PFX_SPILL_STAT.NOT_INSERTED, PFX_SPILL_STAT.EXPIRED, PFX_SPILL_STAT.DEFERRED, PFX_SPILL_STAT.CRC_FAIL]
  | .PFX_GROUP_IDX _ => [PFX_GROUP_IDX.BLOCK_KIB, PFX_GROUP_IDX.INDEX_BASE, PFX_GROUP_IDX.ENTRIES_LOG2]
  | .PFX_GROUP_POOL _ => [PFX_GROUP_POOL.POOL_BLOCKS, PFX_GROUP_POOL.POOL_BASE]
  | .PFX_FUNC_CFG _ => [PFX_FUNC_CFG.TENANT, PFX_FUNC_CFG.TTL_S, PFX_FUNC_CFG.SPILL_EN]
  | .PFX_SPILL_BASE _ => [PFX_SPILL_BASE.BASE]
  | .PFX_SPILL_SIZE _ => [PFX_SPILL_SIZE.SIZE_4K]
  | .PFX_TENANT_GEN _ => [PFX_TENANT_GEN.KEYED, PFX_TENANT_GEN.GEN]
  | .HOST_STATUS => [HOST_STATUS.NUM_VFS, HOST_STATUS.TOTAL_VFS, HOST_STATUS.WIDTH, HOST_STATUS.SPEED, HOST_STATUS.FLIT, HOST_STATUS.LINK_UP]
  | .HOST_ACC _ => [HOST_ACC.ERR, HOST_ACC.OFFSET, HOST_ACC.BAR2, HOST_ACC.COUNT, HOST_ACC.VALID]
  | .MGMT_STATUS => [MGMT_STATUS.ADDR, MGMT_STATUS.TIMEOUTS, MGMT_STATUS.PEC_ERR]
  | .MGMT_ALERT => [MGMT_ALERT.RESET, MGMT_ALERT.SEC, MGMT_ALERT.DEGRADED, MGMT_ALERT.INPUT, MGMT_ALERT.THERM, MGMT_ALERT.CAP]
  | .MGMT_ALERT_EN => [MGMT_ALERT_EN.EN]

/-- The reset value of a register: its fields' reset values (R4); a generator of R173 holds
`gen_seed(0, j)` (R57). -/
def Reg.reset : Reg → W64
  | .VAT_CTX_GEN _ _ j h => (genSeed 0 j).word h
  | .PERF_FUNC => 1
  | r => r.flds.foldl (fun w f => f.put w f.reset) 0

/-- The index of offset `o` in a run of `n` registers that starts at `base`, `stride` bytes apart. -/
def regIdx (base stride n o : Nat) : Option Nat :=
  if base ≤ o ∧ (o - base) % stride = 0 ∧ (o - base) / stride < n then some ((o - base) / stride) else none

/-- A register of the GLB block. -/
def Reg.ofGlb (o : Nat) : Option Reg :=
  if o = 0x0 then some (.GLB_ID) else
  if o = 0x10 then some (.GLB_VAT_MAP_LO) else
  if o = 0x18 then some (.GLB_VAT_MAP_HI) else
  if o = 0x20 then some (.GLB_VAT_PART) else
  if o = 0x30 then some (.GLB_TIME) else
  if o = 0x40 then some (.GLB_DNET_ERR) else
  none

/-- A register of the RST block. -/
def Reg.ofRst (o : Nat) : Option Reg :=
  if o = 0x0 then some (.RST_CAUSE) else
  if o = 0x8 then some (.RST_TIME) else
  if o = 0x10 then some (.RST_STATUS) else
  if o = 0x18 then some (.RST_WDT) else
  if o = 0x20 then some (.RST_PART_LAST) else
  if o = 0x28 then some (.RST_FUSE) else
  if o = 0x30 then some (.RST_UNITS) else
  if let some i := regIdx 0x100 0x8 18 o then some (.RST_FUSE_UNIT i) else
  none

/-- A register of the PWR block. -/
def Reg.ofPwr (o : Nat) : Option Reg :=
  if o = 0x0 then some (.PWR_STATUS) else
  if o = 0x8 then some (.PWR_CAP) else
  if o = 0x10 then some (.PWR_CLOCK) else
  if o = 0x18 then some (.PWR_CTRL) else
  if o = 0x20 then some (.PWR_STAT) else
  if let some i := regIdx 0x100 0x8 5 o then some (.PWR_EST i) else
  if let some i := regIdx 0x200 0x8 52 o then some (.PWR_THERM i) else
  if let some i := regIdx 0x400 0x8 65 o then some (.PWR_DROOP i) else
  none

/-- A register of the LAYOUT block. -/
def Reg.ofLayout (o : Nat) : Option Reg :=
  if o = 0x0 then some (.LAYOUT_STATUS) else
  if o = 0x8 then some (.LAYOUT_SERIAL) else
  if let some i := regIdx 0x100 0x8 16 o then some (.LAYOUT_PART i) else
  none

/-- A register of the SEC block. -/
def Reg.ofSec (o : Nat) : Option Reg :=
  if o = 0x0 then some (.SEC_STATUS) else
  if 0x1000 ≤ o ∧ o < 0x1600 ∧ (o - 0x1000) / 0x200 < 3 ∧ ((o - 0x1000) % 0x200) / 0x8 < 56 ∧ (((o - 0x1000) % 0x200) % 0x8) = 0 then some (.SEC_CMD_BUF ((o - 0x1000) / 0x200) (((o - 0x1000) % 0x200) / 0x8)) else
  if let some i := regIdx 0x1800 0x10 3 o then some (.SEC_CMD_CTRL i) else
  if let some i := regIdx 0x1808 0x10 3 o then some (.SEC_CMD_RESULT i) else
  if let some i := regIdx 0x2000 0x10 64 o then some (.SEC_SLOT i) else
  if let some i := regIdx 0x2008 0x10 64 o then some (.SEC_SLOT_LAST i) else
  none

/-- A register of the ERR block. -/
def Reg.ofErr (o : Nat) : Option Reg :=
  if o = 0x0 then some (.ERR_STATUS) else
  if o = 0x8 then some (.ERR_HOST) else
  if o = 0x10 then some (.ERR_DEGRADED) else
  if 0x8000 ≤ o ∧ o < 0x10000 ∧ (o - 0x8000) / 0x20 < 1024 ∧ ((o - 0x8000) % 0x20) / 0x8 < 4 ∧ (((o - 0x8000) % 0x20) % 0x8) = 0 then some (.ERR_ENTRY ((o - 0x8000) / 0x20) (((o - 0x8000) % 0x20) / 0x8)) else
  none

/-- A register of the PERF block. -/
def Reg.ofPerf (o : Nat) : Option Reg :=
  if o = 0x0 then some (.PERF_CTL) else
  if o = 0x8 then some (.PERF_DUMP_BASE) else
  if o = 0x10 then some (.PERF_DUMP_CFG) else
  if o = 0x18 then some (.PERF_DUMP_STAT) else
  if o = 0x20 then some (.PERF_TRACE_BASE) else
  if o = 0x28 then some (.PERF_TRACE_CFG) else
  if o = 0x30 then some (.PERF_FUNC) else
  if o = 0x38 then some (.PERF_BW_CFG) else
  if 0x1000 ≤ o ∧ o < 0x3600 ∧ (o - 0x1000) / 0x100 < 38 ∧ ((o - 0x1000) % 0x100) / 0x10 < 16 ∧ (((o - 0x1000) % 0x100) % 0x10) = 0 then some (.PERF_CFG ((o - 0x1000) / 0x100) (((o - 0x1000) % 0x100) / 0x10)) else
  if 0x1008 ≤ o ∧ o < 0x3608 ∧ (o - 0x1008) / 0x100 < 38 ∧ ((o - 0x1008) % 0x100) / 0x10 < 16 ∧ (((o - 0x1008) % 0x100) % 0x10) = 0 then some (.PERF_VALUE ((o - 0x1008) / 0x100) (((o - 0x1008) % 0x100) / 0x10)) else
  if let some i := regIdx 0x4000 0x10 16 o then some (.PERF_SAMPLE i) else
  if let some i := regIdx 0x4008 0x10 16 o then some (.PERF_SAMPLE_TIME i) else
  if let some i := regIdx 0x5000 0x10 18 o then some (.PERF_BW_TX i) else
  if let some i := regIdx 0x5008 0x10 18 o then some (.PERF_BW_RX i) else
  none

/-- A register of the REEVE block. -/
def Reg.ofReeve (o : Nat) : Option Reg :=
  if o = 0x0 then some (.REEVE_STATUS) else
  if o = 0x8 then some (.REEVE_SCHED) else
  if let some i := regIdx 0x100 0x8 16 o then some (.REEVE_PART_CFG i) else
  if let some i := regIdx 0x180 0x8 16 o then some (.REEVE_PART_LAYOUT i) else
  if o = 0x200 then some (.REEVE_MBOX_CMD) else
  if o = 0x208 then some (.REEVE_MBOX_RESULT) else
  if let some i := regIdx 0x240 0x8 8 o then some (.REEVE_MBOX_ARG i) else
  if let some i := regIdx 0x1000 0x20 64 o then some (.REEVE_RING_BASE i) else
  if let some i := regIdx 0x1008 0x20 64 o then some (.REEVE_RING_CFG i) else
  if let some i := regIdx 0x1010 0x20 64 o then some (.REEVE_RING_PTR i) else
  if let some i := regIdx 0x2000 0x10 256 o then some (.REEVE_GRAM_BASE i) else
  if let some i := regIdx 0x2008 0x10 256 o then some (.REEVE_GRAM_CFG i) else
  if let some i := regIdx 0x3000 0x10 128 o then some (.REEVE_VARIANT_CFG i) else
  if let some i := regIdx 0x3008 0x10 128 o then some (.REEVE_VARIANT_FUNCS i) else
  if o = 0x3800 then some (.REEVE_MODEL) else
  if let some i := regIdx 0x40000 0x10 4096 o then some (.REEVE_BUDGET_CFG i) else
  if let some i := regIdx 0x40008 0x10 4096 o then some (.REEVE_BUDGET_BAL i) else
  none

/-- A register of context `c`'s block (R163). -/
def Reg.ofCtx (v c : Nat) (o : Nat) : Option Reg :=
  if o = 0x0 then some (.VAT_CTX_CTRL v c) else
  if o = 0x8 then some (.VAT_CTX_STATUS v c) else
  if o = 0x10 then some (.VAT_CTX_PROG v c) else
  if o = 0x18 then some (.VAT_CTX_RESUME v c) else
  if o = 0x40 then some (.VAT_CTX_LOOPEND v c) else
  if o = 0x48 then some (.VAT_CTX_KEPT v c) else
  if o = 0x50 then some (.VAT_CTX_ERRTIME v c) else
  if let some i := regIdx 0x20 0x8 4 o then some (.VAT_CTX_LOOP v c i) else
  if let some i := regIdx 0x80 0x8 12 o then some (.VAT_CTX_RSLOT v c i) else
  if let some i := regIdx 0x200 0x8 64 o then some (.VAT_CTX_PS v c i) else
  none

/-- A register of the VAT block of logical Vat `v`. -/
def Reg.ofVat (v : Nat) (o : Nat) : Option Reg :=
  if 0x1000 ≤ o ∧ o < 0x2000 then Reg.ofCtx v ((o - 0x1000) / 0x400) ((o - 0x1000) % 0x400) else
  if o = 0x0 then some (.VAT_GEOM v) else
  if o = 0x8 then some (.VAT_STATUS v) else
  if o = 0x10 then some (.VAT_FLAGS v) else
  if o = 0x18 then some (.VAT_CHK_CTRL v) else
  if o = 0x20 then some (.VAT_CHK_STAT v) else
  if o = 0x28 then some (.VAT_CHK_LAST v) else
  if o = 0x30 then some (.VAT_LANE_REMAP v) else
  if o = 0x38 then some (.VAT_CURD_SPLIT v) else
  if o = 0x40 then some (.VAT_ECC_STAT v) else
  if 0x2000 ≤ o ∧ o < 0x6000 ∧ (o - 0x2000) / 0x1000 < 4 ∧ ((o - 0x2000) % 0x1000) / 0x10 < 256 ∧ (((o - 0x2000) % 0x1000) % 0x10) / 0x8 < 2 ∧ ((((o - 0x2000) % 0x1000) % 0x10) % 0x8) = 0 then some (.VAT_CTX_GEN v ((o - 0x2000) / 0x1000) (((o - 0x2000) % 0x1000) / 0x10) ((((o - 0x2000) % 0x1000) % 0x10) / 0x8)) else
  if let some i := regIdx 0x8000 0x10 64 o then some (.VAT_SEM_FULL v i) else
  if let some i := regIdx 0x8008 0x10 64 o then some (.VAT_SEM_EMPTY v i) else
  if let some i := regIdx 0x9000 0x8 256 o then some (.VAT_ARRIVAL v i) else
  if o = 0x1f000 then some (.VAT_PROG_WIN v) else
  if 0x20000 ≤ o ∧ o < 0x40000 ∧ (o - 0x20000) / 0x10 < 8192 ∧ ((o - 0x20000) % 0x10) / 0x8 < 2 ∧ (((o - 0x20000) % 0x10) % 0x8) = 0 then some (.VAT_PROG v ((o - 0x20000) / 0x10) (((o - 0x20000) % 0x10) / 0x8)) else
  none

/-- A register of the CELLAR and SKIM block of logical Vat `v`. -/
def Reg.ofCellar (v : Nat) (o : Nat) : Option Reg :=
  if o = 0x0 then some (.CELLAR_GEOM v) else
  if o = 0x8 then some (.CELLAR_STATUS v) else
  if o = 0x10 then some (.CELLAR_GROUP_CTRL v) else
  if o = 0x18 then some (.CELLAR_BANK_MAP v) else
  if o = 0x20 then some (.CELLAR_ERR_STAT v) else
  if o = 0x28 then some (.CELLAR_LAST_ERR v) else
  if o = 0x40 then some (.SKIM_CTRL v) else
  if o = 0x48 then some (.SKIM_STAT v) else
  if let some i := regIdx 0x1000 0x8 128 o then some (.CELLAR_CLAIM v i) else
  none

/-- A global Wagon register. -/
def Reg.ofWagonGlb (o : Nat) : Option Reg :=
  if o = 0x0 then some (.WAGON_GLB_TAGS) else
  if o = 0x8 then some (.WAGON_GLB_TIMEOUT) else
  none

/-- A register of the Wagon of logical Vat `v`. -/
def Reg.ofWagon (v : Nat) (o : Nat) : Option Reg :=
  if o = 0x0 then some (.WAGON_STATUS v) else
  if o = 0x8 then some (.WAGON_MISS_INFO v) else
  if o = 0x10 then some (.WAGON_MISS_TIME v) else
  if o = 0x18 then some (.WAGON_MISS_DEADLINE v) else
  if let some i := regIdx 0x400 0x10 64 o then some (.WAGON_STREAM_CFG v i) else
  if let some i := regIdx 0x408 0x10 64 o then some (.WAGON_STREAM_STAT v i) else
  none

/-- A register of THR port `p`. -/
def Reg.ofPort (p : Nat) (o : Nat) : Option Reg :=
  if o = 0x0 then some (.THR_PORT_CFG p) else
  if o = 0x8 then some (.THR_PORT_STATUS p) else
  if o = 0x10 then some (.THR_PORT_VCW p) else
  if o = 0x18 then some (.THR_PORT_ERR p) else
  none

/-- A global THR or SHEAF register. -/
def Reg.ofThr (o : Nat) : Option Reg :=
  if o = 0x0 then some (.THR_GLB_ID) else
  if o = 0x8 then some (.THR_GLB_CFG) else
  if o = 0x10 then some (.THR_SPARE) else
  if o = 0x18 then some (.THR_TIME) else
  if let some i := regIdx 0x100 0x10 16 o then some (.THR_INBOUND_A i) else
  if let some i := regIdx 0x108 0x10 16 o then some (.THR_INBOUND_B i) else
  if 0x10000 ≤ o ∧ o < 0x20000 ∧ (o - 0x10000) / 0x1000 < 16 ∧ ((o - 0x10000) % 0x1000) / 0x10 < 256 ∧ (((o - 0x10000) % 0x1000) % 0x10) = 0 then some (.THR_WIN_A ((o - 0x10000) / 0x1000) (((o - 0x10000) % 0x1000) / 0x10)) else
  if 0x10008 ≤ o ∧ o < 0x20008 ∧ (o - 0x10008) / 0x1000 < 16 ∧ ((o - 0x10008) % 0x1000) / 0x10 < 256 ∧ (((o - 0x10008) % 0x1000) % 0x10) = 0 then some (.THR_WIN_B ((o - 0x10008) / 0x1000) (((o - 0x10008) % 0x1000) / 0x10)) else
  if let some i := regIdx 0x40000 0x10 1024 o then some (.SHEAF_DEF_A i) else
  if let some i := regIdx 0x40008 0x10 1024 o then some (.SHEAF_DEF_B i) else
  if let some i := regIdx 0x44000 0x8 1024 o then some (.SHEAF_SEQ i) else
  if o = 0x48000 then some (.SHEAF_STATUS) else
  if o = 0x48008 then some (.SHEAF_STAT) else
  if o = 0x48010 then some (.SHEAF_LAST) else
  none

/-- A register of the HBM block. -/
def Reg.ofHbm (o : Nat) : Option Reg :=
  if let some i := regIdx 0x0 0x100 6 o then some (.HBM_STATUS i) else
  if let some i := regIdx 0x8 0x100 6 o then some (.HBM_ECC i) else
  none

/-- A register of the KVX block. -/
def Reg.ofKvx (o : Nat) : Option Reg :=
  if o = 0x0 then some (.KVX_STATUS) else
  if o = 0x8 then some (.KVX_STAT) else
  if let some i := regIdx 0x100 0x40 2 o then some (.KVX_PORT_CFG i) else
  if let some i := regIdx 0x108 0x40 2 o then some (.KVX_PORT_NET i) else
  if let some i := regIdx 0x110 0x40 2 o then some (.KVX_PORT_IP_HI i) else
  if let some i := regIdx 0x118 0x40 2 o then some (.KVX_PORT_IP_LO i) else
  if let some i := regIdx 0x120 0x40 2 o then some (.KVX_PORT_CC i) else
  if let some i := regIdx 0x1000 0x20 256 o then some (.KVX_PEER_MAC i) else
  if let some i := regIdx 0x1008 0x20 256 o then some (.KVX_PEER_IP_HI i) else
  if let some i := regIdx 0x1010 0x20 256 o then some (.KVX_PEER_IP_LO i) else
  if let some i := regIdx 0x10000 0x40 4096 o then some (.KVX_DEST_CFG i) else
  if let some i := regIdx 0x10008 0x40 4096 o then some (.KVX_DEST_BASE i) else
  if let some i := regIdx 0x10010 0x40 4096 o then some (.KVX_DEST_KEY i) else
  if let some i := regIdx 0x10018 0x40 4096 o then some (.KVX_DEST_QP i) else
  if let some i := regIdx 0x10020 0x40 4096 o then some (.KVX_DEST_CREDIT i) else
  if let some i := regIdx 0x10028 0x40 4096 o then some (.KVX_DEST_SEQ i) else
  if let some i := regIdx 0x10030 0x40 4096 o then some (.KVX_DEST_STAT i) else
  none

/-- A register of the PFX block. -/
def Reg.ofPfx (o : Nat) : Option Reg :=
  if o = 0x0 then some (.PFX_STATUS) else
  if o = 0x8 then some (.PFX_STAT) else
  if o = 0x10 then some (.PFX_SPILL_STAT) else
  if let some i := regIdx 0x100 0x10 16 o then some (.PFX_GROUP_IDX i) else
  if let some i := regIdx 0x108 0x10 16 o then some (.PFX_GROUP_POOL i) else
  if let some i := regIdx 0x1000 0x20 64 o then some (.PFX_FUNC_CFG i) else
  if let some i := regIdx 0x1008 0x20 64 o then some (.PFX_SPILL_BASE i) else
  if let some i := regIdx 0x1010 0x20 64 o then some (.PFX_SPILL_SIZE i) else
  if let some i := regIdx 0x2000 0x8 256 o then some (.PFX_TENANT_GEN i) else
  none

/-- A register of the HOST block. -/
def Reg.ofHost (o : Nat) : Option Reg :=
  if o = 0x0 then some (.HOST_STATUS) else
  if let some i := regIdx 0x1000 0x8 64 o then some (.HOST_ACC i) else
  none

/-- A register of the MGMT mirror's own. -/
def Reg.ofMgmtOwn (o : Nat) : Option Reg :=
  if o = 0x0 then some (.MGMT_STATUS) else
  if o = 0x8 then some (.MGMT_ALERT) else
  if o = 0x10 then some (.MGMT_ALERT_EN) else
  none

/-- The register at the MGMT mirror's offset `o`; the mirror aliases the SEC command buffer of class MGMT (R598). -/
def Reg.ofMgmt (o : Nat) : Option Reg :=
  if let some i := regIdx 0x1000 8 56 o then some (.SEC_CMD_BUF 0 i) else
  if o = 0x1800 then some (.SEC_CMD_CTRL 0) else
  if o = 0x1808 then some (.SEC_CMD_RESULT 0) else
  Reg.ofMgmtOwn o

/-- The blocks of BAR0 (R580). -/
inductive Block
  | glb | rst | pwr | layout | sec | err | perf | reeve
  | vat (v : Nat) | cellar (v : Nat) | wagonGlb | wagon (v : Nat)
  | port (p : Nat) | thr | hbm | kvx | pfx | host | mgmt
  deriving DecidableEq, Repr

/-- The block that holds a BAR0 offset, and its base (R580). -/
def Block.ofOff (o : Nat) : Option (Block × Nat) :=
  if o < 0x10000 then some (.glb, 0) else
  if o < 0x20000 then some (.rst, 0x10000) else
  if o < 0x30000 then some (.pwr, 0x20000) else
  if o < 0x40000 then some (.layout, 0x30000) else
  if o < 0x50000 then some (.sec, 0x40000) else
  if o < 0x60000 then some (.err, 0x50000) else
  if o < 0x80000 then some (.perf, 0x60000) else
  if o < 0x100000 then some (.reeve, 0x80000) else
  if o < 0x500000 then some (.vat ((o - 0x100000) / 0x40000), 0x100000 + (o - 0x100000) / 0x40000 * 0x40000) else
  if o < 0x600000 then some (.cellar ((o - 0x500000) / 0x10000), 0x500000 + (o - 0x500000) / 0x10000 * 0x10000) else
  if o < 0x601000 then some (.wagonGlb, 0x600000) else
  if o < 0x611000 then some (.wagon ((o - 0x601000) / 0x1000), 0x601000 + (o - 0x601000) / 0x1000 * 0x1000) else
  if o < 0x700000 then some (.wagonGlb, 0x600000) else
  if o < 0x820000 then some (.port ((o - 0x700000) / 0x10000), 0x700000 + (o - 0x700000) / 0x10000 * 0x10000) else
  if o < 0x900000 then some (.thr, 0x820000) else
  if o < 0xA00000 then some (.hbm, 0x900000) else
  if o < 0xB00000 then some (.kvx, 0xA00000) else
  if o < 0xC00000 then some (.pfx, 0xB00000) else
  if o < 0xF00000 then some (.host, 0xC00000) else
  if o < 0x1000000 then some (.mgmt, 0xF00000) else none

/-- The register at offset `o` of a block. -/
def Reg.ofBlock (b : Block) (o : Nat) : Option Reg :=
  match b with
  | .glb => Reg.ofGlb o
  | .rst => Reg.ofRst o
  | .pwr => Reg.ofPwr o
  | .layout => Reg.ofLayout o
  | .sec => Reg.ofSec o
  | .err => Reg.ofErr o
  | .perf => Reg.ofPerf o
  | .reeve => Reg.ofReeve o
  | .vat v => Reg.ofVat v o
  | .cellar v => Reg.ofCellar v o
  | .wagonGlb => Reg.ofWagonGlb o
  | .wagon v => Reg.ofWagon v o
  | .port p => Reg.ofPort p o
  | .thr => Reg.ofThr o
  | .hbm => Reg.ofHbm o
  | .kvx => Reg.ofKvx o
  | .pfx => Reg.ofPfx o
  | .host => Reg.ofHost o
  | .mgmt => Reg.ofMgmt o

/-- The register a BAR0 offset reaches; none at a reserved offset (R7, R580). -/
def Reg.ofOff (o : Nat) : Option Reg :=
  match Block.ofOff o with
  | some (b, base) => Reg.ofBlock b (o - base)
  | none => none

/-- The default of the register file: the reset value of the register at that offset. -/
def regReset (o : Nat) : W64 :=
  match Reg.ofOff o with
  | some r => r.reset
  | none => 0

end Sys2Proof.Machine
end

