-- ==== Sys2Proof/Machine/State.lean ====
section
/-! DEFINITION. The state of the block: the registers, the memories, the queues and the engines, as plain data; the
reasons a command can stop; the state after reset. A register lives in `regs` under its BAR0 offset; what the
structures below hold is the state that no register shows. -/

namespace Sys2Proof.Machine

/-- The default of every table of numbers, bits and words that reads 0 where nothing is listed. -/
def zero32 (_ : Nat) : W32 := 0
def zero128 (_ : Nat) : BitVec 128 := 0
def noBit (_ : Nat) : Bool := false
/-- The boot flash reads as erased where nothing is listed (log 4). -/
def flashByte (_ : Nat) : Byte := 0xFF

/-- Who holds a bank claim between commands (R210, R450): a started Wagon descriptor, an open remote window, the
staging rows of a Sheaf operation, or an ATTN that waits for a block of its ring. -/
inductive Holder
  | desc (v s idx : Nat)
  | window (v w : Nat)
  | stage (d k : Nat)
  | insn (v c : Nat)
  deriving DecidableEq, Repr

/-- The switched power domains (R26): of Vat position `p` the Plate array, control, Cellar bank group `g` and Cellar
periphery; the Thresher core with KVX; of port `i` logic and SerDes; Reeve with PFX; of stack `h` controller, PHY and
rail `r`; the PCIe controller and PHY; register bus, clock generators, fuse programming, boot flash, always-on. -/
inductive Domain
  | plates (p : Nat) | control (p : Nat) | group (p g : Nat) | periphery (p : Nat)
  | thresher | portLogic (i : Nat) | portSerdes (i : Nat) | reeve
  | hbmCtl (h : Nat) | hbmPhy (h : Nat) | hbmRail (h r : Nat) | pcieCtl | pciePhy
  | regBus | clocks | fuses | flash | alwaysOn
  deriving DecidableEq, Repr

/-- A claim (R209) of port `port` (1 plate-feed to 6 remote, as R215 numbers them) on a bank of logical Vat `v`; `pair`
is the port it shares the bank with (R213), 0 for none. -/
structure Claim where
  v : Nat
  bank : Nat
  port : Nat
  holder : Holder
  pair : Nat := 0
  deriving DecidableEq, Repr

/-- The loaded Mould (R70, R75, R132): the multiplier format (0 BF16, 1 FP16), the valid K positions, and the valid
columns of 256 elements each; every other column is held at +0. -/
structure Mould where
  fmt : Nat
  kv : Nat
  cols : List (List W16)
  deriving DecidableEq, Repr

/-- What a Vat holds beside its registers: the Mould; whether the running context has issued a MOULD since it was
switched in (R133); the context that ran most recently (R116); zeroing after a kill
(R102); contexts with an ABORT waiting for its boundary, and those waiting for their batches after one (R158);
contexts whose ATTN has its ring count (R186); the PC and context of the instruction issued last, and the samples that
are due, each a counter, its overflow time and the instructions it may record (R611); whether the tags of a killed
partition are still out (R269); the pressed segments whose results are staged (R81); the batch addresses that waiting
WAGON instructions have read, by context (R161). -/
structure VatX where
  mould : Option Mould := none
  moulded : Bool := false
  lastCtx : Nat := 3
  zeroing : Bool := false
  aborts : List Nat := []
  abortWait : List Nat := []
  ringTaken : List Nat := []
  last : Option (Nat × Nat) := none
  samples : List (Nat × Nat × List (Nat × Nat)) := []
  killed : Bool := false
  staged : List Segment := []
  hdrs : List (Nat × Nat) := []
  deriving DecidableEq, Repr

/-- The DIRTY marks of one bank (R224): every row, less those written since. -/
structure Dirty where
  all : Bool := false
  clean : List Nat := []
  deriving DecidableEq, Repr

/-- A batch of a stream (R242, R243, R249): the address of its current header, the handing context, and once
the header has been fetched its COUNT, DESC, NEXT and IRQ flag; `held`: the descriptors fetched (R250) that have not
reached the head, each with its 64 bytes and whether they are poisoned. -/
structure Batch where
  hdr : Nat
  ctx : Nat
  fetched : Bool := false
  count : Nat := 0
  desc : Nat := 0
  next : Nat := 0
  irq : Bool := false
  held : List (List Byte × Bool) := []
  deriving DecidableEq, Repr

/-- A descriptor of a stream that has reached its head (R251, R252): its 64 bytes, whether its count is taken
and it has started, pieces issued, complete, its error, the Vats whose Cellars have refused it (R255). -/
structure Desc where
  idx : Nat
  bytes : List Byte
  taken : Bool := false
  started : Bool := false
  moved : Nat := 0
  complete : Bool := false
  err : Nat := 0
  refused : List Nat := []
  deriving DecidableEq, Repr

/-- A Wagon stream (R249): its queue of batches, the descriptors in flight in index order, the next index,
the deadline at its last grant (R263), stopped (R253). -/
structure Stream where
  queue : List Batch := []
  descs : List Desc := []
  nextIdx : Nat := 0
  deadline : Nat := 0
  stopped : Bool := false
  deriving DecidableEq, Repr

/-- The traffic classes of the die network (R19). -/
inductive DnetClass
  | data | req | rsp
  deriving DecidableEq, Repr

/-- What a die-network packet carries (R19): a row for a Cellar or bytes for module memory; a semaphore post (R142) or a
read of at most 512 bytes at a local address; read data, or the completion of a write with its error. -/
inductive Load
  | row (r : Nat) (data : List Byte)
  | bytes (a : Nat) (data : List Byte)
  | post (kind idx val : Nat) (set : Bool)
  | read (a n : Nat)
  | got (data : List Byte) (poison : Bool)
  | done (err : Nat)
  deriving DecidableEq, Repr

/-- The class a load travels in (R19); a post goes with the accesses to registers (log 148). -/
def Load.cls : Load → DnetClass
  | .row _ _ => .data
  | .bytes _ _ => .data
  | .post _ _ _ _ => .req
  | .read _ _ => .req
  | .got _ _ => .rsp
  | .done _ => .rsp

/-- Where a packet goes: one stop (R17), or the physical Vat positions of a multicast's mask (R21). -/
inductive DTo
  | stop (n : Nat)
  | mask (m : BitVec 18)
  deriving DecidableEq, Repr

/-- A die-network packet in flight (R16, R20): source stop, the partition its stop inserted, where it goes. `owner` is the
Wagon descriptor it belongs to, `tag` the tag it travels under with that tag's sequence bit (R265); `get` the entry of
the GET queue that the Thresher reads for. -/
structure DPkt where
  src : Nat
  part : Nat
  dest : DTo
  load : Load
  owner : Option (Nat × Nat × Nat) := none
  tag : Option Nat := none
  seq : Bool := false
  get : Option Nat := none
  deriving DecidableEq, Repr

/-- The request a tag covers (R264, R265); `held`: nothing is in flight, its bytes have come and its piece waits. -/
inductive TagReq
  | dnet (p : DPkt)
  | held (data : List Byte)
  | put (pkt : Pkt)
  | get (pkt : Pkt)
  | page (d : Nat) (pkts : List Pkt)
  deriving DecidableEq, Repr

/-- A tag in use (R264): its number, the Wagon descriptor that holds it (none: KVX), the request, reissued once, its
sequence bit; the descriptor's piece it serves; the stops that have yet to answer. -/
structure TagUse where
  id : Nat
  owner : Option (Nat × Nat × Nat)
  req : TagReq
  again : Bool := false
  seq : Bool := false
  piece : Nat := 0
  left : List Nat := []
  deriving DecidableEq, Repr

/-- A remote read in the GET queue (R410): its packet, and its parts in order: the stop each is read at and, once it has
come, its bytes with whether they are poisoned. -/
structure GetEntry where
  id : Nat
  pkt : Pkt
  parts : List (Nat × Option (List Byte × Bool)) := []
  deriving DecidableEq, Repr

/-- An HBM region of the applied image (R488). -/
structure Region where
  base : Nat
  size : Nat
  kind : Nat
  deriving DecidableEq, Repr

/-- A PART section (R488). -/
structure PartSec where
  vats : Nat := 0
  group : Nat := 0
  allowed : Nat := 0
  duty : Nat := 0
  cls : Nat := 0
  strict : Bool := false
  chk : Nat := 0
  funcs : Nat := 0
  groups : Nat := 0
  curd : W64 := 0
  regions : List Region := []
  deriving DecidableEq, Repr

/-- A GROUP section (R488). -/
structure GroupSec where
  tailMin : Nat := 0
  tailMax : Nat := 0
  entriesLog2 : Nat := 0
  blockKib : Nat := 0
  poolBlocks : Nat := 0
  indexBase : Nat := 0
  poolBase : Nat := 0
  regions : List Region := []
  deriving DecidableEq, Repr

/-- The running layout (R487, R488): the sections that no register shows whole. `vatMap` holds the 16 entries of
VATMAP, `laneMap` the 18 pairs of LANEMAP, `parts` and `groups` the sections by instance. -/
structure Layout where
  applied : Bool := false
  serial : W64 := 0
  numVfs : Nat := 0
  journal : Nat := 0
  journalSize : Nat := 0
  vatMap : List Nat := []
  laneMap : List (W64 × W64) := []
  ports : List (W64 × W64) := []
  thrCfg : W64 := 0
  inbound : List (W64 × W64) := []
  model : W64 := 0
  variants : List (W64 × W64) := []
  draft : Bool := false
  sheafs : List W64 := []
  parts : List (Nat × PartSec) := []
  groups : List (Nat × GroupSec) := []
  deriving DecidableEq, Repr

/-- How a PCIe request ends (R571, R574, R477): successful, Unsupported Request, Completer Abort, Request Retry. -/
inductive Cpl
  | ok | ur | ca | retry
  deriving DecidableEq, Repr

/-- A packet of a RoCEv2 record (R335, R336): destination, export port, addresses, VLAN priority and identifier where one is
sent, DSCP and ECN, UDP port, queue pair, PSN, the RETH (address, key, length) and the immediate where it carries them. -/
structure RoceFrame where
  dest : Nat
  port : Nat
  srcMac : Nat
  dstMac : Nat
  vlan : Option (Nat × Nat)
  v6 : Bool
  srcIp : Nat
  dstIp : Nat
  dscp : Nat
  ecn : Nat
  udp : Nat
  dqpn : Nat
  psn : Nat
  reth : Option (Nat × Nat × Nat)
  imm : Option Nat
  data : List Byte
  icrc : W32
  deriving DecidableEq, Repr

/-- What leaves the module, for whoever watches it (log 7). -/
inductive Sent
  /-- An interrupt to Reeve firmware (R305), with its source class and unit. -/
  | reeveIrq (cls unit : Nat)
  /-- An MSI-X message of function `f` (R577). -/
  | msix (f vec : Nat)
  /-- A packet handed to an output port, or to this module itself (R409). -/
  | pkt (p : Pkt)
  /-- A frame sent by a port (R411). -/
  | frame (p : Nat) (f : Frame)
  /-- A RoCEv2 record of destination `d` (R336): its PSNs, remote address and key, immediate data, bytes. -/
  | roce (f : RoceFrame)
  /-- A PCIe completion to function `f`, with the EP attribute (R574). -/
  | cpl (f : Nat) (st : Cpl) (data : List Byte) (ep : Bool)
  /-- An error of a posted write of function `f`, reported through AER (R574). -/
  | aer (f : Nat) (st : Cpl)
  /-- The data bytes of an SMBus reply (R587). -/
  | smbus (data : List Byte)
  /-- The answer to an Alert Response Address read: the module's 7-bit address (R590). -/
  | alert (addr : Nat)
  deriving DecidableEq, Repr

/-- A message of one MSI-X vector (R577): when the last one went, and whether one is held back. -/
structure Msi where
  last : Option Nat := none
  held : Bool := false
  deriving DecidableEq, Repr

/-- A frame in the replay buffer (R412): its sequence number and its data flits. -/
structure TxFrame where
  seq : Nat
  flits : List (Option (Pkt × Nat))
  deriving DecidableEq, Repr

/-- The link layer of one port (R411-R417). Sending: packets that wait, the arbiter's deficits by channel and the channel whose
turn it is, the next sequence number, the frames not yet acknowledged, the flits in flight by channel and DL (place 2c + DL),
consecutive replays of one frame with no progress. Receiving: the next frame to take in order, the packet under way with its
next flit, the flits freed and not yet returned as credit, whether a NAK stands, whether a control flit is owed. Times of its
retrains; channels not yet moved back to it; the state a lost port was in before it trained again. -/
structure PortX where
  queue : List Pkt := []
  deficit : List Nat := [0, 0, 0, 0, 0, 0, 0, 0]
  turn : Nat := 0
  txNext : Nat := 0
  unacked : List TxFrame := []
  inFlight : List Nat := [0, 0, 0, 0, 0, 0, 0, 0, 0, 0, 0, 0, 0, 0, 0, 0]
  stuck : Nat := 0
  rxNext : Nat := 0
  rx : Option (Pkt × Nat) := none
  freed : List Nat := [0, 0, 0, 0, 0, 0, 0, 0, 0, 0, 0, 0, 0, 0, 0, 0]
  nak : Bool := false
  owed : Bool := false
  retrains : List Nat := []
  returning : List Nat := []
  was : Nat := 0
  deriving DecidableEq, Repr

/-- The shape of a model's key/value cache (R317): layers, KV heads, head dimension and format (0 BF16, 1 FP16). No
register shows it (log 14). -/
structure Geom where
  layers : Nat := 72
  heads : Nat := 10
  hd : Nat := 128
  fmt : Nat := 0
  deriving DecidableEq, Repr

/-- A KVX record (R318): a page (`kind` 0) or marker (1 END, 2 CANCEL) of the request in entry `req`. -/
structure Rec where
  req : Nat
  handle : Nat
  tag : Nat
  kind : Nat
  layer : Nat := 0
  head : Nat := 0
  first : Nat := 0
  count : Nat := 0
  total : Nat := 0
  variant : Nat := 0
  seed : W64 := 0
  deriving DecidableEq, Repr

/-- A record started and not yet acknowledged (R332, R334, R336): its sequence, its tag where the path is native, its
first and last PSN and its bytes where it is RoCEv2. -/
structure Flight where
  item : Rec
  seq : Nat
  tag : Nat := 0
  psn0 : Nat := 0
  psn1 : Nat := 0
  bytes : List Byte := []
  deriving DecidableEq, Repr

/-- A KVX destination (R329-R340): records queued and in flight; whether the head waits for credit, and since when the
credit timeout runs; sending rate, last cut, a CNP in the running interval; next PSN, retries and RNR retries in a row,
waiting for the RNR timer; the oldest unacknowledged PSN. -/
structure DestX where
  queue : List Rec := []
  flight : List Flight := []
  waiting : Bool := false
  since : Nat := 0
  rate : Nat := 1024
  lastCut : Option Nat := none
  cnp : Bool := false
  psn : Nat := 0
  retry : Nat := 0
  rnr : Nat := 0
  rnrWait : Bool := false
  una : Nat := 0
  deriving DecidableEq, Repr

/-- A tail step of one request (R374, R389): its partition, whether it is the first token's (R373), its nodes (token,
parent, automaton state), the ids chosen, whether they end emission, accepted nodes, compaction under way, chosen. `layers`:
completed; `draftSteps`: the draft model's (R388); `staging`: rows of tentative staging for each layer and head (R389);
`copies`: the nodes whose rows compaction moves, each with its position (R390). -/
structure TailStep where
  part : Nat
  first : Bool := false
  nodes : List (Nat × Nat × Nat) := []
  ids : List Nat := []
  ends : Bool := false
  path : List Nat := []
  gstate : Nat := 0
  chosen : Bool := false
  compacting : Bool := false
  layers : Nat := 0
  draftSteps : Nat := 0
  staging : Nat := 0
  copies : List (Nat × Nat) := []
  deriving DecidableEq, Repr

/-- A pause that has been asked for (R296, R297): the completion word's host address, none for pre-emption. -/
structure Want where
  cpl : Option Nat
  deriving DecidableEq, Repr

/-- A spill record (R351): host address, 4 KiB units, expiry, the CRC its header holds, still being written. -/
structure Spill where
  addr : Nat
  units : Nat
  expiry : Nat
  crc : W32
  writing : Bool
  deriving DecidableEq, Repr

/-- A submission ring (R278, R279): free-running counts, of entries offered and entries taken; `bell`: the last doorbell
value, which REEVE_RING_PTR shows (R315). -/
structure Ring where
  prod : Nat := 0
  cons : Nat := 0
  bell : Nat := 0
  deriving DecidableEq, Repr

/-- An entry of the request table (R284). `used`: it holds a request, live or final. `pos`: prompt positions whose cache
stands in module memory; `paged`: positions whose pages have been queued; `queuedAt`: when it was
admitted; `since`: when it was paused, or a spill was last put off. `layer`: LAYER of the status word (R285), `shown` and
`shownAt`: its value there, and when it was last written because it had changed (R286); `out`: pages that have left, by layer, head and
FIRST (R304); `save`: address and bytes of the save area (R284, R296); `readyAt`: when its tail step became ready; `draftPos`:
positions with a cache of the draft model (R388). -/
structure ReqX where
  used : Bool := false
  gen : Nat := 0
  func : Nat := 0
  desc : List Byte := []
  prio : Nat := 0
  st : Nat := 0
  err : Nat := 0
  tokens : Nat := 0
  pos : Nat := 0
  paged : Nat := 0
  arrive : Nat := 0
  finish : Nat := 0
  part : Nat := 0
  group : Nat := 0
  prompt : List Nat := []
  mask : List Byte := []
  hits : List Nat := []
  ids : List Nat := []
  gstate : Nat := 0
  sent : Nat := 0
  acked : Nat := 0
  endSent : Bool := false
  reruns : Nat := 0
  misses : Nat := 0
  record : Bool := false
  want : Option Want := none
  from_ : Nat := 0
  queuedAt : Nat := 0
  since : Nat := 0
  spill : Option Spill := none
  restoring : Bool := false
  step : Option TailStep := none
  mute : Bool := false
  layer : Nat := 0
  shown : Nat := 0
  shownAt : Option Nat := none
  out : List (Nat × Nat × Nat) := []
  save : Option (Nat × Nat) := none
  readyAt : Nat := 0
  draftPos : Nat := 0
  deriving DecidableEq, Repr

/-- Whether the request's spill record holds space (R351, R352): one that has expired holds none. -/
def ReqX.spillHeld (x : ReqX) : Bool := match x.spill with
  | some p => p.units ≠ 0
  | none => false

/-- What a save area holds of one Vat (R296): context registers, Curd buffer and Cellar rows, keyed from the Vat's own
start, and poison marks. -/
structure VSave where
  regs : Tab W64
  curd : Tab W32
  rows : Tab Byte
  poison : Tab Bool
  deriving DecidableEq, Repr

/-- A pass (R291, R293): its start order, its members with their token counts, its partition, how many Vats it ran on;
a pause asked for or taken, by Reeve or not; asked to resume; what the save area holds (R296). `layers`: completed; `start` and
`inputs`: what its Vats held as it began, and as its current layer began (R291, R304). -/
structure Pass where
  seq : Nat
  members : List (Nat × Nat)
  part : Nat
  vats : Nat
  want : Bool := false
  paused : Bool := false
  byReeve : Bool := false
  resumed : Bool := false
  save : List VSave := []
  layers : Nat := 0
  start : List VSave := []
  inputs : List VSave := []
  deriving DecidableEq, Repr

/-- A Sheaf launch accepted and waiting (R443, R447): function, definition, OPSEQ, its 64 bytes, the request it is a
member of (R465). -/
structure Launch where
  f : Nat
  d : Nat
  k : Nat
  desc : List Byte := []
  req : Option Nat := none
  deriving DecidableEq, Repr

/-- An outgoing stream of a step (R451): receiver's rank, next chunk, chunks unacknowledged, each resent or not. -/
structure ShOut where
  rank : Nat
  next : Nat := 0
  unacked : List (Nat × Bool) := []
  deriving DecidableEq, Repr

/-- An active Sheaf operation at this member (R447-R463). `phase`: 0 handshake, 1 steps, 2 its own steps done, 3 DONE sent. `hellos`: senders
and whether their hash differed. `stage` counts the parts of the steps, `merged` and `sending` say how far this one is;
`inbox` holds received chunks (step, rank, chunk, elements), `bad` those that failed once, as they were read, until their
resends come; `early` names the outputs (rank, chunk) sent with the complement of their CRC and not yet sent again, `naks`
those whose CHUNK_NAK is still to come (R451). At the lead `pausers` and
`resumers` hold the members that asked (R463). `since`: when the step, or the wait after DONE, began. -/
structure ShOp where
  f : Nat
  d : Nat
  k : Nat
  desc : List Byte := []
  req : Option Nat := none
  phase : Nat := 0
  hellos : List (Nat × Bool) := []
  helloSent : Bool := false
  step : Nat := 0
  stage : Nat := 0
  merged : Bool := false
  sending : Bool := false
  vals : List Nat := []
  counts : List Nat := []
  outs : List ShOut := []
  inbox : List (Nat × Nat × Nat × List Nat) := []
  bad : List (Nat × Nat × Nat × List Nat) := []
  early : List (Nat × Nat) := []
  naks : List (Nat × Nat) := []
  flags : BitVec 4 := 0
  dones : List (Nat × Nat) := []
  paused : Bool := false
  pausers : List Nat := []
  resumers : List Nat := []
  since : Nat := 0
  deriving DecidableEq, Repr

/-- The fuse mirror before the fuses have been read (log 3). -/
def Fuses.blank : Fuses :=
  { trim := 0, opt := 0, serial := 0, vatDis := 0, laneDis := 0, bankDis := 0, keyHash := 0, secState := 0 }

/-- Power-up and reset (R476-R499). `input`, `granted`, `good`: the 24 V input is in range, the grant or its timeout has
come, power is good. `pinLow`: MRST_N is low. `hot`: a thermal trip holds P0; `cool`: since when every sensor has read
below 95 °C. `slot`, `bpos`: levels of the straps. `tries`: fuse reads that disagreed in this P1. `phase`: the phase the
sequence is in, `level` the level of the reset it belongs to, none once released. `imgSlot`: the flash slot P2 reads,
`bad` the slots found bad. `wdt`: when the watchdog was last restarted. `journal`, `seqs`: the journal region's records
(R498): request entries; destination, NEXT_SEQ, CREDIT, next PSN. `fuses`: the fuse mirror. -/
structure Boot where
  input : Bool := false
  granted : Bool := false
  good : Bool := false
  pinLow : Bool := false
  hot : Bool := false
  cool : Option Nat := none
  slot : Nat := 0
  bpos : Nat := 0
  tries : Nat := 0
  phase : Nat := 0
  level : Option Nat := some 0
  imgSlot : Nat := 0
  bad : Nat := 0
  wdt : Nat := 0
  journal : List (Nat × ReqX) := []
  seqs : List (Nat × W64 × W64 × Nat) := []
  fuses : Fuses := Fuses.blank
  deriving DecidableEq, Repr

/-- The power controller (R548, R556, R558): the gains and offsets of the five groups; how far f_max_thermal stands
below F_MAX, in MHz; when a frequency was last raised; the islands whose clocks are stretched. -/
structure Pwr where
  gains : List Rat := [1, 1, 1, 1, 1]
  offs : List Rat := [0, 0, 0, 0, 0]
  lowered : Nat := 0
  raised : Nat := 0
  stretched : List Nat := []
  deriving DecidableEq, Repr

/-- A partial re-layout between its two commands (R491): the class that sent it, the partition, the image. -/
structure Relay where
  cls : Nat
  part : Nat
  img : List Byte
  deriving DecidableEq, Repr

/-- The SEC engine (R526-R532): command keys by slot; classes with GO set, in order; by class the times of its last
AUTH_FAIL results and the end of its throttling; H of each slot and the number of the newest counter record. -/
structure Sec where
  keys : Tab (List Byte) := []
  queue : List Nat := []
  fails : List (Nat × Nat) := []
  until_ : Tab Nat := []
  high : Tab W64 := []
  recSeq : Nat := 0
  deriving DecidableEq, Repr

/-- The reasons a command stops the block. -/
inductive Fault
  /-- Raised by a meaning whose command is no term of the spec: a payload of a length the row's own format excludes.
  Safe: no such command can be sent. -/
  | illFormed
  deriving DecidableEq, Repr

/-- The reasons a command has no meaning here. -/
inductive Refusal
  /-- An arm of `exec` that has not been written. Safe: the block stops. -/
  | notModelled (mnemonic : String)
  deriving DecidableEq, Repr

/-- The state of the block. -/
structure State where
  /-- The commands that wait, first in first out; the model's own. -/
  pending : List Instr
  /-- The registers of BAR0 by byte offset, as software reads them; unlisted ones hold their reset value. -/
  regs : Tab W64
  /-- The applied value of staged (ST) fields, by the same offset (R5). -/
  live : Tab W64
  /-- Bytes of module memory and of the Cellars, by internal address (R200, R266, R579); unlisted ones are 0. -/
  mem : Tab Byte
  /-- Poison marks by 64-byte granule of the internal address (R204, R514). -/
  poison : Tab Bool
  /-- Bytes of host memory by host address; unlisted ones are 0 (log 4). -/
  host : Tab Byte
  /-- Bytes of the boot flash (R481); unlisted ones are 0xFF (log 4). -/
  flash : Tab Byte
  /-- Bytes of Reeve's staging SRAM (R486); unlisted ones are 0 (log 4). -/
  sram : Tab Byte
  /-- Program words by Vat and index (R113). -/
  prog : Tab (BitVec 128)
  /-- Curd buffer entries by Vat, slot and column (R70). -/
  curd : Tab W32
  /-- By logical Vat: what it holds beside its registers. -/
  vats : Tab VatX
  /-- DIRTY marks by Vat and bank (R224). -/
  dirty : Tab Dirty
  /-- Banks withdrawn with no spare left, as Vat and bank (R232, R233). -/
  withdrawn : List (Nat × Nat)
  /-- Bank claims (R209-R214). -/
  claims : List Claim
  /-- By Vat and stream: the Wagon stream's batches (R243-R252). -/
  streams : Tab Stream
  /-- Requests that wait for their answer, by tag (R264, R410). -/
  tags : List TagUse
  /-- Wagons that found no shared tag, and the one served last (R264). -/
  tagWait : List Nat
  tagTurn : Nat
  /-- Die-network packets in flight, in order (R16-R22). -/
  dnet : List DPkt
  /-- The queue of remote reads (R410). -/
  gets : List GetEntry
  /-- The applied Layout Image, fuses and straps (R476-R494). -/
  layout : Layout
  /-- By vector: coalescing and held-back interrupts (R577). -/
  msi : Tab Msi
  /-- By port: the link's state (R411-R417). -/
  ports : Tab PortX
  /-- Ring breaks in force, as dimension and place (R418). -/
  breaks : List (Nat × Nat)
  /-- What has left the module, oldest first; nothing reads it (log 7). -/
  sent : List Sent
  /-- The retirement record in flash (R494), oldest first. -/
  retired : List W64
  /-- The geometry of the model in service (log 14). -/
  geom : Geom
  /-- The request table (R284). -/
  reqs : Tab ReqX
  /-- Passes that run or are paused (R291, R293, R296). -/
  passes : List Pass
  /-- Partitions whose held pack's head request, named by its handle, has waited PACK_WAIT_US (R293). -/
  packDue : List (Nat × Nat)
  /-- Partitions that a kill or a re-layout has closed (R491, R534). -/
  closed : List Nat
  /-- Counts admissions, pass starts and final states, to order them. -/
  order : Nat
  /-- By KVX destination: its queue and its path (R329-R340). -/
  dests : Tab DestX
  /-- Ethernet ports that a PFC frame has paused (R335). -/
  pfcPaused : List Nat
  /-- Tenant keys by slot (R344, R531); never readable. -/
  tenant : Tab (BitVec 128)
  /-- Prefix entries being filled: group, entry, partition (R348). -/
  fills : List (Nat × Nat × Nat)
  /-- Refill remainder of each budget counter (R300). -/
  budgetRem : Tab Nat
  /-- By group: evaluations in a row below the low bound (R303). -/
  duty : Tab Nat
  /-- Duty changes that wait for their partition (R303). -/
  dutyWant : List (Nat × Nat)
  /-- The function that set the mailbox's GO (R306). -/
  mboxFunc : Nat
  /-- Tags of GET requests to send again (R410). -/
  getRetry : List Nat
  /-- Slots whose presence has been lost (R427). -/
  bpresLost : List Nat
  /-- Nanoseconds that the time base still gives up (R428). -/
  slowBy : Nat
  /-- NumVFs of the physical function's configuration space (R568). -/
  numVfs : Nat
  /-- VF Enable of the same. -/
  vfEnable : Bool
  /-- Submission rings by function (R278). -/
  rings : Tab Ring
  /-- The ring served last (R280). -/
  ringTurn : Nat
  /-- Sheaf launch windows, in 64-bit words (R443). -/
  shWin : Tab W64
  /-- Sheaf launches that wait for the engine, in order (R443). -/
  launches : List Launch
  /-- Sheaf operations in progress (R447-R463). -/
  ops : List ShOp
  /-- MSI-X table bytes, 32 for each function (R577). -/
  msixTab : Tab Byte
  /-- The power-up and reset sequencer (R474-R497). -/
  boot : Boot
  /-- The power domains switched on (R26, R27), but for bank groups, whose state is GS of CELLAR_STATUS, and the
  always-on domain, which is live while the input is in range. -/
  doms : List Domain
  /-- The re-layout between its two commands (R491). -/
  relaying : Option Relay
  /-- The security engine (R525-R532). -/
  sec : Sec
  /-- The power controller (R548-R558). -/
  pwr : Pwr
  /-- When a pseudo-channel (64 h + pc) last failed its re-read (R514). -/
  pcFailed : Tab (Option Nat)
  /-- Time of the last TSYNC (R428). -/
  lastSync : Nat
  /-- The first TSYNC correction, the one that may step, has been made (R428). -/
  stepped : Bool
  /-- Status of the last SMBus REG_WRITE (R587). -/
  mgmtStatus : Nat
  /-- Status of the last TAP access (R593). -/
  tapStatus : Nat
  /-- The TAP's capture register (R593). -/
  tapData : W64
  /-- The TAP is unlocked (R591). -/
  tapUnlocked : Bool
  /-- REG_RSP packets ready to leave (R410, R585). -/
  regOut : List Pkt
  /-- Bytes of the current window by port and direction (R630). -/
  bw : Tab Nat
  /-- Sequence number of the next snapshot (R623). -/
  dumpSeq : Nat
  /-- Free values drawn so far (log 2). -/
  free : Nat
  deriving DecidableEq, Repr

/-- The block right after reset: every register at its reset value, nothing listed in any memory, no engine at
work, an empty queue. -/
def State.reset : State :=
  { pending := [], regs := [], live := [], mem := [], poison := [], host := [], flash := [], sram := [],
    prog := [], curd := [], vats := [], dirty := [], withdrawn := [], claims := [], streams := [], tags := [],
    tagWait := [], tagTurn := 15, dnet := [], gets := [], layout := {}, msi := [], ports := [], breaks := [], sent := [], retired := [],
    geom := {}, reqs := [], passes := [], packDue := [], closed := [], order := 0, dests := [], pfcPaused := [],
    tenant := [], fills := [], budgetRem := [], duty := [], dutyWant := [], mboxFunc := 0,
    getRetry := [], bpresLost := [], slowBy := 0, numVfs := 0, vfEnable := false, rings := [], ringTurn := 63, shWin := [],
    launches := [], ops := [], msixTab := [],
    boot := {}, doms := [], relaying := none, sec := {}, pwr := {}, pcFailed := [], lastSync := 0, stepped := false,
    mgmtStatus := 0, tapStatus := 0, tapData := 0, tapUnlocked := false, regOut := [],
    bw := [], dumpSeq := 0, free := 0 }

end Sys2Proof.Machine
end

