-- ==== Sys2Proof/Machine/Ops.lean ====
section
/-! DEFINITION. The named operations over the registers, the memories, the Cellar rows and the bank claims; the
error codes of R519. -/

namespace Sys2Proof.Machine

/-! The error codes of R519. -/
def eOk : Nat := 0x00
def eCancelled : Nat := 0x01
def eAlreadyComplete : Nat := 0x02
def eMismatch : Nat := 0x03
def eWindowClosed : Nat := 0x04
def eCfgLocked : Nat := 0x05
def eAuthFail : Nat := 0x06
def eCounterStale : Nat := 0x07
def eBudgetExhausted : Nat := 0x08
def eDeadlineMiss : Nat := 0x09
def eCapacityDegraded : Nat := 0x0A
def eIllegalOp : Nat := 0x0B
def eBankUnclaimed : Nat := 0x0C
def eBankClaimConflict : Nat := 0x0D
def eMaskInvalid : Nat := 0x0E
def eTtlExpired : Nat := 0x0F
def eExportNak : Nat := 0x10
def ePaused : Nat := 0x11
def eFormatInvalid : Nat := 0x12
def eLayoutInvalid : Nat := 0x13
def eUncorrectable : Nat := 0x14
def eSheafAbort : Nat := 0x15
def eQueueFull : Nat := 0x16
def eLostRace : Nat := 0x17

/-- Classes of R520. -/
def clsLane : Nat := 0
def clsVat : Nat := 1
def clsBank : Nat := 2
def clsSkim : Nat := 3
def clsCurd : Nat := 4
def clsDnet : Nat := 5
def clsHbm : Nat := 6
def clsPort : Nat := 7
def clsWagon : Nat := 8
def clsKvx : Nat := 9
def clsPfx : Nat := 10
def clsSheaf : Nat := 11
def clsReq : Nat := 12
def clsSec : Nat := 13
def clsReeve : Nat := 14
def clsHost : Nat := 15
def clsPwr : Nat := 16

/-! Registers. -/

/-- The word of the register file at a BAR0 offset. -/
def State.rdOff (s : State) (o : Nat) : W64 := Tab.get regReset s.regs o

/-- The current (for an ST field the staged) value of a register. -/
def State.rd (s : State) (r : Reg) : W64 := s.rdOff r.off

/-- Set a register. -/
def State.wr (s : State) (r : Reg) (x : W64) : State :=
  { s with regs := Tab.set regReset s.regs r.off x }

/-- The bits of a register's fields. -/
def Reg.writable (r : Reg) : W64 := r.flds.foldl (fun w f => w ||| f.mask) 0

/-- A register takes a value of the Layout Image: reserved bits read as zero (R7). -/
def State.load (s : State) (r : Reg) (x : W64) : State := s.wr r (x &&& r.writable)

/-- The value of a field. -/
def State.get (s : State) (r : Reg) (f : Fld) : Nat := f.get (s.rd r)

/-- Set a field, the register's other bits kept. -/
def State.put (s : State) (r : Reg) (f : Fld) (n : Nat) : State :=
  s.wr r (f.put (s.rd r) n)

/-- Out of service (R518): unit 0 Thresher core, 1 KVX, 2 PFX, 3 host, 4 register bus, 5 always-on. -/
def State.isOut (s : State) (u : Nat) : Bool := s.get .ERR_DEGRADED ERR_DEGRADED.OUT / 2 ^ u % 2 = 1

/-- Add `n` to a counter field, saturating at its maximum. -/
def State.bump (s : State) (r : Reg) (f : Fld) (n : Nat := 1) : State :=
  s.put r f (min f.max (s.get r f + n))

/-- The applied value of a register with ST fields (R5): the staged one once its boundary has come. -/
def State.rdLive (s : State) (r : Reg) : W64 := Tab.get regReset s.live r.off

/-- The applied value of a field. -/
def State.getLive (s : State) (r : Reg) (f : Fld) : Nat := f.get (s.rdLive r)

/-- The boundary of a register's block has come: its staged value applies (R5). -/
def State.apply (s : State) (r : Reg) : State :=
  { s with live := Tab.set regReset s.live r.off (s.rd r) }

/-- The local copy of the time base (R25). -/
def State.now (s : State) : W64 := s.rd .GLB_TIME

/-- Draw the number of a fresh free value (log 2). -/
def State.fresh (s : State) : Nat × State := (s.free, { s with free := s.free + 1 })

/-! Tables of structures. -/
def State.vat (s : State) (v : Nat) : VatX := Tab.get (fun _ => {}) s.vats v
def State.setVat (s : State) (v : Nat) (x : VatX) : State := { s with vats := Tab.set (fun _ => {}) s.vats v x }
def State.stream (s : State) (v i : Nat) : Stream := Tab.get (fun _ => {}) s.streams (v * 64 + i)
def State.setStream (s : State) (v i : Nat) (x : Stream) : State :=
  { s with streams := Tab.set (fun _ => {}) s.streams (v * 64 + i) x }

/-! Geometry and the Vat map (R12, R14, R30, R32). -/

/-- The GLB map register and the index within it of logical Vat `v`. -/
def mapReg (v : Nat) : Reg := if v < 8 then .GLB_VAT_MAP_LO else .GLB_VAT_MAP_HI
def mapValid (v : Nat) : Fld := { hi := 8 * (v % 8) + 7, lo := 8 * (v % 8) + 7, ty := .il, reset := 0 }
def mapPhys (v : Nat) : Fld := { hi := 8 * (v % 8) + 4, lo := 8 * (v % 8), ty := .il, reset := v }
def mapPart (v : Nat) : Fld := { hi := 4 * v + 3, lo := 4 * v, ty := .il, reset := 0 }

/-- VALID of logical Vat `v`. -/
def State.valid (s : State) (v : Nat) : Bool := s.get (mapReg v) (mapValid v) = 1
/-- The physical position of logical Vat `v`. -/
def State.phys (s : State) (v : Nat) : Nat := s.get (mapReg v) (mapPhys v)
/-- The partition of logical Vat `v` (R14). -/
def State.part (s : State) (v : Nat) : Nat := s.get .GLB_VAT_PART (mapPart v)
/-- The logical Vats in service of a partition, in order. -/
def State.vatsOf (s : State) (p : Nat) : List Nat :=
  (List.range 16).filter fun v => s.valid v && s.part v = p
/-- The logical Vat at a physical position. -/
def State.logical (s : State) (ph : Nat) : Option Nat :=
  (List.range 16).find? fun v => s.valid v && s.phys v = ph

/-! The stops of the die network (R17): HBM stack `h` is stop `h`; then the physical Vat positions; Thresher halves A and
B, by the ports they serve; Reeve, host, KVX, PFX. -/
def stopOfPhys (ph : Nat) : Nat := 6 + ph
def stopThr (port : Nat) : Nat := if port < 9 then 24 else 25
def stopReeve : Nat := 26
def stopHost : Nat := 27
def stopKvx : Nat := 28
def stopPfx : Nat := 29
/-- The Vat position of a stop. -/
def physOfStop (n : Nat) : Option Nat := if 6 ≤ n ∧ n < 24 then some (n - 6) else none

/-- The stop that serves logical Vat `v`. -/
def State.stopOf (s : State) (v : Nat) : Nat := stopOfPhys (s.phys v)

def State.dnetSend (s : State) (p : DPkt) : State := { s with dnet := s.dnet ++ [p] }

/-- A packet of Vat `v`: its stop inserts its partition (R16). -/
def State.vatPkt (s : State) (v : Nat) (dest : DTo) (load : Load) : DPkt :=
  { src := s.stopOf v, part := s.part v, dest := dest, load := load }

/-! Byte memories (R8, R579). -/
def State.byte (s : State) (a : Nat) : Byte := Tab.get zeroByte s.mem a
def State.bytes (s : State) (a n : Nat) : List Byte := Tab.getAll zeroByte s.mem a n
def State.setBytes (s : State) (a : Nat) (bs : List Byte) : State :=
  { s with mem := Tab.setAll zeroByte s.mem a bs }
/-- A little-endian number of `n` bytes. -/
def State.num (s : State) (a n : Nat) : Nat := leNat (s.bytes a n)

def State.hostBytes (s : State) (a n : Nat) : List Byte := Tab.getAll zeroByte s.host a n
def State.setHost (s : State) (a : Nat) (bs : List Byte) : State :=
  { s with host := Tab.setAll zeroByte s.host a bs }

/-- The granules of 64 bytes that `n` bytes at `a` touch. -/
def granules (a n : Nat) : List Nat :=
  if n = 0 then [] else (List.range ((a + n - 1) / 64 - a / 64 + 1)).map (a / 64 + ·)

/-- Whether any byte of the range is poisoned (R204, R514). -/
def State.poisoned (s : State) (a n : Nat) : Bool :=
  (granules a n).any fun g => Tab.get noBit s.poison g

/-- Mark or clear the poison of a range. -/
def State.setPoison (s : State) (a n : Nat) (b : Bool) : State :=
  { s with poison := (granules a n).foldl (fun t g => Tab.set noBit t g b) s.poison }

/-- Write bytes to internal memory; rewritten granules lose their poison (R515). -/
def State.store (s : State) (a : Nat) (bs : List Byte) : State :=
  (s.setBytes a bs).setPoison a bs.length false

/-- Module memory ends here (R266). -/
def memTop : Nat := 0x003000000000

/-! The Cellar (R200-R204, R224). -/
def rowsPerCellar : Nat := 131072

/-- The internal address of row `r` of the Cellar of logical Vat `v` (R202). -/
def rowAddr (v r : Nat) : Nat := 0x100000000000 + v * 0x100000000 + r * 512

/-- The bank of a row (R202). -/
def bankOf (r : Nat) : Nat := r / 1024

/-- The banks of a Cellar, the spare ones standing behind the 128 logical ones (R225). -/
def spareBank (i : Nat) : Nat := 128 + i
def allBanks : List Nat := List.range 132

def State.dirtyOf (s : State) (v b : Nat) : Dirty := Tab.get (fun _ => {}) s.dirty (v * 132 + b)
def State.setDirty (s : State) (v b : Nat) (d : Dirty) : State :=
  { s with dirty := Tab.set (fun _ => {}) s.dirty (v * 132 + b) d }

/-- Whether a row is DIRTY (R224). -/
def State.rowDirty (s : State) (v r : Nat) : Bool :=
  let d := s.dirtyOf v (bankOf r)
  d.all && !d.clean.contains r

/-- The DIRTY rows of a Cellar. -/
def State.dirtyRows (s : State) (v : Nat) : Nat :=
  allBanks.foldl (fun n b => let d := s.dirtyOf v b; if d.all then n + 1024 - d.clean.length else n) 0

/-- Every row of bank `b` becomes DIRTY and reads as zero (R224). -/
def State.makeDirty (s : State) (v b : Nat) : State :=
  let lo := rowAddr v (b * 1024)
  let hi := rowAddr v (b * 1024 + 1024)
  { s.setDirty v b { all := true, clean := [] } with
    mem := Tab.clear lo hi s.mem
    poison := Tab.clear (lo / 64) (hi / 64) s.poison }

/-- The 512 bytes of a row. -/
def State.row (s : State) (v r : Nat) : List Byte := s.bytes (rowAddr v r) 512

/-- A whole-row write: stores the data and clears DIRTY and poison (R224, R515); while the tags of a killed
partition are out it stores nothing (R269). -/
def State.setRow (s : State) (v r : Nat) (data : List Byte) (poison : Bool := false) : State :=
  if (s.vat v).killed then s else
  let d := s.dirtyOf v (bankOf r)
  let s := if d.all && !d.clean.contains r then s.setDirty v (bankOf r) { d with clean := r :: d.clean } else s
  (s.setBytes (rowAddr v r) (data.take 512)).setPoison (rowAddr v r) 512 poison

/-- Group states (R235). -/
def gsOff : Nat := 0
def gsWaking : Nat := 1
def gsOn : Nat := 2
def gsClosing : Nat := 3

def gsFld (g : Nat) : Fld := { hi := 2 * g + 9, lo := 2 * g + 8, ty := .ro, reset := 0 }
def State.gs (s : State) (v g : Nat) : Nat := s.get (.CELLAR_STATUS v) (gsFld g)
def State.setGs (s : State) (v g n : Nat) : State := s.put (.CELLAR_STATUS v) (gsFld g) n
def ownedFld (g : Nat) : Fld := { hi := 4 + g, lo := 4 + g, ty := .il, reset := 0 }
def pwrFld (g : Nat) : Fld := { hi := g, lo := g, ty := .rw, reset := 0 }
def State.owned (s : State) (v g : Nat) : Bool := s.get (.CELLAR_GROUP_CTRL v) (ownedFld g) = 1

/-! Power domains (R26-R28). -/

/-- Whether a power domain is on: a bank group that is not OFF, the always-on domain while the input is in range. -/
def State.domOn (s : State) (d : Domain) : Bool :=
  match d with
  | .group p g => (s.logical p).any fun v => s.gs v g ≠ gsOff
  | .alwaysOn => s.boot.input
  | d => s.doms.contains d

/-- Switch domains on, or off. -/
def State.switchOn (s : State) (ds : List Domain) : State :=
  { s with doms := s.doms ++ ds.filter fun d => !s.doms.contains d }
def State.switchOff (s : State) (ds : List Domain) : State := { s with doms := s.doms.filter fun d => !ds.contains d }

/-- The Plate-array and control domains of a Vat position. -/
def vatDoms (p : Nat) : List Domain := [.plates p, .control p]

/-! Spare banks (R232, R237). -/
def mapEntry (i hi lo : Nat) : Fld := { hi := 16 * i + hi, lo := 16 * i + lo, ty := .il, reset := 0 }
def bmValid (i : Nat) : Fld := mapEntry i 15 15
def bmBad (i : Nat) : Fld := mapEntry i 14 14
def bmCopying (i : Nat) : Fld := mapEntry i 13 13
def bmBank (i : Nat) : Fld := mapEntry i 6 0

/-- The spare that serves bank `b`, and the one it is being copied to. -/
def State.spareOf (s : State) (v b : Nat) : Option Nat :=
  (List.range 4).find? fun i => s.get (.CELLAR_BANK_MAP v) (bmValid i) = 1 && s.get (.CELLAR_BANK_MAP v) (bmBank i) = b
def State.copyOf (s : State) (v b : Nat) : Option Nat :=
  (List.range 4).find? fun i => s.get (.CELLAR_BANK_MAP v) (bmCopying i) = 1 && s.get (.CELLAR_BANK_MAP v) (bmBank i) = b
/-- A spare neither in use, nor bad, nor being copied into. -/
def State.spareFree (s : State) (v i : Nat) : Bool :=
  s.get (.CELLAR_BANK_MAP v) (bmValid i) = 0 && s.get (.CELLAR_BANK_MAP v) (bmBad i) = 0 &&
    s.get (.CELLAR_BANK_MAP v) (bmCopying i) = 0
/-- The lowest free spare (R232). -/
def State.freeSpare (s : State) (v : Nat) : Option Nat := (List.range 4).find? fun i => s.spareFree v i
/-- A bank withdrawn with no spare free (R233). -/
def State.isWithdrawn (s : State) (v b : Nat) : Bool := s.withdrawn.contains (v, b)

/-- SKIM_CTRL.AVAIL: the self-test is recorded and every engine is in service (R223, R240). -/
def State.skimAvail (s : State) (v : Nat) : Bool :=
  s.get (.SKIM_CTRL v) SKIM_CTRL.SELFTEST_DONE = 1 &&
    (List.range 4).all (fun i => s.get (.CELLAR_BANK_MAP v) (bmCopying i) = 0) &&
    !s.withdrawn.any fun p => p.1 = v

/-! Claims (R209-R214). Ports as R215 numbers them. -/
def portPlate : Nat := 1
def portMould : Nat := 2
def portDrain : Nat := 3
def portSkim : Nat := 4
def portWagon : Nat := 5
def portRemote : Nat := 6

/-- The claims held on a bank. -/
def State.claimsOn (s : State) (v b : Nat) : List Claim := s.claims.filter fun c => c.v = v && c.bank = b

/-- What a claim attempt of `port` on a bank meets (R211, R212): an error code, 0 where it succeeds. `pair` is the
port it may share the bank with (R213); a claim that stands may itself be one of a pair. -/
def State.claimErr (s : State) (v b port : Nat) (pair : Nat := 0) : Nat :=
  if 128 ≤ b then eBankUnclaimed
  else if !s.owned v (b / 32) || s.gs v (b / 32) ≠ gsOn || s.isWithdrawn v b then eBankUnclaimed
  else if (s.claimsOn v b).all (fun c => c.port = port || c.port = pair || c.pair = port) then 0
  else eBankClaimConflict

/-- What a row on its way meets when it claims: a CLOSING group still takes it (R228). -/
def State.arriveErr (s : State) (v b port : Nat) (pair : Nat := 0) : Nat :=
  if s.gs v (b / 32) = gsClosing && s.owned v (b / 32) && !s.isWithdrawn v b && b < 128 then
    if (s.claimsOn v b).all (fun c => c.port = port || c.port = pair || c.pair = port) then 0 else eBankClaimConflict
  else s.claimErr v b port pair

/-- What an access under a claim meets (R212, R228, R233): the bank may have been withdrawn, its group may be gone. -/
def State.heldErr (s : State) (v b : Nat) : Nat :=
  if s.isWithdrawn v b || s.gs v (b / 32) = gsOff || s.gs v (b / 32) = gsWaking then eBankUnclaimed else 0

/-- Take claims on the banks for a holder. -/
def State.claim (s : State) (v port : Nat) (h : Holder) (banks : List Nat) : State :=
  { s with claims := s.claims ++ banks.map fun b => { v := v, bank := b, port := port, holder := h } }

/-- Release every claim of a holder. -/
def State.release (s : State) (h : Holder) : State :=
  { s with claims := s.claims.filter fun c => c.holder ≠ h }

/-- The distinct banks of a list of rows, in order of first touch. -/
def banksOf (rows : List Nat) : List Nat := (rows.map bankOf).eraseDups

/-- What CELLAR_CLAIM(b) shows (R215). -/
def State.claimView (s : State) (v b : Nat) : W64 :=
  let cs := s.claimsOn v b
  let port := match cs with
    | [] => 0
    | c :: r => if r.all (fun d => d.port = c.port) then c.port else 7
  let w := CELLAR_CLAIM.HOLDERS.put 0 (min 255 cs.length)
  let w := CELLAR_CLAIM.WITHDRAWN.put w (if s.isWithdrawn v b then 1 else 0)
  let w := CELLAR_CLAIM.SPARE.put w (if (s.spareOf v b).isSome then 1 else 0)
  let w := CELLAR_CLAIM.COPYING.put w (if (s.copyOf v b).isSome then 1 else 0)
  CELLAR_CLAIM.PORT.put w port

/-- The most recent Cellar or Skim event (R239). -/
def State.lastErr (s : State) (v kind r : Nat) : State :=
  let w := CELLAR_LAST_ERR.KIND.put 0 kind
  let w := CELLAR_LAST_ERR.ROW.put w r
  s.wr (.CELLAR_LAST_ERR v) (CELLAR_LAST_ERR.VALID.put w 1)

/-! What leaves the module. -/

/-- Append to what has left the module (log 7). -/
def State.emit (s : State) (x : Sent) : State := { s with sent := s.sent ++ [x] }

/-- Raise an MSI-X vector of a function: at most one message per 5 µs, a later one held back (R305, R577). -/
def State.raiseMsi (s : State) (f vec : Nat) : State :=
  let m := Tab.get (fun _ => {}) s.msi (2 * f + vec)
  let now := s.now.toNat
  if m.held then s
  else match m.last with
    | some t => if t + 5000 ≤ now
        then { s.emit (.msix f vec) with msi := Tab.set (fun _ => {}) s.msi (2 * f + vec) { last := some now } }
        else { s with msi := Tab.set (fun _ => {}) s.msi (2 * f + vec) { m with held := true } }
    | none => { s.emit (.msix f vec) with msi := Tab.set (fun _ => {}) s.msi (2 * f + vec) { last := some now } }

/-! The layout's regions (R246, R488). -/

/-- The PART section of a partition, and the GROUP section of a serving group. -/
def State.partSec (s : State) (p : Nat) : Option PartSec := (s.layout.parts.find? fun x => x.1 = p).map (·.2)
def State.groupSec (s : State) (g : Nat) : Option GroupSec := (s.layout.groups.find? fun x => x.1 = g).map (·.2)

/-- The HBM regions a partition reaches: its own and its group's (R488). -/
def State.regionsOf (s : State) (p : Nat) : List Region :=
  match s.partSec p with
  | some x => x.regions ++ ((s.groupSec x.group).map (·.regions)).getD []
  | none => []

/-- Whether `n` bytes at `a` lie within one region of the list. -/
def inRegion (rs : List Region) (a n : Nat) : Bool := rs.any fun r => r.base ≤ a && a + n ≤ r.base + r.size

/-- Whether `n` bytes at `a` lie within the partition's HBM regions (R242, R246, R642): each region is contiguous. -/
def State.inHbm (s : State) (p a n : Nat) : Bool := inRegion (s.regionsOf p) a n

/-- Insert a context number in a list once. -/
def addOnce (c : Nat) (l : List Nat) : List Nat := if l.contains c then l else l ++ [c]

end Sys2Proof.Machine
end

