-- ==== Sys2Proof/Machine/Counters.lean ====
section
/-! DEFINITION. The performance counters as events meet them (R601-R611), and the trace ring (R614). Events that
count cycles of time are left out with time itself (log 16). -/

namespace Sys2Proof.Machine

/-- Units of R601. -/
def puVat (v : Nat) : Nat := v
def puCellar (v : Nat) : Nat := 16 + v
def puThr : List Nat := [32, 33]
def puGlb : List Nat := [34, 35, 36, 37]

/-- The selectors of a Thresher event that names a port and no channel (R606). -/
def portSels (p : Nat) : List Nat := (List.range 8).map fun v => p + 32 * v

/-- The Vat records the instruction issued last as the first candidate of a sample due (R611). -/
def State.sampleDue (s : State) (u i : Nat) : State :=
  if u < 16 then
    let x := s.vat u
    s.setVat u { x with samples := (x.samples.filter fun y => y.1 ≠ i) ++ [(i, s.now.toNat, x.last.toList)] }
  else s

/-- Add `n` to counter `i` of unit `u`; it wraps past 48 bits, sets OVF and asks for a sample (R609, R611). -/
def State.perfAdd (s : State) (u i n : Nat) : State × Bool :=
  let t := s.get (.PERF_VALUE u i) PERF_VALUE.COUNT + n
  let s := s.put (.PERF_VALUE u i) PERF_VALUE.COUNT (t % 2 ^ 48)
  if t < 2 ^ 48 then (s, false) else
  let s := s.put (.PERF_CFG u i) PERF_CFG.OVF 1
  (if s.get (.PERF_CFG u i) PERF_CFG.SAMPLE = 1 then s.sampleDue u i else s, true)

/-- Whether counter `i` of unit `u` counts the event with one of these selectors (R602, R608, R609). -/
def State.perfHits (s : State) (u i ev : Nat) (sels : List Nat) : Bool :=
  s.get (.PERF_CFG u i) PERF_CFG.EN = 1 && s.get (.PERF_CFG u i) PERF_CFG.MODE = 0 &&
    s.get (.PERF_CFG u i) PERF_CFG.EVENT = ev && sels.contains (s.get (.PERF_CFG u i) PERF_CFG.SEL) &&
    !(i % 2 = 1 && s.get (.PERF_CFG u i) PERF_CFG.CHAIN = 1)

/-- Add `n` to counter `i`; an overflow of an even counter goes to a chained odd one (R609). -/
def State.perfChain (s : State) (u i n : Nat) : State :=
  let (s, ovf) := s.perfAdd u i n
  if ovf && i % 2 = 0 && s.get (.PERF_CFG u (i + 1)) PERF_CFG.EN = 1 && s.get (.PERF_CFG u (i + 1)) PERF_CFG.CHAIN = 1
  then (s.perfAdd u (i + 1) 1).1 else s

/-- Counter `i` counts `n` of the event where it selects it. -/
def State.perfOne (s : State) (u ev : Nat) (sels : List Nat) (n i : Nat) : State :=
  if s.perfHits u i ev sels then s.perfChain u i n else s

/-- `n` occurrences of an event in unit `u`: every counter that selects it counts, unless frozen (R610). -/
def State.perf (s : State) (u ev : Nat) (sels : List Nat) (n : Nat) : State :=
  if s.get .PERF_CTL PERF_CTL.FREEZE = 1 || n = 0 then s
  else (List.range 16).foldl (fun s i => s.perfOne u ev sels n i) s

/-- The event in each of several units. -/
def State.perfs (s : State) (us : List Nat) (ev : Nat) (sels : List Nat) (n : Nat) : State :=
  us.foldl (fun s u => s.perf u ev sels n) s

/-- Bytes written to host memory (R607). -/
def State.hostOut (s : State) (a : Nat) (bs : List Byte) : State :=
  (s.setHost a bs).perfs puGlb 0x0B [0] bs.length

/-- Bytes read from host memory (R607). -/
def State.hostIn (s : State) (a n : Nat) : List Byte × State := (s.hostBytes a n, s.perfs puGlb 0x0A [0] n)

/-- Bytes read from (event 0) or written to (event 1) module memory at `a`, granule by granule (R266, R607). -/
def State.hbmCount (s : State) (ev a n : Nat) : State :=
  if n = 0 then s else
  (List.range ((a + n - 1) / 2048 - a / 2048 + 1)).foldl (fun s i =>
    let g := a / 2048 + i
    s.perfs puGlb ev [g % 6, 6] (min (a + n) (g * 2048 + 2048) - max a (g * 2048))) s

/-- Append one 16-byte record to the trace ring (R614). -/
def State.traceRec (s : State) (time tag v c kind pc : Nat) : State :=
  if s.get .PERF_TRACE_CFG PERF_TRACE_CFG.EN = 1 then
    let head := s.get .PERF_TRACE_CFG PERF_TRACE_CFG.HEAD
    let slots := max 1 (s.get .PERF_TRACE_CFG PERF_TRACE_CFG.SLOTS)
    let base := s.get .PERF_TRACE_BASE PERF_TRACE_BASE.BASE * 4096
    let rec16 := leBytes 8 time ++ leBytes 2 tag ++ leBytes 1 (v + 16 * c + 64 * kind) ++ [0] ++ leBytes 2 pc ++ [0, 0]
    let a := base + head % slots * 16
    ((s.store a rec16).hbmCount 0x01 a 16).put .PERF_TRACE_CFG PERF_TRACE_CFG.HEAD (head + 1)
  else s

/-- An instruction of opcode `opc` at `pc` issues: it counts (R603), and is the candidate of samples due (R611). -/
def State.noteIssue (s : State) (v c pc opc : Nat) : State :=
  let x := s.vat v
  let s := s.setVat v { x with
    last := some (pc, c)
    samples := x.samples.map fun y => if y.2.2.length < 33 then (y.1, y.2.1, y.2.2 ++ [(pc, c)]) else y }
  s.perf (puVat v) 0x10 [0, opc] 1

end Sys2Proof.Machine
end

