-- ==== Sys2Proof/Machine/Fp.lean ====
section
/-! DEFINITION. The number formats and their arithmetic (chapter 02): exact values, rounding with its flags,
FP32 addition and multiplication, the lane tree, the C formats, checks and S16 blocks. An FP32 value is its 32
bits; a 16-bit value its 16 bits; the sticky flags are the four bits of R60. -/

namespace Sys2Proof.Machine

abbrev Flags := BitVec 4

/-- The flag bits of R60. -/
def flagIX : Flags := 1
def flagUF : Flags := 2
def flagOF : Flags := 4
def flagIV : Flags := 8

/-- An exact value: NaN, an infinity with its sign, or ±m × 2^e (`neg` true for minus). -/
inductive FpV
  | nan
  | inf (neg : Bool)
  | fin (neg : Bool) (m : Nat) (e : Int)
  deriving DecidableEq, Repr

/-- A binary format: significand bits with the hidden one, exponent of the subnormals' last bit, exponent
bits, and the canonical NaN (R58). -/
structure FpFmt where
  prec : Nat
  emin : Int
  ebits : Nat
  qnan : Nat
  deriving DecidableEq, Repr

def fmtF32 : FpFmt := { prec := 24, emin := -149, ebits := 8, qnan := 0x7FC00000 }
def fmtBF16 : FpFmt := { prec := 8, emin := -133, ebits := 8, qnan := 0x7FC0 }
def fmtFP16 : FpFmt := { prec := 11, emin := -24, ebits := 5, qnan := 0x7E00 }

/-- The bits of +∞ in a format; every magnitude below is finite. -/
def FpFmt.inf (f : FpFmt) : Nat := (2 ^ f.ebits - 1) * 2 ^ (f.prec - 1)

/-- The weight of the sign bit. -/
def FpFmt.sign (f : FpFmt) : Nat := 2 ^ (f.ebits + f.prec - 1)

/-- The exact value of a bit pattern; every NaN is one value (R38). -/
def FpFmt.decode (f : FpFmt) (w : Nat) : FpV :=
  let neg := decide (w / f.sign % 2 = 1)
  let mag := w % f.sign
  if f.inf < mag then .nan
  else if mag = f.inf then .inf neg
  else
    let h := 2 ^ (f.prec - 1)
    let e := mag / h
    if e = 0 then .fin neg mag f.emin else .fin neg (mag % h + h) (f.emin + e - 1)

/-- The rounding modes of R53, SR16 with its 16-bit random value. -/
inductive Rnd
  | rne | rtz | sr16 (r : Nat)
  deriving DecidableEq, Repr

/-- Whether the magnitude `t` units and `rem` of `2^sh` more rounds up (R54). -/
def Rnd.up (r : Rnd) (t rem sh : Nat) : Bool :=
  match r with
  | .rne => decide (2 ^ sh < 2 * rem) || (decide (2 ^ sh = 2 * rem) && decide (t % 2 = 1))
  | .rtz => false
  | .sr16 r => decide (r < if 16 ≤ sh then rem / 2 ^ (sh - 16) else rem * 2 ^ (16 - sh))

/-- Round ±m × 2^e to a format (R54, R55), with the flags of R60. -/
def FpFmt.round (f : FpFmt) (md : Rnd) (neg : Bool) (m : Nat) (e : Int) : Nat × Flags :=
  let sg := if neg then f.sign else 0
  if m = 0 then (sg, 0) else
  let top : Int := Nat.log2 m + e
  let q := max f.emin (top - (f.prec - 1 : Nat))
  let sh := (q - e).toNat
  let t := if q ≤ e then m * 2 ^ (e - q).toNat else m / 2 ^ sh
  let rem := if q ≤ e then 0 else m % 2 ^ sh
  let t' := if md.up t rem sh then t + 1 else t
  let mag := (q - f.emin).toNat * 2 ^ (f.prec - 1) + t'
  if f.inf ≤ mag then
    (sg + (if md = .rtz then f.inf - 1 else f.inf), flagOF ||| flagIX)
  else
    let ix := if rem = 0 then 0 else flagIX
    let uf := if rem ≠ 0 ∧ top < f.emin + (f.prec - 1 : Nat) then flagUF else 0
    (sg + mag, ix ||| uf)

/-- The bits of a value in a format. -/
def FpFmt.encode (f : FpFmt) (md : Rnd) : FpV → Nat × Flags
  | .nan => (f.qnan, 0)
  | .inf neg => ((if neg then f.sign else 0) + f.inf, 0)
  | .fin neg m e => f.round md neg m e

/-- The exact value of an FP32 bit pattern. -/
def f32 (w : W32) : FpV := fmtF32.decode w.toNat

/-- A value rounded once to FP32 with RNE (R52). -/
def toF32 (v : FpV) : W32 × Flags :=
  let (n, fl) := fmtF32.encode .rne v
  (BitVec.ofNat 32 n, fl)

def f32Nan : W32 := 0x7FC00000
def f32One : W32 := 0x3F800000
def f32Inf : W32 := 0x7F800000
def f32NegInf : W32 := 0xFF800000

def FpV.isNan : FpV → Bool
  | .nan => true
  | _ => false

def FpV.isFin : FpV → Bool
  | .fin _ _ _ => true
  | _ => false

def FpV.isZero : FpV → Bool
  | .fin _ m _ => m = 0
  | _ => false

def FpV.isNeg : FpV → Bool
  | .nan => false
  | .inf n => n
  | .fin n _ _ => n

def FpV.neg : FpV → FpV
  | .nan => .nan
  | .inf n => .inf (!n)
  | .fin n m e => .fin (!n) m e

def FpV.abs : FpV → FpV
  | .nan => .nan
  | .inf _ => .inf false
  | .fin _ m e => .fin false m e

/-- The exact product (R39). -/
def FpV.mul (a b : FpV) : FpV × Flags :=
  match a, b with
  | .nan, _ => (.nan, 0)
  | _, .nan => (.nan, 0)
  | .inf s, .inf t => (.inf (s ^^ t), 0)
  | .inf s, .fin t m _ => if m = 0 then (.nan, flagIV) else (.inf (s ^^ t), 0)
  | .fin s m _, .inf t => if m = 0 then (.nan, flagIV) else (.inf (s ^^ t), 0)
  | .fin s m e, .fin t n f => (.fin (s ^^ t) (m * n) (e + f), 0)

/-- The exact sum (R40): x + (−x) is +0; two zeros of one sign keep it. -/
def FpV.add (a b : FpV) : FpV × Flags :=
  match a, b with
  | .nan, _ => (.nan, 0)
  | _, .nan => (.nan, 0)
  | .inf s, .inf t => if s = t then (.inf s, 0) else (.nan, flagIV)
  | .inf s, .fin _ _ _ => (.inf s, 0)
  | .fin _ _ _, .inf t => (.inf t, 0)
  | .fin s m e, .fin t n f =>
    let g := min e f
    let x : Int := (m * 2 ^ (e - g).toNat : Nat)
    let y : Int := (n * 2 ^ (f - g).toNat : Nat)
    let z := (if s then -x else x) + (if t then -y else y)
    if z = 0 then (.fin (s && t && decide (m = 0)) 0 0, 0) else (.fin (decide (z < 0)) z.natAbs g, 0)

/-- FP32 product, sum and difference, each rounded once with RNE (R39, R40). -/
def fMul (a b : W32) : W32 × Flags :=
  let (v, f) := (f32 a).mul (f32 b)
  let (w, g) := toF32 v
  (w, f ||| g)

def fAdd (a b : W32) : W32 × Flags :=
  let (v, f) := (f32 a).add (f32 b)
  let (w, g) := toF32 v
  (w, f ||| g)

def fNeg (a : W32) : W32 := if (f32 a).isNan then f32Nan else a ^^^ 0x80000000
def fAbs (a : W32) : W32 := if (f32 a).isNan then f32Nan else a &&& 0x7FFFFFFF
def fSub (a b : W32) : W32 × Flags := fAdd a (fNeg b)

/-- Truncated quotient bits of m/n with the sticky bit below them: `(q, e)` with m/n ≈ q × 2^e. -/
def divBits (m n bits : Nat) : Nat × Int :=
  let k := bits + Nat.log2 n + 1 - min (bits + Nat.log2 n + 1) (Nat.log2 m)
  let q := m * 2 ^ k / n
  (2 * q + (if m * 2 ^ k % n = 0 then 0 else 1), -((k : Int) + 1))

/-- The quotient, its bits below FP32's precision folded into one sticky bit: x ÷ 0 is ∞ for finite nonzero x;
0 ÷ 0 and ∞ ÷ ∞ are NaN with IV. -/
def FpV.div (a b : FpV) : FpV × Flags :=
  match a, b with
  | .nan, _ => (.nan, 0)
  | _, .nan => (.nan, 0)
  | .inf _, .inf _ => (.nan, flagIV)
  | .inf s, .fin t _ _ => (.inf (s ^^ t), 0)
  | .fin s _ _, .inf t => (.fin (s ^^ t) 0 0, 0)
  | .fin s m e, .fin t n f =>
    if n = 0 then (if m = 0 then (.nan, flagIV) else (.inf (s ^^ t), 0))
    else if m = 0 then (.fin (s ^^ t) 0 0, 0)
    else
      let (q, g) := divBits m n 40
      (.fin (s ^^ t) q (g + e - f), 0)

def fDiv (a b : W32) : W32 × Flags :=
  let (v, f) := (f32 a).div (f32 b)
  let (w, g) := toF32 v
  (w, f ||| g)

/-- The fixed-point integer of an exact value in units of 2^-p, for e ≥ -p. -/
def FpV.fixed (p : Nat) : FpV → Int
  | .fin s m e => let x : Int := (m * 2 ^ (e + p).toNat : Nat); if s then -x else x
  | _ => 0

/-- The order of two numbers, NaN aside (R59): −0 and +0 are equal. -/
def FpV.lt (a b : FpV) : Bool :=
  match a, b with
  | .nan, _ => false
  | _, .nan => false
  | .inf s, .inf t => s && !t
  | .inf s, .fin _ _ _ => s
  | .fin _ _ _, .inf t => !t
  | .fin _ _ _, .fin _ _ _ => decide (a.fixed 400 < b.fixed 400)

/-- Same number, NaN aside (R59). -/
def FpV.eqv (a b : FpV) : Bool :=
  !a.isNan && !b.isNan && !a.lt b && !b.lt a

/-- Rind MAX and MIN (R59): NaN if either is, a zero result is +0. -/
def fMax (a b : W32) : W32 :=
  let x := f32 a; let y := f32 b
  if x.isNan || y.isNan then f32Nan else
  let r := if x.lt y then b else a
  if (f32 r).isZero then 0 else r

def fMin (a b : W32) : W32 :=
  let x := f32 a; let y := f32 b
  if x.isNan || y.isNan then f32Nan else
  let r := if y.lt x then b else a
  if (f32 r).isZero then 0 else r

/-- A BF16 or FP16 element as an FP32 value; both convert exactly. -/
def widen (f : FpFmt) (h : W16) : W32 := (toF32 (f.decode h.toNat)).1

/-- A value as it leaves the datapath in format `f` (R58): +0 for −0, the canonical NaN for every NaN. -/
def FpFmt.leave (f : FpFmt) (w : Nat) : Nat :=
  match f.decode w with
  | .nan => f.qnan
  | .fin _ 0 _ => 0
  | _ => w

/-- An FP32 value as it leaves the datapath (R58). -/
def leave32 (w : W32) : W32 := BitVec.ofNat 32 (fmtF32.leave w.toNat)

/-- Conversion of an FP32 value to a narrower format (R54, R55), as it leaves (R58). -/
def cvt (f : FpFmt) (md : Rnd) (x : W32) : W16 × Flags :=
  let (n, fl) := f.encode md (f32 x)
  (BitVec.ofNat 16 (f.leave n), fl)

/-- One level of the pairwise tree: element 2i with 2i + 1 (R40). -/
def treeStep : List W32 → List W32 × Flags
  | a :: b :: xs =>
    let (s, f) := fAdd a b
    let (ys, g) := treeStep xs
    (s :: ys, f ||| g)
  | xs => (xs, 0)

/-- `n` levels of the pairwise tree (R40). -/
def treeSum : Nat → List W32 → W32 × Flags
  | 0, xs => (xs.headD 0, 0)
  | n + 1, xs =>
    let (ys, f) := treeStep xs
    let (r, g) := treeSum n ys
    (r, f ||| g)

/-- The product of two elements in the multiplier format, rounded once to FP32 (R39). -/
def prod (f : FpFmt) (w x : W16) : W32 × Flags :=
  let (v, a) := (f.decode w.toNat).mul (f.decode x.toNat)
  let (r, b) := toF32 v
  (r, a ||| b)

/-- The products of one lane; elements from `k` on are gated and give +0 (R38, R40). -/
def prods (f : FpFmt) : Nat → List W16 → List W16 → List W32 × Flags
  | 0, ws, _ => (ws.map fun _ => 0, 0)
  | k + 1, w :: ws, x :: xs =>
    let (p, a) := prod f w x
    let (ps, b) := prods f k ws xs
    (p :: ps, a ||| b)
  | _ + 1, ws, _ => (ws.map fun _ => 0, 0)

/-- `lane_dot` (R40): 256 products and the tree of 255 additions; `k` is k_valid. -/
def laneDot (f : FpFmt) (k : Nat) (w x : List W16) : W32 × Flags :=
  let (ps, a) := prods f k w x
  let (r, b) := treeSum 8 ps
  (r, a ||| b)

/-- Dot product of FP32 values by R39 and R40, for the checks (R92, R93); elements from `k` on are gated. -/
def mixDot (k : Nat) (ws xs : List W32) : W32 :=
  let ps := (List.zipWith (fun a b => (fMul a b).1) ws xs).take k
  (treeSum 8 (ps ++ List.replicate (256 - ps.length) 0)).1

/-- Sequential FP32 sum, left to right (R80, R93). -/
def seqSum : List W32 → W32
  | [] => 0
  | x :: xs => xs.foldl (fun a b => (fAdd a b).1) x

/-- `two_sum` (R65): the sum and the error term. -/
def twoSum (a b : W32) : W32 × W32 × Flags :=
  let (s, f1) := fAdd a b
  let (bb, f2) := fSub s a
  let (u, f3) := fSub s bb
  let (u, f4) := fSub a u
  let (v, f5) := fSub b bb
  let (e, f6) := fAdd u v
  (s, e, f1 ||| f2 ||| f3 ||| f4 ||| f5 ||| f6)

/-- The C formats of R45. -/
inductive CFmt
  | c8 | c6 | c4
  deriving DecidableEq, Repr

/-- Element and fine scale of a C format as a BF16 value: `decode_weight` (R46, R47, R49). -/
def decodeWeight (c : CFmt) (code fine : Nat) : W16 :=
  let (s, e, m, bias, mb) : Nat × Nat × Nat × Nat × Nat :=
    match c with
    | .c8 => (code / 128 % 2, code / 8 % 16, code % 8, 7, 3)
    | .c6 => (code / 32 % 2, code / 4 % 8, code % 4, 3, 2)
    | .c4 => (code / 8 % 2, code / 2 % 4, code % 2, 1, 1)
  let (mm, me) : Nat × Int :=
    if e = 0 then (m, 1 - (bias : Int) - mb) else (2 ^ mb + m, (e : Int) - bias - mb)
  let fe := fine / 8 % 32
  let fm := fine % 8
  let (sm, se) : Nat × Int := if fe = 0 then (fm, -17) else (8 + fm, (fe : Int) - 18)
  if mm * sm = 0 then 0 else BitVec.ofNat 16 (fmtBF16.round .rne (s = 1) (mm * sm) (me + se)).1

/-- Elements along K that share a fine scale (R45). -/
def CFmt.block : CFmt → Nat
  | .c8 => 32
  | .c6 => 32
  | .c4 => 16

/-- Fine-scale bytes of a packed column (R48). -/
def CFmt.fines : CFmt → Nat
  | .c8 => 8
  | .c6 => 8
  | .c4 => 16

/-- Bytes of a packed column (R48). -/
def CFmt.column : CFmt → Nat
  | .c8 => 264
  | .c6 => 200
  | .c4 => 144

/-- The code of element `i` in a packed column (R48). -/
def CFmt.code (c : CFmt) (b : List Byte) (i : Nat) : Nat :=
  match c with
  | .c8 => (b.getD (8 + i) 0).toNat
  | .c6 => leNat ((b.drop (8 + 3 * (i / 4))).take 3) / 2 ^ (6 * (i % 4)) % 64
  | .c4 => (b.getD (16 + i / 2) 0).toNat / 2 ^ (4 * (i % 2)) % 16

/-- The 256 BF16 values of a packed column (R48, R49). -/
def CFmt.unpack (c : CFmt) (b : List Byte) : List W16 :=
  (List.range 256).map fun i => decodeWeight c (c.code b i) (b.getD (i / c.block) 0).toNat

/-- The verdict of one comparison (R94). -/
inductive Verdict
  | pass | skipped | mismatch
  deriving DecidableEq, Repr

/-- `check` (R94), evaluated without rounding in units of 2^-163. -/
def check (got ref t : W32) : Verdict :=
  let g := f32 got; let r := f32 ref; let m := f32 t
  if !m.isFin then .skipped
  else if !g.isFin || !r.isFin then .mismatch
  else if decide ((g.fixed 163 - r.fixed 163).natAbs * 2 ^ 14 ≤ (m.fixed 163).natAbs + 2 ^ 51) then .pass else .mismatch

/-- The integer nearest to ±m × 2^e, ties to even (R63). -/
def roundInt (neg : Bool) (m : Nat) (e : Int) : Int :=
  let n := if 0 ≤ e then m * 2 ^ e.toNat else
    let sh := (-e).toNat
    let t := m / 2 ^ sh
    if Rnd.rne.up t (m % 2 ^ sh) sh then t + 1 else t
  if neg then -(n : Int) else n

/-- The significands of an S16 block under exponent byte `eb`; none marks a non-finite element (R63). -/
def s16Quant (eb : Nat) (xs : List W32) : List (Option Int) :=
  xs.map fun x => match f32 x with
    | .fin s m e => some (roundInt s m (e + 141 - eb))
    | _ => none

/-- 32 FP32 values as an S16 block: exponent byte, significands, and OF where no byte suffices (R63). -/
def s16Pack (xs : List W32) : Nat × List W16 × Flags :=
  let top : Int := xs.foldl (fun a x => match f32 x with
    | .fin _ m e => if m = 0 then a else max a (Nat.log2 m + e)
    | _ => a) (-1000)
  let eb : Nat := if top = -1000 then 0 else (max 0 (top + 127)).toNat
  let qs := s16Quant eb xs
  let ovf := qs.any fun q => match q with
    | some z => z.natAbs = 32768
    | none => false
  let eb := if ovf then eb + 1 else eb
  let qs := if ovf then s16Quant eb xs else qs
  if 254 < eb then (254, qs.map fun _ => 0x8000, flagOF)
  else (eb, qs.map (fun q => match q with
    | some z => BitVec.ofInt 16 z
    | none => 0x8000), 0)

/-- The FP32 value of an S16 element (R62). -/
def s16Elem (eb : Nat) (q : W16) : W32 :=
  if q = 0x8000 then f32Nan
  else (toF32 (.fin q.msb q.toInt.natAbs ((eb : Int) - 141))).1

/-- Conversion of FP32 to PAIR16: hi and lo (R64). -/
def pairSplit (x : W32) : W16 × W16 × Flags :=
  let (hi, f1) := cvt fmtBF16 .rne x
  let (d, f2) := fSub x (widen fmtBF16 hi)
  let (lo, f3) := cvt fmtBF16 .rne d
  (hi, lo, f1 ||| f2 ||| f3)

end Sys2Proof.Machine
end

