-- ==== Sys2Proof/Machine/Crypto.lean ====
section
/-! DEFINITION. The checksums and the cryptography the manual names: CRC-32C (R323), SipHash-2-4 with 128-bit
output (R346), SHA-256, HMAC-SHA-256 and AES-256 key wrap (R525, R530), SHA-384 and ECDSA P-384 (R485, R530). All
but CRC-32C are written from the published standards the manual cites (log 12). -/

namespace Sys2Proof.Machine

/-- One bit of the reflected CRC-32C. -/
def crcBit (c : W32) : W32 := if c.getLsbD 0 then (c >>> 1) ^^^ 0x82F63B78 else c >>> 1

/-- `n` bits of the CRC. -/
def crcBits : Nat → W32 → W32
  | 0, c => c
  | n + 1, c => crcBits n (crcBit c)

/-- CRC-32C over bytes (R323). -/
def crc32c (bs : List Byte) : W32 :=
  ~~~(bs.foldl (fun c b => crcBits 8 (c ^^^ b.zeroExtend 32)) 0xFFFFFFFF#32)

/-- The state of SipHash. -/
structure Sip where
  v0 : W64
  v1 : W64
  v2 : W64
  v3 : W64

/-- One SipRound. -/
def Sip.round (s : Sip) : Sip :=
  let v0 := s.v0 + s.v1
  let v1 := s.v1.rotateLeft 13 ^^^ v0
  let v0 := v0.rotateLeft 32
  let v2 := s.v2 + s.v3
  let v3 := s.v3.rotateLeft 16 ^^^ v2
  let v0 := v0 + v3
  let v3 := v3.rotateLeft 21 ^^^ v0
  let v2 := v2 + v1
  let v1 := v1.rotateLeft 17 ^^^ v2
  { v0 := v0, v1 := v1, v2 := v2.rotateLeft 32, v3 := v3 }

/-- Absorb one 64-bit word (two rounds). -/
def Sip.absorb (s : Sip) (m : W64) : Sip :=
  let t := { s with v3 := s.v3 ^^^ m }.round.round
  { t with v0 := t.v0 ^^^ m }

/-- Absorb the message's `n` whole words. -/
def Sip.absorbAll : Nat → Sip → List Byte → Sip × List Byte
  | 0, s, bs => (s, bs)
  | n + 1, s, bs => Sip.absorbAll n (s.absorb (BitVec.ofNat 64 (leNat (bs.take 8)))) (bs.drop 8)

def Sip.rounds4 (s : Sip) : Sip := s.round.round.round.round

def Sip.fold (s : Sip) : W64 := s.v0 ^^^ s.v1 ^^^ s.v2 ^^^ s.v3

/-- SipHash-2-4 with 128-bit output, as 16 bytes (R346, R448). -/
def sipHash128 (key : List Byte) (msg : List Byte) : List Byte :=
  let k0 := BitVec.ofNat 64 (leNat (key.take 8))
  let k1 := BitVec.ofNat 64 (leNat ((key.drop 8).take 8))
  let s : Sip := { v0 := k0 ^^^ 0x736f6d6570736575, v1 := k1 ^^^ 0x646f72616e646f6d ^^^ 0xee,
                   v2 := k0 ^^^ 0x6c7967656e657261, v3 := k1 ^^^ 0x7465646279746573 }
  let (s, rest) := Sip.absorbAll (msg.length / 8) s msg
  let s := s.absorb (BitVec.ofNat 64 (leNat rest + msg.length % 256 * 2 ^ 56))
  let s := Sip.rounds4 { s with v2 := s.v2 ^^^ 0xee }
  let t := Sip.rounds4 { s with v1 := s.v1 ^^^ 0xdd }
  leBytes 8 s.fold.toNat ++ leBytes 8 t.fold.toNat

/-- The round constants of SHA-256. -/
def sha256K : List W32 :=
  [0x428a2f98, 0x71374491, 0xb5c0fbcf, 0xe9b5dba5, 0x3956c25b, 0x59f111f1, 0x923f82a4, 0xab1c5ed5] ++
  [0xd807aa98, 0x12835b01, 0x243185be, 0x550c7dc3, 0x72be5d74, 0x80deb1fe, 0x9bdc06a7, 0xc19bf174] ++
  [0xe49b69c1, 0xefbe4786, 0x0fc19dc6, 0x240ca1cc, 0x2de92c6f, 0x4a7484aa, 0x5cb0a9dc, 0x76f988da] ++
  [0x983e5152, 0xa831c66d, 0xb00327c8, 0xbf597fc7, 0xc6e00bf3, 0xd5a79147, 0x06ca6351, 0x14292967] ++
  [0x27b70a85, 0x2e1b2138, 0x4d2c6dfc, 0x53380d13, 0x650a7354, 0x766a0abb, 0x81c2c92e, 0x92722c85] ++
  [0xa2bfe8a1, 0xa81a664b, 0xc24b8b70, 0xc76c51a3, 0xd192e819, 0xd6990624, 0xf40e3585, 0x106aa070] ++
  [0x19a4c116, 0x1e376c08, 0x2748774c, 0x34b0bcb5, 0x391c0cb3, 0x4ed8aa4a, 0x5b9cca4f, 0x682e6ff3] ++
  [0x748f82ee, 0x78a5636f, 0x84c87814, 0x8cc70208, 0x90befffa, 0xa4506ceb, 0xbef9a3f7, 0xc67178f2]

/-- The round constants of SHA-384. -/
def sha384K : List W64 :=
  [0x428a2f98d728ae22, 0x7137449123ef65cd, 0xb5c0fbcfec4d3b2f, 0xe9b5dba58189dbbc, 0x3956c25bf348b538, 0x59f111f1b605d019, 0x923f82a4af194f9b, 0xab1c5ed5da6d8118] ++
  [0xd807aa98a3030242, 0x12835b0145706fbe, 0x243185be4ee4b28c, 0x550c7dc3d5ffb4e2, 0x72be5d74f27b896f, 0x80deb1fe3b1696b1, 0x9bdc06a725c71235, 0xc19bf174cf692694] ++
  [0xe49b69c19ef14ad2, 0xefbe4786384f25e3, 0x0fc19dc68b8cd5b5, 0x240ca1cc77ac9c65, 0x2de92c6f592b0275, 0x4a7484aa6ea6e483, 0x5cb0a9dcbd41fbd4, 0x76f988da831153b5] ++
  [0x983e5152ee66dfab, 0xa831c66d2db43210, 0xb00327c898fb213f, 0xbf597fc7beef0ee4, 0xc6e00bf33da88fc2, 0xd5a79147930aa725, 0x06ca6351e003826f, 0x142929670a0e6e70] ++
  [0x27b70a8546d22ffc, 0x2e1b21385c26c926, 0x4d2c6dfc5ac42aed, 0x53380d139d95b3df, 0x650a73548baf63de, 0x766a0abb3c77b2a8, 0x81c2c92e47edaee6, 0x92722c851482353b] ++
  [0xa2bfe8a14cf10364, 0xa81a664bbc423001, 0xc24b8b70d0f89791, 0xc76c51a30654be30, 0xd192e819d6ef5218, 0xd69906245565a910, 0xf40e35855771202a, 0x106aa07032bbd1b8] ++
  [0x19a4c116b8d2d0c8, 0x1e376c085141ab53, 0x2748774cdf8eeb99, 0x34b0bcb5e19b48a8, 0x391c0cb3c5c95a63, 0x4ed8aa4ae3418acb, 0x5b9cca4f7763e373, 0x682e6ff3d6b2b8a3] ++
  [0x748f82ee5defb2fc, 0x78a5636f43172f60, 0x84c87814a1f0ab72, 0x8cc702081a6439ec, 0x90befffa23631e28, 0xa4506cebde82bde9, 0xbef9a3f7b2c67915, 0xc67178f2e372532b] ++
  [0xca273eceea26619c, 0xd186b8c721c0c207, 0xeada7dd6cde0eb1e, 0xf57d4f7fee6ed178, 0x06f067aa72176fba, 0x0a637dc5a2c898a6, 0x113f9804bef90dae, 0x1b710b35131c471b] ++
  [0x28db77f523047d84, 0x32caab7b40c72493, 0x3c9ebe0a15c9bebc, 0x431d67c49c100d4c, 0x4cc5d4becb3e42b6, 0x597f299cfc657e2a, 0x5fcb6fab3ad6faec, 0x6c44198c4a475817]

/-- The padded message: 1 bit, zeros, the length in bits (FIPS 180-4); `blk` is the block in bytes. -/
def shaPad (blk lenBytes : Nat) (bs : List Byte) : List Byte :=
  let z := (blk - (bs.length + 1 + lenBytes) % blk) % blk
  bs ++ [0x80] ++ List.replicate z 0 ++ beBytes lenBytes (8 * bs.length)

/-- The eight working words of a SHA-2 function. -/
structure Sha (w : Nat) where
  a : BitVec w
  b : BitVec w
  c : BitVec w
  d : BitVec w
  e : BitVec w
  f : BitVec w
  g : BitVec w
  h : BitVec w

/-- What distinguishes SHA-256 from SHA-384: rotations of Σ0, Σ1, σ0, σ1 (the last two with a shift). -/
structure ShaPar where
  S0 : Nat × Nat × Nat
  S1 : Nat × Nat × Nat
  s0 : Nat × Nat × Nat
  s1 : Nat × Nat × Nat

def shaBig {w : Nat} (r : Nat × Nat × Nat) (x : BitVec w) : BitVec w :=
  x.rotateRight r.1 ^^^ x.rotateRight r.2.1 ^^^ x.rotateRight r.2.2

def shaSmall {w : Nat} (r : Nat × Nat × Nat) (x : BitVec w) : BitVec w :=
  x.rotateRight r.1 ^^^ x.rotateRight r.2.1 ^^^ (x >>> r.2.2)

/-- One round. -/
def Sha.round {w : Nat} (p : ShaPar) (s : Sha w) (k m : BitVec w) : Sha w :=
  let t1 := s.h + shaBig p.S1 s.e + ((s.e &&& s.f) ^^^ (~~~s.e &&& s.g)) + k + m
  let t2 := shaBig p.S0 s.a + ((s.a &&& s.b) ^^^ (s.a &&& s.c) ^^^ (s.b &&& s.c))
  { a := t1 + t2, b := s.a, c := s.b, d := s.c, e := s.d + t1, f := s.e, g := s.f, h := s.g }

/-- The rounds over the constants; `ws` holds the next sixteen schedule words. -/
def Sha.rounds {w : Nat} (p : ShaPar) : List (BitVec w) → Sha w → List (BitVec w) → Sha w
  | [], s, _ => s
  | k :: ks, s, ws =>
    let m := ws.headD 0
    let n := shaSmall p.s1 (ws.getD 14 0) + ws.getD 9 0 + shaSmall p.s0 (ws.getD 1 0) + m
    Sha.rounds p ks (s.round p k m) (ws.tail ++ [n])

def Sha.add {w : Nat} (s t : Sha w) : Sha w :=
  { a := s.a + t.a, b := s.b + t.b, c := s.c + t.c, d := s.d + t.d,
    e := s.e + t.e, f := s.f + t.f, g := s.g + t.g, h := s.h + t.h }

/-- The words of a block, big-endian, `n` bytes each. -/
def shaWords (w n : Nat) : Nat → List Byte → List (BitVec w)
  | 0, _ => []
  | k + 1, bs => BitVec.ofNat w (beNat (bs.take n)) :: shaWords w n k (bs.drop n)

/-- The hash over `k` blocks. -/
def Sha.blocks {w : Nat} (p : ShaPar) (ks : List (BitVec w)) (n : Nat) : Nat → Sha w → List Byte → Sha w
  | 0, s, _ => s
  | k + 1, s, bs =>
    Sha.blocks p ks n k (s.add (Sha.rounds p ks s (shaWords w n 16 bs))) (bs.drop (16 * n))

def sha256Par : ShaPar := { S0 := (2, 13, 22), S1 := (6, 11, 25), s0 := (7, 18, 3), s1 := (17, 19, 10) }
def sha384Par : ShaPar := { S0 := (28, 34, 39), S1 := (14, 18, 41), s0 := (1, 8, 7), s1 := (19, 61, 6) }

/-- SHA-256 (FIPS 180-4). -/
def sha256 (bs : List Byte) : List Byte :=
  let m := shaPad 64 8 bs
  let s : Sha 32 := { a := 0x6a09e667, b := 0xbb67ae85, c := 0x3c6ef372, d := 0xa54ff53a,
                      e := 0x510e527f, f := 0x9b05688c, g := 0x1f83d9ab, h := 0x5be0cd19 }
  let s := Sha.blocks sha256Par sha256K 4 (m.length / 64) s m
  [s.a, s.b, s.c, s.d, s.e, s.f, s.g, s.h].flatMap fun x => beBytes 4 x.toNat

/-- SHA-384 (FIPS 180-4). -/
def sha384 (bs : List Byte) : List Byte :=
  let m := shaPad 128 16 bs
  let s : Sha 64 := { a := 0xcbbb9d5dc1059ed8, b := 0x629a292a367cd507, c := 0x9159015a3070dd17, d := 0x152fecd8f70e5939,
                      e := 0x67332667ffc00b31, f := 0x8eb44a8768581511, g := 0xdb0c2e0d64f98fa7, h := 0x47b5481dbefa4fa4 }
  let s := Sha.blocks sha384Par sha384K 8 (m.length / 128) s m
  [s.a, s.b, s.c, s.d, s.e, s.f].flatMap fun x => beBytes 8 x.toNat

/-- HMAC-SHA-256 with a key of at most 64 bytes (FIPS 198-1). -/
def hmac256 (key msg : List Byte) : List Byte :=
  let k := key ++ List.replicate (64 - key.length) 0
  sha256 ((k.map (· ^^^ 0x5C)) ++ sha256 ((k.map (· ^^^ 0x36)) ++ msg))

/-- Doubling in the field of AES. -/
def gfDouble (a : Byte) : Byte := if a.msb then (a <<< 1) ^^^ 0x1B else a <<< 1

/-- The AES S-box and its inverse (FIPS 197, figures 7 and 14): the byte of `a` is byte `a` of the number. -/
def aesSTable : Nat :=
  0x16bb54b00f2d99416842e6bf0d89a18cdf2855cee9871e9b948ed9691198f8e19e1dc186b95735610ef6034866b53e708a8bbd4b1f74dde8c6b4a61c2e2578ba08ae7a65eaf4566ca94ed58d6d37c8e779e4959162acd3c25c2406490a3a32e0db0b5ede14b8ee4688902a22dc4f816073195d643d7ea7c41744975fec130ccdd2f3ff1021dab6bcf5389d928f40a351a89f3c507f02f94585334d43fbaaefd0cf584c4a39becb6a5bb1fc20ed00d153842fe329b3d63b52a05a6e1b1a2c830975b227ebe28012079a059618c323c7041531d871f1e5a534ccf73f362693fdb7c072a49cafa2d4adf04759fa7dc982ca76abd7fe2b670130c56f6bf27b777c63
def aesSInvTable : Nat :=
  0x7d0c2155631469e126d677ba7e042b17619953833cbbebc8b0f52aae4d3be0a0ef9cc9939f7ae52d0d4ab519a97f51605fec8027591012b131c7078833a8dd1ff45acd78fec0db9a2079d2c64b3e56fc1bbe18aa0e62b76f89c5291d711af1476edf751ce837f9e28535ade72274ac9673e6b4f0cecff297eadc674f4111913a6b8a130103bdafc1020f3fca8f1e2cd00645b3b80558e4f70ad3bc8c00abd890849d8da75746155edab9edfd5048706c92b6655dcc5ca4d41698688664f6f87225d18b6d49a25b76b224d92866a12e084ec3fa420b954cee3d23c2a632947b54cbe9dec444438e3487ff2f9b8239e37cfbd7f3819ea340bf38a53630d56a0952
def aesS (a : Byte) : Byte := BitVec.ofNat 8 (aesSTable >>> (8 * a.toNat))
def aesSInv (a : Byte) : Byte := BitVec.ofNat 8 (aesSInvTable >>> (8 * a.toNat))

/-- The words of the AES-256 key schedule, newest first: `n` words more, the next of number `i`. -/
def aesExpand : Nat → Nat → Byte → List (List Byte) → List (List Byte)
  | 0, _, _, ws => ws
  | n + 1, i, rc, ws =>
    let t := ws.headD []
    let old := ws.getD 7 []
    let t' := if i % 8 = 0 then
        match (t.drop 1 ++ t.take 1).map aesS with
        | x :: r => (x ^^^ rc) :: r
        | [] => []
      else if i % 8 = 4 then t.map aesS else t
    aesExpand n (i + 1) (if i % 8 = 0 then gfDouble rc else rc) (List.zipWith (· ^^^ ·) old t' :: ws)

/-- The bytes of a list in groups of `k`, `n` groups. -/
def chunks {α : Type} (k : Nat) : Nat → List α → List (List α)
  | 0, _ => []
  | n + 1, xs => xs.take k :: chunks k n (xs.drop k)

/-- The fifteen round keys of AES-256, last first. -/
def aesKeys (key : List Byte) : List (List Byte) :=
  chunks 16 15 ((aesExpand 52 8 1 (chunks 4 8 key).reverse).flatMap List.reverse) |>.map List.reverse

/-- The products by 9, 11, 13 and 14 in the field of AES. -/
def gfTimes (x : Byte) (k : Nat) : Byte :=
  let x2 := gfDouble x
  let x4 := gfDouble x2
  let x8 := gfDouble x4
  if k = 14 then x8 ^^^ x4 ^^^ x2 else if k = 13 then x8 ^^^ x4 ^^^ x else if k = 11 then x8 ^^^ x2 ^^^ x else x8 ^^^ x

/-- InvMixColumns on one column. -/
def aesUnmix : List Byte → List Byte
  | [a, b, c, d] =>
    let m := gfTimes
    [m a 14 ^^^ m b 11 ^^^ m c 13 ^^^ m d 9, m a 9 ^^^ m b 14 ^^^ m c 11 ^^^ m d 13,
     m a 13 ^^^ m b 9 ^^^ m c 14 ^^^ m d 11, m a 11 ^^^ m b 13 ^^^ m c 9 ^^^ m d 14]
  | xs => xs

/-- InvShiftRows and InvSubBytes. -/
def aesUnshift (s : List Byte) : List Byte :=
  (List.range 16).map fun i => aesSInv (s.getD ((i + 16 - 4 * (i % 4)) % 16) 0)

/-- The rounds of the AES-256 inverse cipher over the keys left. -/
def aesUnround : List (List Byte) → List Byte → List Byte
  | [], s => s
  | [k], s => List.zipWith (· ^^^ ·) (aesUnshift s) k
  | k :: ks, s =>
    aesUnround ks ((chunks 4 4 (List.zipWith (· ^^^ ·) (aesUnshift s) k)).flatMap aesUnmix)

/-- AES-256 decryption of one block (FIPS 197). -/
def aesDecrypt (key blk : List Byte) : List Byte :=
  match aesKeys key with
  | [] => blk
  | k :: ks => aesUnround ks (List.zipWith (· ^^^ ·) blk k)

/-- The `t` last steps of AES key unwrap over `n` blocks (SP 800-38F): A and R, R in order. -/
def kwSteps (key : List Byte) (n : Nat) : Nat → List Byte → List (List Byte) → List Byte × List (List Byte)
  | 0, a, r => (a, r)
  | t + 1, a, r =>
    let x := BitVec.ofNat 64 (beNat a) ^^^ BitVec.ofNat 64 (t + 1)
    let i := t % n
    let b := aesDecrypt key (beBytes 8 x.toNat ++ r.getD i [])
    kwSteps key n t (b.take 8) (r.set i (b.drop 8))

/-- AES-256 key unwrap; none where the check value is wrong (SP 800-38F, KW). -/
def kwUnwrap (key wrapped : List Byte) : Option (List Byte) :=
  let n := wrapped.length / 8 - 1
  let (a, r) := kwSteps key n (6 * n) (wrapped.take 8) (chunks 8 n (wrapped.drop 8))
  if a = List.replicate 8 0xA6 then some r.flatten else none

/-- P-384 (FIPS 186): the field, the order, the constant b, the base point. -/
def ecP : Nat := 2 ^ 384 - 2 ^ 128 - 2 ^ 96 + 2 ^ 32 - 1
def ecN : Nat := 0xffffffffffffffffffffffffffffffffffffffffffffffffc7634d81f4372ddf581a0db248b0a77aecec196accc52973
def ecB : Nat := 0xb3312fa7e23ee7e4988e056be3f82d19181d9c6efe8141120314088f5013875ac656398d8a2ed19d2a85c8edd3ec2aef
def ecGx : Nat := 0xaa87ca22be8b05378eb1c71ef320ad746e1d3b628ba79b9859f741e082542a385502f25dbf55296c3a545e3872760ab7
def ecGy : Nat := 0x3617de4a96262c6f5d9e98bf9292dc29f8f41dbd289a147ce9da3113b5f0b8c00a60b1ce1d7e819d7a431d7c90ea0e5f

/-- x^e mod m over `n` bits of e. -/
def powMod (m : Nat) : Nat → Nat → Nat → Nat
  | 0, _, _ => 1 % m
  | n + 1, x, e => (if e % 2 = 1 then x else 1) * powMod m n (x * x % m) (e / 2) % m

def invMod (m x : Nat) : Nat := powMod m 384 x (m - 2)

/-- Point addition on P-384; none is the point at infinity. -/
def ecAdd (p q : Option (Nat × Nat)) : Option (Nat × Nat) :=
  match p, q with
  | none, q => q
  | p, none => p
  | some (x1, y1), some (x2, y2) =>
    if x1 = x2 ∧ (y1 + y2) % ecP = 0 then none
    else
      let l := if x1 = x2 then (3 * x1 * x1 + (ecP - 3)) * invMod ecP (2 * y1 % ecP) % ecP
        else (y2 + ecP - y1) * invMod ecP ((x2 + ecP - x1) % ecP) % ecP
      let x3 := (l * l + 2 * ecP - x1 - x2) % ecP
      some (x3, (l * (x1 + ecP - x3) + ecP - y1) % ecP)

/-- k times a point over `n` bits of k. -/
def ecMul : Nat → Nat → Option (Nat × Nat) → Option (Nat × Nat)
  | 0, _, _ => none
  | n + 1, k, p => ecAdd (if k % 2 = 1 then p else none) (ecMul n (k / 2) (ecAdd p p))

/-- ECDSA P-384 verification of (r, s) over a 384-bit digest with public key (x, y) (FIPS 186). -/
def ecdsaVerify (x y r s : Nat) (digest : List Byte) : Bool :=
  if x < ecP ∧ y < ecP ∧ y * y % ecP = (x * x * x + (ecP - 3) * x + ecB) % ecP ∧
      0 < r ∧ r < ecN ∧ 0 < s ∧ s < ecN then
    let w := invMod ecN s
    let u1 := beNat digest * w % ecN
    let u2 := r * w % ecN
    match ecAdd (ecMul 384 u1 (some (ecGx, ecGy))) (ecMul 384 u2 (some (x, y))) with
    | some (a, _) => decide (a % ecN = r)
    | none => false
  else false

end Sys2Proof.Machine
end

