-- ==== Sys2Proof/Machine/Kill.lean ====
section
/-! DEFINITION. What a kill does to a Vat, its Cellar, its Wagon and its windows (R102, R157, R224, R269, R424,
R425); shared by PART_KILL, the partition core reset and the larger resets. -/

namespace Sys2Proof.Machine

/-- Registers of the file in `[lo, hi)` back to their reset values, staged and applied. -/
def State.resetRegs (s : State) (lo hi : Nat) : State :=
  { s with regs := Tab.clear lo hi s.regs, live := Tab.clear lo hi s.live }

/-- A record of context state codes (R115). -/
def csEmpty : Nat := 0
def csReady : Nat := 1
def csRun : Nat := 2
def csWait : Nat := 3
def csPaused : Nat := 4
def csHalted : Nat := 5
def csError : Nat := 6
def csFaulted : Nat := 7

/-- The state of a context. -/
def State.cst (s : State) (v c : Nat) : Nat := s.get (.VAT_CTX_STATUS v c) VAT_CTX_STATUS.STATE

/-- Set the state of a context; WAIT_ON is 0 outside WAIT. -/
def State.setCst (s : State) (v c st : Nat) (waitOn : Nat := 0) : State :=
  (s.put (.VAT_CTX_STATUS v c) VAT_CTX_STATUS.STATE st).put (.VAT_CTX_STATUS v c) VAT_CTX_STATUS.WAIT_ON waitOn

/-- VAT_STATUS.STATE codes (R105). -/
def vsOff : Nat := 0
def vsIdle : Nat := 1
def vsRun : Nat := 2
def vsStall : Nat := 3
def vsFaulted : Nat := 5
def vsScrub : Nat := 6

def State.vst (s : State) (v : Nat) : Nat := s.get (.VAT_STATUS v) VAT_STATUS.STATE
def State.setVst (s : State) (v n : Nat) : State := s.put (.VAT_STATUS v) VAT_STATUS.STATE n

/-- The Curd slots of a Vat read as +0 (R102). -/
def State.clearCurd (s : State) (v : Nat) : State :=
  { s with curd := Tab.clear (v * 0x100000) ((v + 1) * 0x100000) s.curd }

/-- The program buffer of a Vat is zeroed (R157). -/
def State.clearProg (s : State) (v : Nat) : State :=
  { s with prog := Tab.clear (v * 0x4000) ((v + 1) * 0x4000) s.prog }

/-- Reset the generators of all contexts to gen_seed(0, j) (R102). -/
def State.clearGens (s : State) (v : Nat) : State :=
  s.resetRegs ((Reg.VAT_CTX_GEN v 0 0 0).off) ((Reg.VAT_CTX_GEN v 4 0 0).off)

/-- The Vat's part of a kill: staging, Curd slots and Mould DIRTY, flags cleared, generators reset, zeroing begun
(R101, R102). -/
def State.killVat (s : State) (v : Nat) : State :=
  let s := (s.clearCurd v).clearGens v
  let s := s.wr (.VAT_FLAGS v) 0
  let s := s.put (.VAT_STATUS v) VAT_STATUS.CTX_VALID 0
  let s := s.setVst v vsScrub
  s.setVat v { zeroing := true, killed := (s.vat v).killed }

/-- The contexts' part of a kill, in the zeroing time: EMPTY, loop stacks, kept markers, resume records and
parameter slots cleared, the program buffer zeroed (R157). The region and PRIO stay. -/
def State.zeroCtx (s : State) (v c : Nat) : State :=
  let s := s.wr (.VAT_CTX_STATUS v c) 0
  let s := s.put (.VAT_CTX_CTRL v c) VAT_CTX_CTRL.PAUSE 0
  let s := s.resetRegs (Reg.VAT_CTX_RESUME v c).off (Reg.VAT_CTX_KEPT v c).off
  let s := s.wr (.VAT_CTX_KEPT v c) 0
  s.resetRegs (Reg.VAT_CTX_RSLOT v c 0).off (Reg.VAT_CTX_PS v c 64).off

def State.zeroCtxs (s : State) (v : Nat) : State :=
  ([0, 1, 2, 3].foldl (fun s c => s.zeroCtx v c) s).clearProg v

/-- The rows of the groups `gs` become DIRTY and the scrub starts (R224, R225). -/
def State.dirtyGroups (s : State) (v : Nat) (gs : List Nat) : State :=
  if gs.isEmpty then s else
  let banks := gs.flatMap fun g => (List.range 32).map (32 * g + ·)
  (banks.foldl (fun s b => s.makeDirty v b) s).put (.CELLAR_STATUS v) CELLAR_STATUS.SCRUB_BUSY 1

/-- The groups of the Cellar of `v` that its partition owns and that hold contents. -/
def State.ownedGroups (s : State) (v : Nat) : List Nat :=
  [0, 1, 2, 3].filter fun g => s.owned v g && s.gs v g ≠ gsOff

/-- The Wagon's part of a kill: queues emptied with no record, pairs zeroed, STOPPED cleared; the groups of the Vat
discard writes while tags are out (R269). -/
def State.killWagon (s : State) (v : Nat) : State :=
  let s := (List.range 64).foldl (fun s i =>
    let s := s.setStream v i { deadline := (s.stream v i).deadline }
    let s := s.put (.WAGON_STREAM_STAT v i) WAGON_STREAM_STAT.ERR 0
    s.put (.WAGON_STREAM_STAT v i) WAGON_STREAM_STAT.DIDX 0) s
  let s := s.resetRegs (Reg.VAT_SEM_FULL v 0).off (Reg.VAT_SEM_FULL v 64).off
  let s := { s with claims := s.claims.filter fun c => match c.holder with
    | .desc w _ _ => w ≠ v
    | _ => true }
  s

/-- Whether any tag of the Wagons of `vs` is out. -/
def State.tagsOut (s : State) (vs : List Nat) : Bool :=
  s.tags.any fun t => match t.owner with
    | some (v, _, _) => vs.contains v
    | none => false

/-- Close a window at once (R424). -/
def State.closeWindow (s : State) (v w : Nat) : State :=
  (s.put (.THR_WIN_A v w) THR_WIN_A.STATE 0).release (.window v w)

/-- Whether a window covers a row of group `g`. -/
def State.windowIn (s : State) (v w g : Nat) : Bool :=
  let base := s.get (.THR_WIN_A v w) THR_WIN_A.BASE
  let len := s.get (.THR_WIN_A v w) THR_WIN_A.LEN
  decide (base < (g + 1) * 32768 ∧ g * 32768 < base + len)

/-- Close at once every window of `v` that is not CLOSED and for which `f` holds. -/
def State.closeWindows (s : State) (v : Nat) (f : Nat → Bool) : State :=
  (List.range 256).foldl (fun s w =>
    if s.get (.THR_WIN_A v w) THR_WIN_A.STATE ≠ 0 && f w then s.closeWindow v w else s) s

/-- A kill of the Vats `vs` of one partition: Vats, Cellar groups, Wagons, windows, arrival counters (R534). -/
def State.killVats (s : State) (vs : List Nat) : State :=
  let s := vs.foldl (fun s v =>
    let s := (s.killVat v).killWagon v
    let s := s.closeWindows v fun _ => true
    let s := s.resetRegs (Reg.VAT_ARRIVAL v 0).off (Reg.VAT_ARRIVAL v 256).off
    s.dirtyGroups v (s.ownedGroups v)) s
  if s.tagsOut vs then vs.foldl (fun s v => s.setVat v { s.vat v with killed := true }) s else s

/-- A tag of a killed partition has come back: once none is out, its groups take writes again (R269). -/
def State.killSettle (s : State) (p : Nat) : State :=
  let vs := s.vatsOf p
  if s.tagsOut vs then s else vs.foldl (fun s v => s.setVat v { s.vat v with killed := false }) s

end Sys2Proof.Machine
end

