-- ==== Sys2Proof/Machine/Pfx.lean ====
section
/-! DEFINITION. The prefix store of a serving group: hashes, lookups, insertions, evictions (R343-R350). The index
and the data pool are bytes of module memory. -/

namespace Sys2Proof.Machine

/-- Entry states (R345). -/
def peFree : Nat := 0
def peFilling : Nat := 1
def peValid : Nat := 2
def peEvicting : Nat := 3

/-- No parent: block 0 (R345). -/
def peNone : Nat := 0xFFFFFFFF

/-- Entries of the group's index; 0 where it has no store (R369). -/
def State.pfxN (s : State) (g : Nat) : Nat :=
  let l := s.get (.PFX_GROUP_IDX g) PFX_GROUP_IDX.ENTRIES_LOG2
  if l = 0 then 0 else 2 ^ l
def State.pfxEnt (s : State) (g i : Nat) : Nat := s.get (.PFX_GROUP_IDX g) PFX_GROUP_IDX.INDEX_BASE * 4096 + 64 * i

/-- A field of entry `i`: offset and length in bytes. -/
def State.pfxGet (s : State) (g i o n : Nat) : Nat := s.num (s.pfxEnt g i + o) n
def State.pfxSet (s : State) (g i o n x : Nat) : State := s.store (s.pfxEnt g i + o) (leBytes n x)

def State.pfxState (s : State) (g i : Nat) : Nat := s.pfxGet g i 20 1
def State.pfxParent (s : State) (g i : Nat) : Nat := s.pfxGet g i 16 4
def State.pfxTenant (s : State) (g i : Nat) : Nat := s.pfxGet g i 21 1
def State.pfxRefs (s : State) (g i : Nat) : Nat := s.pfxGet g i 24 4
def State.pfxKids (s : State) (g i : Nat) : Nat := s.pfxGet g i 28 4
def State.pfxData (s : State) (g i : Nat) : Nat := s.pfxGet g i 32 8
def State.pfxUsed (s : State) (g i : Nat) : Nat := s.pfxGet g i 40 8
def State.pfxGen (s : State) (g i : Nat) : Nat := s.pfxGet g i 52 4

/-- The GEN of a tenant slot (R372). -/
def State.tenantGen (s : State) (t : Nat) : Nat := s.get (.PFX_TENANT_GEN t) PFX_TENANT_GEN.GEN
/-- The tenant slot of a function (R344). -/
def State.tenantOf (s : State) (f : Nat) : Nat := s.get (.PFX_FUNC_CFG f) PFX_FUNC_CFG.TENANT
/-- The 16 bytes of a tenant key, in order. -/
def State.tenantKey (s : State) (t : Nat) : List Byte := leBytes 16 (Tab.get zero128 s.tenant t).toNat

/-- The hash of one block of 64 token ids behind the hash `prev` (R343). -/
def blockHash (key prev : List Byte) (toks : List Nat) (variant : Nat) : List Byte :=
  sipHash128 key (prev ++ toks.flatMap (leBytes 4) ++ leBytes 2 variant)

/-- The first entry of the bucket of a hash (R345). -/
def State.bucket (s : State) (g : Nat) (h : List Byte) : Nat := leNat (h.take 4) % (s.pfxN g / 8) * 8

/-- Whether entry `i` is this block's, whatever its token ids. -/
def State.pfxIs (s : State) (g i tenant variant parent : Nat) (h : List Byte) : Bool :=
  s.bytes (s.pfxEnt g i) 16 = h && s.pfxTenant g i = tenant && s.pfxGet g i 22 2 = variant &&
    s.pfxParent g i = parent && s.pfxGen g i = s.tenantGen tenant

/-- The entry in the given states that is this block's. -/
def State.pfxFind (s : State) (g tenant variant parent : Nat) (h : List Byte) (sts : List Nat) : Option Nat :=
  if s.pfxN g < 8 then none else
  (List.range 8).map (s.bucket g h + ·) |>.find? fun i =>
    sts.contains (s.pfxState g i) && s.pfxIs g i tenant variant parent h

/-- Whether the block's token ids are those of the data block (R346). -/
def State.pfxIdsMatch (s : State) (g i : Nat) (toks : List Nat) : Bool :=
  s.bytes (s.pfxData g i) 256 = toks.flatMap (leBytes 4)

/-- The 64 token ids of block `i` of a prompt. -/
def blockToks (prompt : List Nat) (i : Nat) : List Nat := (prompt.drop (64 * i)).take 64

/-- A hit: REFS and LAST_USE_NS (R347). -/
def State.pfxHit (s : State) (g i : Nat) : State :=
  (((s.pfxSet g i 24 4 (s.pfxRefs g i + 1)).pfxSet g i 40 8 s.now.toNat).bump .PFX_STAT PFX_STAT.HITS).perfs puGlb 0x07 [0] 1

/-- Look up blocks `i`, `i + 1`, … up to the first miss, at most `n` of them: the entries hit (R347). -/
def State.pfxLookup (s : State) (g tenant variant : Nat) (prompt : List Nat) :
    Nat → Nat → List Byte → Nat → List Nat × State
  | 0, _, _, _ => ([], s)
  | n + 1, i, prev, parent =>
    let toks := blockToks prompt i
    let h := blockHash (s.tenantKey tenant) prev toks variant
    let s := (s.bump .PFX_STAT PFX_STAT.LOOKUPS).perfs puGlb 0x06 [0] 1
    match s.pfxFind g tenant variant parent h [peValid] with
    | none => ([], s)
    | some e =>
      if s.pfxIdsMatch g e toks then
        let (es, t) := State.pfxLookup (s.pfxHit g e) g tenant variant prompt n (i + 1) h e
        (e :: es, t)
      else ([], s.bump .PFX_STAT PFX_STAT.ID_MISMATCH)

/-- An entry becomes FREE and its parent has one child fewer (R349). -/
def State.pfxFree (s : State) (g i : Nat) : State :=
  let p := s.pfxParent g i
  let s := s.store (s.pfxEnt g i) (List.replicate 64 0)
  if p < s.pfxN g && s.pfxState g p ≠ peFree then s.pfxSet g p 28 4 (s.pfxKids g p - 1) else s

/-- A request that used the block ends: an entry hashed under an old key is freed with its last use (R344, R347). -/
def State.pfxRelease (s : State) (g i : Nat) : State :=
  let s := s.pfxSet g i 24 4 (s.pfxRefs g i - 1)
  if s.pfxRefs g i = 0 && s.pfxGen g i ≠ s.tenantGen (s.pfxTenant g i) then s.pfxFree g i else s

/-- The entry to evict among `es`: VALID, unused, childless, least recently used (R349). -/
def State.pfxVictim (s : State) (g : Nat) (es : List Nat) : Option Nat :=
  es.foldl (fun best i =>
    if s.pfxState g i = peValid && s.pfxRefs g i = 0 && s.pfxKids g i = 0 then
      match best with
      | some b => if s.pfxUsed g i < s.pfxUsed g b then some i else best
      | none => some i
    else best) none

/-- A FREE entry of the bucket, evicting one where there is none. -/
def State.pfxEntry (s : State) (g b : Nat) : Option Nat × State :=
  let es := (List.range 8).map (b + ·)
  match es.find? fun i => s.pfxState g i = peFree with
  | some i => (some i, s)
  | none => match s.pfxVictim g es with
    | some i => (some i, s.pfxFree g i)
    | none => (none, s)

/-- The data blocks in use. -/
def State.pfxBlocks (s : State) (g : Nat) : List Nat :=
  ((List.range (s.pfxN g)).filter fun i => s.pfxState g i ≠ peFree).map (s.pfxData g)

/-- The size of a data block in bytes, and a free one. -/
def State.blockBytes (s : State) (g : Nat) : Nat := s.get (.PFX_GROUP_IDX g) PFX_GROUP_IDX.BLOCK_KIB * 1024
def State.pfxFreeBlock (s : State) (g : Nat) : Option Nat :=
  let used := s.pfxBlocks g
  ((List.range (s.get (.PFX_GROUP_POOL g) PFX_GROUP_POOL.POOL_BLOCKS)).map fun k =>
    s.get (.PFX_GROUP_POOL g) PFX_GROUP_POOL.POOL_BASE * 4096 + k * s.blockBytes g).find? fun a => !used.contains a

/-- A free data block, evicting anywhere in the store where there is none (R349). -/
def State.pfxBlock (s : State) (g : Nat) : Option Nat × State :=
  match s.pfxFreeBlock g with
  | some a => (some a, s)
  | none => match s.pfxVictim g (List.range (s.pfxN g)) with
    | some i => let s := s.pfxFree g i; (s.pfxFreeBlock g, s)
    | none => (none, s)

/-- Begin inserting block `i` (R348): its entry, FILLING; none where there is no room. -/
def State.pfxInsert (s : State) (g p tenant variant parent i : Nat) (h : List Byte) (toks : List Nat) : Option Nat × State :=
  let kids := fun (s : State) (up : Bool) =>
    if parent < s.pfxN g then s.pfxSet g parent 28 4 (if up then s.pfxKids g parent + 1 else s.pfxKids g parent - 1) else s
  let fail := fun (s : State) => (none, (kids s false).bump .PFX_SPILL_STAT PFX_SPILL_STAT.NOT_INSERTED)
  let (e, t) := (kids s true).pfxEntry g (s.bucket g h)
  match e with
  | none => fail t
  | some e =>
    let (a, t) := t.pfxBlock g
    match a with
    | none => fail t
    | some a =>
      let bytes := h ++ leBytes 4 parent ++ [BitVec.ofNat 8 peFilling, BitVec.ofNat 8 tenant] ++ leBytes 2 variant ++
        leBytes 4 0 ++ leBytes 4 0 ++ leBytes 8 a ++ leBytes 8 t.now.toNat ++ leBytes 4 i ++
        leBytes 4 (t.tenantGen tenant) ++ leBytes 8 0
      let t := (t.store (t.pfxEnt g e) bytes).store a (toks.flatMap (leBytes 4))
      (some e, { t with fills := t.fills ++ [(g, e, p)] })

/-- After a commit: walk blocks `i`, `i + 1`, … and insert those from block `new` on that have no matching entry, one with
the same token ids (R346, R348). -/
def State.pfxInserts (s : State) (g p tenant variant new : Nat) (prompt : List Nat) :
    Nat → Nat → List Byte → Nat → State
  | 0, _, _, _ => s
  | n + 1, i, prev, parent =>
    let toks := blockToks prompt i
    let h := blockHash (s.tenantKey tenant) prev toks variant
    match (s.pfxFind g tenant variant parent h [peFilling, peValid]).filter fun e => s.pfxIdsMatch g e toks with
    | some e => State.pfxInserts s g p tenant variant new prompt n (i + 1) h e
    | none =>
      if i < new || s.pfxN g < 8 then s else
      match s.pfxInsert g p tenant variant parent i h toks with
      | (some e, t) => State.pfxInserts t g p tenant variant new prompt n (i + 1) h e
      | (none, t) => t

/-- PFX_INSERT_DONE: the copied cache stands in the data block and the entry is VALID (R348); Reeve is interrupted (R305). -/
def State.pfxDone (s : State) (g i : Nat) (cache : List Byte) : State :=
  if s.fills.any (fun x => x.1 = g && x.2.1 = i) && s.pfxState g i = peFilling then
    let s := s.store (s.pfxData g i + 256) (cache.take (s.blockBytes g - 256))
    { s.pfxSet g i 20 1 peValid with fills := s.fills.filter fun x => !(x.1 = g && x.2.1 = i) }.emit (.reeveIrq clsPfx g)
  else s

def execPfxInsertDone (g : Fin 16) (i : Nat) (cache : List Byte) (s : State) : Host.Outcome State Fault Refusal :=
  .next (s.pfxDone g i cache)

/-- A kill abandons the partition's insertions (R350). -/
def State.pfxKill (s : State) (p : Nat) : State :=
  let mine := s.fills.filter fun x => x.2.2 = p
  mine.reverse.foldl (fun s x => s.pfxFree x.1 x.2.1) { s with fills := s.fills.filter fun x => x.2.2 ≠ p }

/-- A key change of a tenant slot: entries of the old key go with their last use (R344). -/
def State.pfxRekey (s : State) (t : Nat) : State :=
  (List.range 16).foldl (fun s g => (List.range (s.pfxN g)).foldl (fun s i =>
    if s.pfxState g i ≠ peFree && s.pfxTenant g i = t && s.pfxGen g i ≠ s.tenantGen t && s.pfxRefs g i = 0 then
      { s.pfxFree g i with fills := s.fills.filter fun x => !(x.1 = g && x.2.1 = i) }
    else s) s) s

end Sys2Proof.Machine
end

