-- ==== Sys2Proof/Machine/ReqTable.lean ====
section
/-! DEFINITION. Reeve's request table (R282-R290, R294, R295): the descriptor's fields, the status word, the result
area, completion words, and the end of a request with what it frees. -/

namespace Sys2Proof.Machine

/-! States of R285. -/
def qsQueued : Nat := 0
def qsPrefill : Nat := 1
def qsTail : Nat := 2
def qsExporting : Nat := 3
def qsPaused : Nat := 4
def qsDone : Nat := 5
def qsCancelled : Nat := 6
def qsFailed : Nat := 7

/-- The field of `n` bytes at byte `o` of a descriptor (R282). -/
def dfield (b : List Byte) (o n : Nat) : Nat := leNat ((b.drop o).take n)

def ReqX.fld (x : ReqX) (o n : Nat) : Nat := dfield x.desc o n
def ReqX.flag (x : ReqX) (k : Nat) : Bool := x.fld 1 1 / 2 ^ k % 2 = 1
def ReqX.noPack (x : ReqX) : Bool := x.flag 0
def ReqX.logits (x : ReqX) : Bool := x.flag 1
def ReqX.spec (x : ReqX) : Bool := x.flag 2
def ReqX.prefix_ (x : ReqX) : Bool := x.flag 3
def ReqX.notify (x : ReqX) : Bool := x.flag 4
def ReqX.tag (x : ReqX) : Nat := x.fld 4 4
def ReqX.statusAddr (x : ReqX) : Nat := x.fld 8 8
def ReqX.promptLen (x : ReqX) : Nat := x.fld 24 4
def ReqX.variant (x : ReqX) : Nat := x.fld 28 2
def ReqX.emit (x : ReqX) : Nat := x.fld 30 2
def ReqX.budget (x : ReqX) : Nat := x.fld 32 2
/-- The KVX destination (R329); none for 0xFFFF. -/
def ReqX.dest (x : ReqX) : Option Nat := if x.fld 34 2 = 0xFFFF then none else some (x.fld 34 2)
/-- The Sheaf definition (R465); none for 0xFFFF. -/
def ReqX.sheaf (x : ReqX) : Option Nat := if x.fld 36 2 = 0xFFFF then none else some (x.fld 36 2)
def ReqX.member (x : ReqX) : Nat := x.fld 38 1
def ReqX.resultAddr (x : ReqX) : Nat := x.fld 40 8
def ReqX.temp (x : ReqX) : W32 := BitVec.ofNat 32 (x.fld 48 4)
def ReqX.topp (x : ReqX) : W32 := BitVec.ofNat 32 (x.fld 52 4)
def ReqX.topk (x : ReqX) : Nat := x.fld 56 1
def ReqX.maskKind (x : ReqX) : Nat := x.fld 57 1
def ReqX.grammar (x : ReqX) : Nat := x.fld 58 2
def ReqX.seed (x : ReqX) : W64 := BitVec.ofNat 64 (x.fld 64 8)

/-- States 0-4 are live, 5-7 final (R284, R288). -/
def ReqX.live (x : ReqX) : Bool := x.used && x.st ≤ qsPaused
def ReqX.final (x : ReqX) : Bool := x.used && qsDone ≤ x.st

def State.req (s : State) (i : Nat) : ReqX := Tab.get (fun _ => {}) s.reqs i
def State.setReq (s : State) (i : Nat) (x : ReqX) : State := { s with reqs := Tab.set (fun _ => {}) s.reqs i x }

/-- The entries of live requests, in order. -/
def State.liveReqs (s : State) : List Nat := (s.reqs.filter fun (p : Nat × ReqX) => p.2.live).map Prod.fst

/-- The handle of entry `i` (R284). -/
def handleOf (i : Nat) (x : ReqX) : Nat := x.func * 2 ^ 26 + x.gen % 2 ^ 14 * 2 ^ 12 + i

/-! Host memory as the firmware writes it. -/

/-- The status word (R285). -/
def ReqX.word (x : ReqX) : Nat := x.st * 2 ^ 60 + x.err * 2 ^ 52 + x.layer % 2 ^ 20 * 2 ^ 32 + x.tokens % 2 ^ 32

/-- Write the status word (R286); nothing is written for a function under reset (R578). -/
def State.writeStatus (s : State) (i : Nat) : State :=
  let x := s.req i
  let s := if x.shown = x.layer then s else s.setReq i { x with shown := x.layer }
  if x.mute then s else s.hostOut x.statusAddr (leBytes 8 x.word)

/-- Write bytes of the result area (R287). -/
def State.writeResult (s : State) (i o : Nat) (bs : List Byte) : State :=
  let x := s.req i
  if x.mute then s else s.hostOut (x.resultAddr + o) bs

/-- The counts of the result area (R287): EMITTED, PAGES_SENT, PAGES_ACKED. -/
def State.writeCounts (s : State) (i : Nat) : State :=
  let x := s.req i
  s.writeResult i 4 (leBytes 4 x.ids.length ++ leBytes 4 x.sent ++ leBytes 4 x.acked)

/-- A completion word (R281): the STATE, the result, the time base. -/
def State.complete (s : State) (addr st res : Nat) : State :=
  s.hostOut addr (leBytes 8 (st * 2 ^ 60 + res * 2 ^ 52 + s.now.toNat % 2 ^ 52))

/-- Enter a state with its ERR and write it; NOTIFY interrupts at TAIL and at a final state (R288, R305). -/
def State.setSt (s : State) (i st err : Nat) : State :=
  let x := s.req i
  let s := (s.setReq i { x with st := st, err := err }).writeStatus i
  if x.notify && !x.mute && (st = qsTail || qsDone ≤ st) then s.raiseMsi x.func 0 else s

/-! Export records (R325, R341). -/

def State.dest (s : State) (d : Nat) : DestX := Tab.get (fun _ => {}) s.dests d
def State.setDest (s : State) (d : Nat) (x : DestX) : State := { s with dests := Tab.set (fun _ => {}) s.dests d x }

/-- Whether the head of a destination waits for credit (R331). -/
def State.needsCredit (s : State) (d : Nat) : Bool :=
  let cfg := Reg.KVX_DEST_CFG d
  s.get cfg KVX_DEST_CFG.ENABLE = 1 && s.get cfg KVX_DEST_CFG.DOWN = 0 && !(s.dest d).queue.isEmpty &&
    (s.rd (.KVX_DEST_CREDIT d)).toNat + 2 ^ s.get cfg KVX_DEST_CFG.SLOTS_LOG2 ≤ (s.rd (.KVX_DEST_SEQ d)).toNat

/-- After any change of a queue or of credit: a head that begins to wait is a stall (R331), and the credit timeout runs
from there (R333). -/
def State.kvxWait (s : State) (d : Nat) : State :=
  let x := s.dest d
  if s.needsCredit d then
    if x.waiting then s
    else (s.setDest d { x with waiting := true, since := s.now.toNat }).bump (.KVX_DEST_STAT d) KVX_DEST_STAT.STALLS
        |>.perfs puGlb 0x05 [0] 1
  else if x.waiting then s.setDest d { x with waiting := false } else s

/-- Queue records at a destination. -/
def State.kvxQueue (s : State) (d : Nat) (rs : List Rec) : State :=
  let x := s.dest d
  (s.setDest d { x with queue := x.queue ++ rs }).kvxWait d

/-- A record of the request in entry `i`. -/
def State.newRec (s : State) (i kind : Nat) : Rec :=
  let x := s.req i
  { req := i, handle := handleOf i x, tag := x.tag, kind := kind, variant := x.variant, seed := x.seed }

/-- Records that have not started leave a queue; whatever is then at the head begins its own wait (R331). -/
def State.kvxDrop (s : State) (d : Nat) (keep : Rec → Bool) : State :=
  let y := s.dest d
  let queue := y.queue.filter keep
  (s.setDest d { y with queue := queue, waiting := y.waiting && queue.head? = y.queue.head? }).kvxWait d

/-- The records of a request that have not started are removed; where a page has been sent, a CANCEL marker follows
it (R290, R341). -/
def State.kvxPurge (s : State) (i : Nat) : State :=
  let x := s.req i
  match x.dest with
  | none => s
  | some d =>
    let h := handleOf i x
    let s := s.kvxDrop d fun (r : Rec) => r.handle ≠ h
    if x.sent = 0 then s else s.kvxQueue d [{ s.newRec i 2 with total := x.sent }]

/-- A run of a request that begins again: its queued pages that have not started go, those from position `a` on (R342). -/
def State.kvxRebuild (s : State) (i a : Nat) : State :=
  let x := s.req i
  match x.dest with
  | none => s
  | some d => s.kvxDrop d fun (r : Rec) => r.handle ≠ handleOf i x || r.kind ≠ 0 || r.first < a

/-! The end of a request. -/

/-- It leaves the passes it is a member of; a pass with no member left ends. -/
def State.leavePass (s : State) (i : Nat) : State :=
  let drop := fun (p : Pass) => { p with members := p.members.filter (fun m => m.1 ≠ i) }
  { s with passes := (s.passes.map drop).filter (fun p => !p.members.isEmpty) }

/-- A request that is a Sheaf member stops its operation without a message (R464). -/
def State.leaveSheaf (s : State) (i : Nat) : State :=
  { s with ops := s.ops.filter (fun (o : ShOp) => o.req ≠ some i)
           launches := s.launches.filter (fun (l : Launch) => l.req ≠ some i) }

/-- What a request holds is freed: prefix hits (R347), its pass, its tail step with its staging, its save area and spill
record (R295), the draft model's cache (R388). -/
def State.reqFree (s : State) (i : Nat) : State :=
  let x := s.req i
  let s := x.hits.foldl (fun s e => s.pfxRelease x.group e) s
  let s := (s.leavePass i).leaveSheaf i
  s.setReq i { x with hits := [], step := none, spill := none, restoring := false, prompt := [], mask := [], save := none, draftPos := 0 }

/-- The completion of a pause that was pending (R297), with the result that the request ends with (R295, R286). -/
def State.dropWant (s : State) (i st err : Nat) : State :=
  let x := s.req i
  let s := s.setReq i { x with want := none }
  match x.want with
  | some { cpl := some a } => if x.mute then s else s.complete a st err
  | _ => s

/-- A request reaches a final state (R288, R290, R294): DONE, CANCELLED or FAILED. -/
def State.reqEnd (s : State) (i st err : Nat) : State :=
  let s := if st = qsDone then s else s.kvxPurge i
  let s := (s.reqFree i).dropWant i st (if st = qsDone then eCfgLocked else err)
  let s := s.setReq i { s.req i with finish := s.order }
  { s with order := s.order + 1 }.setSt i st err

/-- A live request fails. -/
def State.reqFail (s : State) (i err : Nat) : State :=
  if (s.req i).live then s.reqEnd i qsFailed err else s

/-- CANCEL takes the entry lock: its effect on the table and its result (R294, R295). -/
def State.reqCancel (s : State) (i : Nat) : State × Nat :=
  let x := s.req i
  if x.st = qsCancelled then (s, eCancelled)
  else if x.st = qsFailed then (s, x.err)
  else if x.st = qsDone then (s, eAlreadyComplete)
  else if x.st = qsExporting then (if x.err = eAlreadyComplete then s else s.setSt i qsExporting eAlreadyComplete, eAlreadyComplete)
  else (s.reqEnd i qsCancelled eCancelled, eOk)

/-- The live requests of a partition. -/
def State.reqsOf (s : State) (p : Nat) : List Nat := s.liveReqs.filter fun i => (s.req i).part = p

/-- Every live request of a partition fails (R495). -/
def State.failPart (s : State) (p err : Nat) : State := (s.reqsOf p).foldl (fun s i => s.reqFail i err) s

/-- Every live request of a partition that has no commit record ends CANCELLED (R534). -/
def State.cancelPart (s : State) (p : Nat) : State :=
  ((s.reqsOf p).filter fun i => (s.req i).st ≠ qsExporting).foldl (fun s i => (s.reqCancel i).1) s

end Sys2Proof.Machine
end

