-- ==== Sys2Proof/Machine/PartReset.lean ====
section
/-! DEFINITION. The PART section of a layout as it is applied (R489), and the partition core reset (R495): also what
a full error log gives the partition an error names (R523). -/

namespace Sys2Proof.Machine

/-- RST_PART_LAST (R504). -/
def State.partLast (s : State) (p reason : Nat) : State :=
  let w := RST_PART_LAST.PART.put 0 p
  let w := RST_PART_LAST.REASON.put w reason
  s.wr .RST_PART_LAST (RST_PART_LAST.VALID.put w 1)

/-- The logical Vats a PART section names (R488). -/
def PartSec.vatList (x : PartSec) : List Nat := (List.range 16).filter fun v => x.vats / 2 ^ v % 2 = 1

/-- Group `g` of the Cellar of `v`: owned, it is ON, and where it was not, its rows are DIRTY and the scrub runs
(R225, R489); not owned, it is OFF. -/
def State.applyGroup (s : State) (v g : Nat) (own : Bool) : State :=
  let was := s.owned v g && s.gs v g = gsOn
  let s := s.put (.CELLAR_GROUP_CTRL v) (ownedFld g) own.toNat
  let s := s.put (.CELLAR_GROUP_CTRL v) (pwrFld g) own.toNat
  if own && was then s
  else if own then (s.setGs v g gsOn).dirtyGroups v [g]
  else s.setGs v g gsOff

/-- R111: shares of at most 16 in all. -/
def curdOk (w : W64) : Bool :=
  VAT_CURD_SPLIT.SHARE0.get w + VAT_CURD_SPLIT.SHARE1.get w + VAT_CURD_SPLIT.SHARE2.get w + VAT_CURD_SPLIT.SHARE3.get w ≤ 16

/-- One Vat of a partition takes the section's values. -/
def State.applyVat (s : State) (p : Nat) (x : PartSec) (v : Nat) : State :=
  let s := s.put .GLB_VAT_PART (mapPart v) p
  let s := s.put (.VAT_STATUS v) VAT_STATUS.PART p
  let s := s.put (.VAT_STATUS v) VAT_STATUS.CLK_CLASS x.cls
  let s := s.put (.VAT_STATUS v) VAT_STATUS.STREAM_MODE x.strict.toNat
  let s := s.put (.VAT_CHK_CTRL v) VAT_CHK_CTRL.POLICY x.chk
  let s := if curdOk x.curd then s.load (.VAT_CURD_SPLIT v) x.curd else s
  let s := if s.vst v = vsOff then s.setVst v vsIdle else s
  [0, 1, 2, 3].foldl (fun s g => s.applyGroup v g (x.groups / 2 ^ (4 * v + g) % 2 = 1)) s

/-- Function `f` may name partition `p`, or not (R314). -/
def partsFld (p : Nat) : Fld := { hi := 10 + p, lo := 10 + p, ty := .ro, reset := 0 }

/-- The PART section of partition `p` (R488, R489). -/
def State.applyPart (s : State) (p : Nat) (x : PartSec) : State :=
  let s := (x.vatList.filter s.valid).foldl (fun s v => s.applyVat p x v) s
  let s := s.put (.REEVE_PART_CFG p) REEVE_PART_CFG.DUTY_ALLOWED x.allowed
  let s := s.put (.REEVE_PART_CFG p) REEVE_PART_CFG.DUTY x.duty
  let s := s.put (.REEVE_PART_LAYOUT p) REEVE_PART_LAYOUT.GROUP x.group
  let grp := (s.groupSec x.group).getD {}
  let s := s.put (.REEVE_PART_LAYOUT p) REEVE_PART_LAYOUT.TAIL_MIN grp.tailMin
  let s := s.put (.REEVE_PART_LAYOUT p) REEVE_PART_LAYOUT.TAIL_MAX grp.tailMax
  (List.range 64).foldl (fun s f => s.put (.REEVE_RING_CFG f) (partsFld p) (x.funcs / 2 ^ f % 2)) s

/-- Partition core reset of partition `p` for `reason` (R495). -/
def State.partReset (s : State) (p reason : Nat) : State :=
  let s := (s.failPart p eUncorrectable).pfxKill p
  let s := s.killVats (s.vatsOf p)
  let s := match s.partSec p with
    | some x => s.applyPart p x
    | none => s
  s.partLast p reason

end Sys2Proof.Machine
end

