-- ==== Sys2Proof/Machine/Log.lean ====
section
/-! DEFINITION. The error log (R520-R523, R540-R543). -/

namespace Sys2Proof.Machine

/-- What an entry records (R520). `part` is 0xFF for none; `done` says that handling ends with the event itself (R521). -/
structure LogRec where
  code : Nat
  cls : Nat
  verdict : Nat
  part : Nat := 0xFF
  unit : Nat := 0
  sub : Nat := 0
  handle : Nat := 0
  done : Bool := true
  deriving DecidableEq, Repr

/-- Byte fields of an entry's second word. -/
def lwCode : Fld := { hi := 7, lo := 0, ty := .ro, reset := 0 }
def lwClass : Fld := { hi := 15, lo := 8, ty := .ro, reset := 0 }
def lwVerdict : Fld := { hi := 23, lo := 16, ty := .ro, reset := 0 }
def lwDepth : Fld := { hi := 31, lo := 24, ty := .ro, reset := 0 }
def lwPart : Fld := { hi := 39, lo := 32, ty := .ro, reset := 0 }
def lwState : Fld := { hi := 47, lo := 40, ty := .ro, reset := 0 }
def lwUnit : Fld := { hi := 63, lo := 48, ty := .ro, reset := 0 }
def lwSub : Fld := { hi := 31, lo := 0, ty := .ro, reset := 0 }
def lwHandle : Fld := { hi := 63, lo := 32, ty := .ro, reset := 0 }
def lwSeq : Fld := { hi := 31, lo := 0, ty := .ro, reset := 0 }

/-- The numbers of the entries still held whose handling has not ended, oldest first. -/
def State.logPending (s : State) : List Nat :=
  let prod := s.get .ERR_STATUS ERR_STATUS.PROD
  ((List.range (min prod 1024)).map fun k => prod - min prod 1024 + k).filter fun n =>
    lwState.get (s.rd (.ERR_ENTRY (n % 1024) 1)) = 0

/-- Whether entry `n` is of this unit. -/
def State.logIs (s : State) (n cls unit : Nat) (sub : Option Nat) : Bool :=
  let w := s.rd (.ERR_ENTRY (n % 1024) 1)
  lwClass.get w = cls && lwUnit.get w = unit &&
    match sub with
    | some b => lwSub.get (s.rd (.ERR_ENTRY (n % 1024) 2)) = b
    | none => true

/-- The depth of the unit's newest pending entry plus one; 0 where it has none (R522). -/
def State.logDepth (s : State) (cls unit sub : Nat) : Nat :=
  match (s.logPending.filter fun n => s.logIs n cls unit (some sub)).getLast? with
  | some n => min 7 (lwDepth.get (s.rd (.ERR_ENTRY (n % 1024) 1)) + 1)
  | none => 0

/-- Write one entry (R520), raising vector 1 of the physical function (R577), or overflow (R523): the entry is lost, OVERFLOWS counts it, and the partition it names
takes a partition core reset with REASON 2. -/
def State.log (s : State) (r : LogRec) : State :=
  let prod := s.get .ERR_STATUS ERR_STATUS.PROD
  let slot := prod % 1024
  let old := s.rd (.ERR_ENTRY slot 1)
  if 1024 ≤ prod ∧ lwState.get old = 0 then
    let s := s.bump .ERR_STATUS ERR_STATUS.OVERFLOWS
    if r.part < 16 then s.partReset r.part 2 else s
  else
    let depth := s.logDepth r.cls r.unit r.sub
    let w1 := lwCode.put 0 r.code
    let w1 := lwClass.put w1 r.cls
    let w1 := lwVerdict.put w1 (if depth = 0 then r.verdict else 5)
    let w1 := lwDepth.put w1 depth
    let w1 := lwPart.put w1 r.part
    let w1 := lwState.put w1 (if r.done then 1 else 0)
    let w1 := lwUnit.put w1 r.unit
    let w2 := lwHandle.put (lwSub.put 0 r.sub) r.handle
    let s := if 1024 ≤ prod ∧ s.get .ERR_HOST ERR_HOST.RD + 1024 ≤ prod
      then s.bump .ERR_HOST ERR_HOST.LOST_HOST else s
    let s := s.wr (.ERR_ENTRY slot 0) s.now
    let s := s.wr (.ERR_ENTRY slot 1) w1
    let s := s.wr (.ERR_ENTRY slot 2) w2
    let s := s.wr (.ERR_ENTRY slot 3) (lwSeq.put 0 prod)
    let s := (s.put .ERR_STATUS ERR_STATUS.PROD (prod + 1)).raiseMsi 0 1
    if r.done then s else s.put .ERR_STATUS ERR_STATUS.PENDING (s.get .ERR_STATUS ERR_STATUS.PENDING + 1)

/-- Handling of the unit's pending entries has ended: each is marked handled (R521). -/
def State.logDone (s : State) (cls unit : Nat) (sub : Option Nat := none) : State :=
  let ns := s.logPending.filter fun n => s.logIs n cls unit sub
  let s := ns.foldl (fun s n =>
    s.wr (.ERR_ENTRY (n % 1024) 1) (lwState.put (s.rd (.ERR_ENTRY (n % 1024) 1)) 1)) s
  s.put .ERR_STATUS ERR_STATUS.PENDING (s.get .ERR_STATUS ERR_STATUS.PENDING - ns.length)

end Sys2Proof.Machine
end

