-- ==== Sys2Proof/Machine/Operands.lean ====
section
/-! DEFINITION. The instruction word and its operand forms (R119-R124): header, fields, parameter slots, row pointers,
and the rows they name. -/

namespace Sys2Proof.Machine

/-- Bits [hi:lo] of an instruction word. -/
def bits (w hi lo : Nat) : Nat := w / 2 ^ lo % 2 ^ (hi + 1 - lo)

/-- One bit of an instruction word. -/
def bit (w i : Nat) : Bool := w / 2 ^ i % 2 = 1

/-! The header (R122). -/
def hOpc (w : Nat) : Nat := bits w 127 120
def hSync (w : Nat) : Bool := bit w 119
def hChk (w : Nat) : Bool := bit w 118
def hSr (w : Nat) : Bool := bit w 117
def hTrn (w : Nat) : Bool := bit w 116
def hFmt (w : Nat) : Nat := bits w 115 112

/-! The opcodes (R123). -/
def opTile : Nat := 0x01
def opMould : Nat := 0x02
def opPress : Nat := 0x03
def opDrain : Nat := 0x04
def opAttn : Nat := 0x05
def opRind : Nat := 0x08
def opSkim : Nat := 0x0A
def opWagon : Nat := 0x0C
def opSemw : Nat := 0x10
def opSemp : Nat := 0x11
def opFence : Nat := 0x14
def opLoop : Nat := 0x18
def opEndl : Nat := 0x19
def opBrc : Nat := 0x1A
def opTick : Nat := 0x1C
def opHalt : Nat := 0x1E
def opFlags : Nat := 0x20
def opSeed : Nat := 0x22

def opcodes : List Nat :=
  [opTile, opMould, opPress, opDrain, opAttn, opRind, opSkim, opWagon, opSemw, opSemp, opFence, opLoop, opEndl,
   opBrc, opTick, opHalt, opFlags, opSeed]

/-- The format codes (R35). -/
def fBF16 : Nat := 0
def fFP16 : Nat := 1
def fFP32 : Nat := 2
def fPAIR16 : Nat := 3
def fC8 : Nat := 4
def fC6 : Nat := 5
def fC4 : Nat := 6
def fS16 : Nat := 7
def fFP32PAIR : Nat := 8

/-- Header bits an opcode does not accept must be 0; FMT is 0 where it is marked "—" (R123, R124). -/
def headerOk (w : Nat) : Bool :=
  let o := hOpc w
  let chk := o = opTile || o = opPress || o = opAttn || o = opSkim
  let sr := o = opTile || o = opDrain || o = opAttn || o = opRind
  let trn := o = opTile || o = opMould
  let fmt := o = opTile || o = opMould || o = opPress || o = opDrain || o = opAttn || o = opRind || o = opSkim
  (chk || !hChk w) && (sr || !hSr w) && (trn || !hTrn w) && (fmt || hFmt w = 0)

/-! Context state. -/

/-- The program counter of a context. -/
def State.pc (s : State) (v c : Nat) : Nat := s.get (.VAT_CTX_STATUS v c) VAT_CTX_STATUS.PC
def State.setPc (s : State) (v c n : Nat) : State := s.put (.VAT_CTX_STATUS v c) VAT_CTX_STATUS.PC n
def State.depth (s : State) (v c : Nat) : Nat := s.get (.VAT_CTX_STATUS v c) VAT_CTX_STATUS.DEPTH

/-- Whether a word address lies in the context's region (R113). -/
def State.inRegionPc (s : State) (v c a : Nat) : Bool :=
  s.get (.VAT_CTX_PROG v c) VAT_CTX_PROG.BASE ≤ a && a ≤ s.get (.VAT_CTX_PROG v c) VAT_CTX_PROG.LIMIT

/-- The program-buffer word `a`. -/
def State.word (s : State) (v a : Nat) : Nat := (Tab.get zero128 s.prog (v * 0x4000 + a)).toNat

/-- The word the context fetches next; none outside its region (R113). -/
def State.fetch (s : State) (v c : Nat) : Option Nat :=
  if s.inRegionPc v c (s.pc v c) then some (s.word v (s.pc v c)) else none

/-- iter(d): the iteration index of the open loop at depth `d`, 0 where none is open (R121). -/
def State.iter (s : State) (v c d : Nat) : Nat :=
  if 1 ≤ d ∧ d ≤ s.depth v c then s.get (.VAT_CTX_LOOP v c (d - 1)) VAT_CTX_LOOP.ITER else 0

/-- A parameter slot (R119). -/
def State.ps (s : State) (v c n : Nat) : W64 := s.rd (.VAT_CTX_PS v c n)

/-- The slots of an instruction and the values it reads from them once, at its first issue (R161). -/
abbrev Slots := List (Nat × W64)

/-- Distinct slot numbers in ascending order (R171). -/
def sortSlots (l : List Nat) : List Nat := (List.range 64).filter fun n => l.contains n

/-- The values read at first issue; a part-done instruction keeps those in VAT_CTX_RSLOT (R161, R171). -/
def State.readSlots (s : State) (v c : Nat) (l : List Nat) : Slots :=
  let ns := sortSlots l
  if s.get (.VAT_CTX_RESUME v c) VAT_CTX_RESUME.MID = 1 then
    (List.range ns.length).map fun k => (ns.getD k 0, s.rd (.VAT_CTX_RSLOT v c k))
  else ns.map fun n => (n, s.ps v c n)

/-- The value read from slot `n`. -/
def Slots.val (l : Slots) (n : Nat) : W64 :=
  match l with
  | [] => 0
  | (m, x) :: r => if m = n then x else Slots.val r n

/-- The scalar in slot `n` (R119). -/
def Slots.scalar (l : Slots) (n : Nat) : W32 := (l.val n).truncate 32

/-! Row pointers (R120). -/
structure RowPtr where
  qs : Nat
  cstride : Nat
  lvl : Nat
  step : Int
  base : Nat
  deriving DecidableEq, Repr

def rowPtr (x : W64) : RowPtr :=
  let w := x.toNat
  let st := bits w 33 17
  { qs := bits w 58 54, cstride := bits w 53 37, lvl := bits w 36 34,
    step := if st < 65536 then (st : Int) else (st : Int) - 131072, base := bits w 16 0 }

/-- A row pointer that breaks R120 raises ILLEGAL_OP. -/
def ptrOk (x : W64) : Bool :=
  bits x.toNat 63 59 = 0 && (rowPtr x).qs ≤ 16 && (rowPtr x).lvl ≤ 4

/-- eff_base (R121), with the iteration index at depth `lvl`. -/
def RowPtr.eff (p : RowPtr) (it : Nat) : Nat :=
  ((p.base + (if p.lvl = 0 then 0 else p.step * it)) % 131072).toNat

/-- tok_row (R121) from the effective base `e`. -/
def RowPtr.tok (p : RowPtr) (e ch t rpt r : Nat) : Nat :=
  e + ch * p.cstride + (if p.qs = 0 then t * rpt + r else t % 4 * 2 ^ p.qs + t / 4 * rpt + r)

/-- wt_row (R121) from the effective base `e`. -/
def RowPtr.wt (p : RowPtr) (e tile j : Nat) : Nat := e + tile * p.cstride + j

/-- A row pointer read by an instruction, with its effective base fixed (R121, R161). -/
structure Ptr where
  p : RowPtr
  e : Nat
  deriving DecidableEq, Repr

/-- The pointer in slot `n` of the values `l`, for context `c`. -/
def State.ptr (s : State) (v c : Nat) (l : Slots) (n : Nat) : Ptr :=
  let p := rowPtr (l.val n)
  { p := p, e := p.eff (s.iter v c p.lvl) }

def Ptr.tok (q : Ptr) (ch t rpt r : Nat) : Nat := q.p.tok q.e ch t rpt r
def Ptr.wt (q : Ptr) (tile j : Nat) : Nat := q.p.wt q.e tile j

/-! The Curd share (R82, R111). -/

def shareFld (c : Nat) : Fld := { hi := 8 * c + 7, lo := 8 * c, ty := .il, reset := 0 }
/-- The slots of a context's share. -/
def State.share (s : State) (v c : Nat) : Nat := 256 * s.get (.VAT_CURD_SPLIT v) (shareFld c)
/-- The first slot of a context's share: shares follow one another in context order. -/
def State.shareBase (s : State) (v c : Nat) : Nat :=
  ((List.range c).map fun d => s.share v d).foldl (· + ·) 0

/-- The key of column `j` of Curd slot `n` of Vat `v`. -/
def curdKey (v n j : Nat) : Nat := (v * 4096 + n) * 256 + j
def State.curdAt (s : State) (v n j : Nat) : W32 := Tab.get zero32 s.curd (curdKey v n j)
def State.curdRow (s : State) (v n : Nat) : List W32 := Tab.getAll zero32 s.curd (curdKey v n 0) 256
def State.setCurdRow (s : State) (v n : Nat) (xs : List W32) : State :=
  { s with curd := Tab.setAll zero32 s.curd (curdKey v n 0) xs }

/-! Elements of rows (R37). -/

/-- The 16-bit elements of bytes. -/
def elems16 (bs : List Byte) : List W16 :=
  (List.range (bs.length / 2)).map fun i => bs.getD (2 * i + 1) 0 ++ bs.getD (2 * i) 0

/-- The 32-bit elements of bytes. -/
def elems32 (bs : List Byte) : List W32 :=
  (List.range (bs.length / 4)).map fun i =>
    bs.getD (4 * i + 3) 0 ++ bs.getD (4 * i + 2) 0 ++ bs.getD (4 * i + 1) 0 ++ bs.getD (4 * i) 0

def bytes16 (xs : List W16) : List Byte := xs.flatMap fun x => leBytes 2 x.toNat
def bytes32 (xs : List W32) : List Byte := xs.flatMap fun x => leBytes 4 x.toNat

/-- `n` elements of `xs` from `i` on, padded with `d`. -/
def sliceD {α : Type} (d : α) (xs : List α) (i n : Nat) : List α :=
  let ys := (xs.drop i).take n
  ys ++ List.replicate (n - ys.length) d

/-- The FP32 values of a row in a format of 16 or 32 bits (R196). -/
def rowVals (fmt : Nat) (bs : List Byte) : List W32 :=
  if fmt = fFP32 then elems32 bs
  else (elems16 bs).map (widen (if fmt = fFP16 then fmtFP16 else fmtBF16))

/-- The multiplier or output format of a code. -/
def fpOf (fmt : Nat) : FpFmt := if fmt = fFP16 then fmtFP16 else fmtBF16

end Sys2Proof.Machine
end

