-- ==== Sys2Proof/Machine/Rindfn.lean ====
section
/-! DEFINITION. The Rind functions (R195): exact value rounded once to FP32. The transcendental ones are computed
in fixed point of 640 bits, in error by less than 2^20 units of the last place, and rounded where both ends of that
interval round alike (log 11). -/

namespace Sys2Proof.Machine

/-- The fixed point's fraction bits. -/
def fixP : Nat := 640

/-- ln 2 in units of 2^-640. -/
def fixLn2 : Nat := 0xb17217f7d1cf79abc9e3b39803f2f6af40f343267298b62d8a0d175b8baafa2be7b876206debac98559552fb4afa1b10ed2eae35c138214427573b291169b8253e96ca16224ae8c51acbda11317c387e

/-- √(2/π) in units of 2^-640. -/
def fixGelu : Nat := 0xcc42299ea1b284687e59e2805d5c717fa7053e60a24e0db1808e369004c73a5d3bf158aa88fa7b6e47eba75766e9d11bd6284ef2e17c2a264f1d32688be119ff30505c3fb28f9c969d9b7adccb84672b

/-- `∑ (±r)^n / n!` from term `t` = r^n / n! on; `alt` gives the minus sign. -/
def expTaylor (alt : Bool) (r : Nat) : Nat → Nat → Nat → Int
  | 0, _, _ => 0
  | fuel + 1, n, t =>
    let s : Int := if alt && n % 2 = 1 then -(t : Int) else t
    s + expTaylor alt r fuel (n + 1) (t * r / 2 ^ fixP / (n + 1))

/-- e^-y for y ≥ 0 in fixed point (range reduction by ln 2). -/
def expNeg (y : Nat) : Nat :=
  let k := y / fixLn2
  (expTaylor true (y % fixLn2) 160 0 (2 ^ fixP)).toNat / 2 ^ k

/-- `∑ z^(2i+1) / (2i+1)` from the power `p` on. -/
def atanhTaylor (z2 : Nat) : Nat → Nat → Nat → Nat
  | 0, _, _ => 0
  | fuel + 1, n, p => p / n + atanhTaylor z2 fuel (n + 2) (p * z2 / 2 ^ fixP)

/-- ln of m/2^23 for 2^23 ≤ m < 2^24, in fixed point. -/
def lnMant (m : Nat) : Nat :=
  let z := (m - 2 ^ 23) * 2 ^ fixP / (m + 2 ^ 23)
  2 * atanhTaylor (z * z / 2 ^ fixP) 220 1 z

/-- ±a × 2^(e - 640), known to 2^20 units, rounded to FP32. -/
def roundFix (neg : Bool) (a : Nat) (e : Int) : W32 × Flags :=
  let lo := fmtF32.round .rne neg (max 1 (a - 2 ^ 20)) (e - fixP)
  let hi := fmtF32.round .rne neg (a + 2 ^ 20) (e - fixP)
  let r := if lo = hi then lo else fmtF32.round .rne neg (max 1 a) (e - fixP)
  (BitVec.ofNat 32 r.1, r.2)

/-- |x| in fixed point, for an exact FP32 value. -/
def fixAbs (m : Nat) (e : Int) : Nat := m * 2 ^ (e + fixP).toNat

/-- A value too small to round to anything but zero. -/
def tiny (neg : Bool) : W32 × Flags := toF32 (.fin neg 1 (-1000))

/-- A value just below ±m × 2^e in magnitude. -/
def justBelow (neg : Bool) (m : Nat) (e : Int) : W32 × Flags := toF32 (.fin neg (m * 2 ^ 60 - 1) (e - 60))

/-- The floor of √n by bits, from bit `k` down. -/
def isqrtBits (n : Nat) : Nat → Nat → Nat
  | 0, r => r
  | k + 1, r => let t := r + 2 ^ k; isqrtBits n k (if t * t ≤ n then t else r)

/-- EXP2 (R195). -/
def rExp2 (x : W32) : W32 × Flags :=
  match f32 x with
  | .nan => (f32Nan, 0)
  | .inf neg => (if neg then 0 else f32Inf, 0)
  | .fin _ 0 _ => (f32One, 0)
  | .fin neg m e =>
    if 0 ≤ e + Nat.log2 m ∧ 12 ≤ e + Nat.log2 m then
      (if neg then tiny false else (f32Inf, flagOF ||| flagIX))
    else
      let y := fixAbs m e
      let n := y / 2 ^ fixP
      let f := y % 2 ^ fixP
      if f = 0 then toF32 (.fin false 1 (if neg then -(n : Int) else n))
      else
        let (k, g) : Int × Nat := if neg then (-(n : Int) - 1, 2 ^ fixP - f) else (n, f)
        roundFix false (expTaylor false (g * fixLn2 / 2 ^ fixP) 160 0 (2 ^ fixP)).toNat k

/-- LOG2 (R195). -/
def rLog2 (x : W32) : W32 × Flags :=
  match f32 x with
  | .nan => (f32Nan, 0)
  | .inf neg => if neg then (f32Nan, flagIV) else (f32Inf, 0)
  | .fin _ 0 _ => (f32NegInf, 0)
  | .fin true _ _ => (f32Nan, flagIV)
  | .fin false m e =>
    let t := Nat.log2 m
    let k : Int := e + t
    let mm := if t ≤ 23 then m * 2 ^ (23 - t) else m / 2 ^ (t - 23)
    if mm = 2 ^ 23 then toF32 (.fin (decide (k < 0)) k.natAbs 0)
    else
      let v : Int := k * (2 ^ fixP : Nat) + (lnMant mm * 2 ^ fixP / fixLn2 : Nat)
      roundFix (decide (v < 0)) v.natAbs 0

/-- RCP (R195). -/
def rRcp (x : W32) : W32 × Flags := fDiv f32One x

/-- RSQRT (R195). -/
def rRsqrt (x : W32) : W32 × Flags :=
  match f32 x with
  | .nan => (f32Nan, 0)
  | .inf neg => if neg then (f32Nan, flagIV) else (0, 0)
  | .fin _ 0 _ => (f32Inf, 0)
  | .fin true _ _ => (f32Nan, flagIV)
  | .fin false m e =>
    let (m, e) : Nat × Int := if e % 2 = 0 then (m, e) else (2 * m, e - 1)
    let q := isqrtBits (2 ^ 128 / m) 65 0
    toF32 (.fin false (2 * q + if q * q * m = 2 ^ 128 then 0 else 1) (-65 - e / 2))

/-- The logistic function of ±y in fixed point: 1 ÷ (1 + e^∓y). -/
def fixSigmoid (neg : Bool) (y : Nat) : Nat :=
  let E := expNeg y
  (if neg then E else 2 ^ fixP) * 2 ^ fixP / (2 ^ fixP + E)

/-- SIGMOID (R195). -/
def rSigmoid (x : W32) : W32 × Flags :=
  match f32 x with
  | .nan => (f32Nan, 0)
  | .inf neg => (if neg then 0 else f32One, 0)
  | .fin _ 0 _ => (0x3F000000, 0)
  | .fin neg m e =>
    if 8 ≤ e + Nat.log2 m then (if neg then tiny false else justBelow false 1 0)
    else roundFix false (fixSigmoid neg (fixAbs m e)) 0

/-- SILU (R195): x times its logistic function. -/
def rSilu (x : W32) : W32 × Flags :=
  match f32 x with
  | .nan => (f32Nan, 0)
  | .inf neg => (if neg then 0 else f32Inf, 0)
  | .fin neg 0 _ => (if neg then 0x80000000 else 0, 0)
  | .fin neg m e =>
    if 8 ≤ e + Nat.log2 m then (if neg then tiny true else justBelow false m e)
    else roundFix neg (fixSigmoid neg (fixAbs m e) * fixAbs m e / 2 ^ fixP) 0

/-- TANH (R195). -/
def rTanh (x : W32) : W32 × Flags :=
  match f32 x with
  | .nan => (f32Nan, 0)
  | .inf neg => (if neg then 0xBF800000 else f32One, 0)
  | .fin neg 0 _ => (if neg then 0x80000000 else 0, 0)
  | .fin neg m e =>
    if 8 ≤ e + Nat.log2 m then justBelow neg 1 0
    else
      let E := expNeg (2 * fixAbs m e)
      roundFix neg ((2 ^ fixP - E) * 2 ^ fixP / (2 ^ fixP + E)) 0

/-- GELU (R195): 0.5x(1 + tanh u) is x times the logistic function of 2u. -/
def rGelu (x : W32) : W32 × Flags :=
  match f32 x with
  | .nan => (f32Nan, 0)
  | .inf neg => (if neg then 0 else f32Inf, 0)
  | .fin neg 0 _ => (if neg then 0x80000000 else 0, 0)
  | .fin neg m e =>
    if 6 ≤ e + Nat.log2 m then (if neg then tiny true else justBelow false m e)
    else
      let y := fixAbs m e
      let y3 := y * y / 2 ^ fixP * y / 2 ^ fixP
      let u2 := 2 * (fixGelu * (y + 44715 * y3 / 1000000) / 2 ^ fixP)
      roundFix neg (fixSigmoid neg u2 * y / 2 ^ fixP) 0

end Sys2Proof.Machine
end

