-- ==== Sys2Proof/Machine/Flags.lean ====
section
/-! DEFINITION. The Vat's sticky flags (R60, R61) and the conversions that step the lane generators (R53-R57). -/

namespace Sys2Proof.Machine

/-- The Vat's four flags. -/
def State.flags (s : State) (v : Nat) : Flags := (s.rd (.VAT_FLAGS v)).truncate 4

/-- Raised flags join the Vat's sticky flags (R61). -/
def State.joinFlags (s : State) (v : Nat) (f : Flags) : State :=
  s.wr (.VAT_FLAGS v) ((s.flags v ||| f).zeroExtend 64)

/-- The generator of column `j` of a context (R56, R173). -/
def State.gen (s : State) (v c j : Nat) : Gen :=
  Gen.ofWords (s.rd (.VAT_CTX_GEN v c j 0)) (s.rd (.VAT_CTX_GEN v c j 1))
def State.setGen (s : State) (v c j : Nat) (g : Gen) : State :=
  (s.wr (.VAT_CTX_GEN v c j 0) (g.word 0)).wr (.VAT_CTX_GEN v c j 1) (g.word 1)

/-- Seed all 256 generators of a context (R57). -/
def State.seedGens (s : State) (v c : Nat) (seed : W64) : State :=
  (List.range 256).foldl (fun s j => s.setGen v c j (genSeed seed j)) s

/-- How an instruction converts (R53): the SR and RTZ bits. -/
structure Conv where
  sr : Bool
  rtz : Bool
  deriving DecidableEq, Repr

/-- Convert elements to a 16-bit format; element `i` belongs to column `j + i`, whose generator an SR16
conversion steps (R56). -/
def State.cvtRow (s : State) (v c : Nat) (f : FpFmt) (md : Conv) : Nat → List W32 → List W16 × Flags × State
  | _, [] => ([], 0, s)
  | j, x :: xs =>
    if md.sr then
      let (r, g) := genRand (s.gen v c j)
      let (h, a) := cvt f (.sr16 r) x
      let (hs, b, t) := State.cvtRow (s.setGen v c j g) v c f md (j + 1) xs
      (h :: hs, a ||| b, t)
    else
      let (h, a) := cvt f (if md.rtz then .rtz else .rne) x
      let (hs, b, t) := State.cvtRow s v c f md (j + 1) xs
      (h :: hs, a ||| b, t)

/-- One list of FP32 results with their flags. -/
def mapF (f : W32 → W32 × Flags) : List W32 → List W32 × Flags
  | [] => ([], 0)
  | x :: xs =>
    let (y, a) := f x
    let (ys, b) := mapF f xs
    (y :: ys, a ||| b)

/-- Element by element over two lists. -/
def zipF (f : W32 → W32 → W32 × Flags) : List W32 → List W32 → List W32 × Flags
  | x :: xs, y :: ys =>
    let (z, a) := f x y
    let (zs, b) := zipF f xs ys
    (z :: zs, a ||| b)
  | _, _ => ([], 0)

/-- The activation ACT of R126, R128. -/
def actFn (act : Nat) (x : W32) : W32 × Flags :=
  if act = 1 then rSilu x else if act = 2 then rGelu x else if act = 3 then rTanh x
  else if act = 4 then rSigmoid x else if act = 5 then (fMax x 0, 0) else (x, 0)

/-- A finite FP32 value whose magnitude is a power of two (R66). -/
def isPow2 (x : W32) : Bool :=
  match f32 x with
  | .fin _ m _ => m ≠ 0 && m = 2 ^ Nat.log2 m
  | _ => false

end Sys2Proof.Machine
end

