-- ==== Sys2Proof/Machine/Sequencer.lean ====
section
/-! DEFINITION. The sequencer's shared operations: issuing, errors, waits, semaphores (R113-R125, R140-R143,
R151-R162, R259, R260). -/

namespace Sys2Proof.Machine

/-! Context states. -/

/-- The batch address that a waiting WAGON of the context has read is dropped (R161). -/
def State.dropHdr (s : State) (v c : Nat) : State :=
  let x := s.vat v
  s.setVat v { x with hdrs := x.hdrs.filter fun (h : Nat × Nat) => h.1 ≠ c }

/-- Requests and records of a context that no longer matter: PAUSE, aborts, ring counts, the claims and the address of
an instruction that waits (R161, R210). -/
def State.dropReq (s : State) (v c : Nat) : State :=
  let x := s.vat v
  let s := s.setVat v { x with
    aborts := x.aborts.filter (· ≠ c), abortWait := x.abortWait.filter (· ≠ c), ringTaken := x.ringTaken.filter (· ≠ c) }
  ((s.dropHdr v c).release (.insn v c)).put (.VAT_CTX_CTRL v c) VAT_CTX_CTRL.PAUSE 0

/-- No instruction of the context is part-done: MID and every RSLOT entry read zero (R156, R166, R171). -/
def State.clearPart (s : State) (v c : Nat) : State :=
  (s.wr (.VAT_CTX_RESUME v c) 0).resetRegs (Reg.VAT_CTX_RSLOT v c 0).off (Reg.VAT_CTX_RSLOT v c 12).off

/-- The context no longer runs on its Vat. -/
def State.leaveRun (s : State) (v c : Nat) : State :=
  if s.get (.VAT_STATUS v) VAT_STATUS.CTX_VALID = 1 ∧ s.get (.VAT_STATUS v) VAT_STATUS.CTX = c then
    let s := s.put (.VAT_STATUS v) VAT_STATUS.CTX_VALID 0
    if s.vst v = vsRun then s.setVst v vsIdle else s
  else s

/-- The context runs on its Vat; an instruction that another context left waiting gives its claims up (R210). -/
def State.enterRun (s : State) (v c : Nat) : State :=
  let s := ([0, 1, 2, 3].filter (· ≠ c)).foldl (fun s d => s.release (.insn v d)) s
  let s := s.setVat v { s.vat v with lastCtx := c }
  let s := s.setCst v c csRun
  let s := s.put (.VAT_STATUS v) VAT_STATUS.CTX c
  let s := s.put (.VAT_STATUS v) VAT_STATUS.CTX_VALID 1
  s.setVst v vsRun

/-- The context enters HALTED with a code (R148, R158). -/
def State.halt (s : State) (v c code : Nat) : State :=
  let s := (s.dropReq v c).leaveRun v c
  (s.setCst v c csHalted).put (.VAT_CTX_STATUS v c) VAT_CTX_STATUS.HALT_CODE code

/-! Batches (R143, R249). -/

/-- Batches the context has handed over that are outstanding: those of stopped streams are not (R143, R253). -/
def State.outstanding (s : State) (v c : Nat) : Bool :=
  (List.range 64).any fun i =>
    let t := s.stream v i
    !t.stopped && t.queue.any fun b => b.ctx = c

/-- The context waits for its batches after ABORT, then is HALTED with code 0xFFFF (R158). -/
def State.abortNow (s : State) (v c : Nat) : State :=
  let s := ((s.dropReq v c).leaveRun v c).clearPart v c
  if s.outstanding v c then
    let x := s.vat v
    (s.setVat v { x with abortWait := addOnce c x.abortWait }).setCst v c csWait 2
  else s.halt v c 0xFFFF

/-- The context enters PAUSED (R158): an instruction that waits runs again on resume, with its slots read anew. -/
def State.pauseNow (s : State) (v c : Nat) : State :=
  ((((s.dropHdr v c).release (.insn v c)).leaveRun v c).setCst v c csPaused).put (.VAT_CTX_CTRL v c) VAT_CTX_CTRL.PAUSE 0

/-- A tile boundary takes a pause or an abort that waits for the running context (R158, R159): the abort wins. -/
def State.atBoundary (s : State) (v c : Nat) : State :=
  if s.cst v c ≠ csRun then s
  else if (s.vat v).aborts.contains c then s.abortNow v c
  else if s.get (.VAT_CTX_CTRL v c) VAT_CTX_CTRL.PAUSE = 1 then s.pauseNow v c
  else s

/-- The context enters WAIT (R115), which it does at a tile boundary: a pause or an abort that waits takes it there
(R158, R199). -/
def State.waitOn (s : State) (v c why : Nat) : State :=
  if s.get (.VAT_CTX_CTRL v c) VAT_CTX_CTRL.PAUSE = 1 || (s.vat v).aborts.contains c then s.atBoundary v c
  else (s.leaveRun v c).setCst v c csWait why

/-- STREAM_MODE is STRICT (R261). -/
def State.strict (s : State) (v : Nat) : Bool := s.get (.VAT_STATUS v) VAT_STATUS.STREAM_MODE = 1

/-- The condition of a waiting context holds: it resumes at once in a STRICT partition (R117), else it is READY. -/
def State.wake (s : State) (v c : Nat) : State :=
  if s.strict v then s.enterRun v c else s.setCst v c csReady

/-- The context enters ERROR (R156). -/
def State.enterError (s : State) (v c err : Nat) : State :=
  let s := (s.dropReq v c).leaveRun v c
  let s := (s.setCst v c csError).put (.VAT_CTX_STATUS v c) VAT_CTX_STATUS.ERR err
  (s.wr (.VAT_CTX_ERRTIME v c) s.now).clearPart v c

/-- An instruction raises an error (R156): the context enters ERROR at it, the Vat logs it and interrupts Reeve. -/
def State.raise (s : State) (v c err : Nat) : State :=
  let s := s.enterError v c err
  let s := s.log { code := err, cls := clsVat, verdict := 0, part := s.part v, unit := s.phys v }
  s.emit (.reeveIrq clsVat (s.phys v))

/-- The Vat stops on a fault (R99, R157): every context FAULTED, an open entry, Reeve notified. `sub` is the position
named, 0x1FF where none is; an entry has no field for the Plate and the token, which VAT_CHK_LAST holds (log 141). -/
def State.stopVat (s : State) (v cls verdict sub : Nat) : State :=
  let s := [0, 1, 2, 3].foldl (fun s c => (s.dropReq v c).setCst v c csFaulted) s
  let s := s.setVat v { s.vat v with staged := [] }
  let s := (s.put (.VAT_STATUS v) VAT_STATUS.CTX_VALID 0).setVst v vsFaulted
  let s := s.log { code := eUncorrectable, cls := cls, verdict := verdict, part := s.part v, unit := s.phys v, sub := sub,
                   done := false }
  s.emit (.reeveIrq cls (s.phys v))

/-- Whether the context may issue: it is in RUN on a Vat that is neither zeroing nor stopped (R102, R115). -/
def State.canIssue (s : State) (v c : Nat) : Bool :=
  s.cst v c = csRun && !(s.vat v).zeroing && s.vst v ≠ vsFaulted

/-- The instruction of opcode `op` at PC issues: it counts and is noted, unless it was part-done (R603, R611). -/
def State.issued (s : State) (v c op : Nat) : State :=
  if s.get (.VAT_CTX_RESUME v c) VAT_CTX_RESUME.MID = 1 then s else s.noteIssue v c (s.pc v c) op

/-- Issue the instruction at PC, provided it is of opcode `op` and `sel` holds of it: a header that breaks R124 raises
ILLEGAL_OP, else `f` gives its effect; it ends at a tile boundary (R85). An instruction of another context that is
part-done is not in flight, so its footprint (R152) holds nothing back (log 140). -/
def State.issue (s : State) (v c op : Nat) (f : Nat → State → State) (sel : Nat → Bool := fun _ => true) : State :=
  match s.fetch v c with
  | some w =>
    if s.canIssue v c && hOpc w = op && sel w then
      if headerOk w then (f w (s.issued v c op)).atBoundary v c else (s.issued v c op).raise v c eIllegalOp
    else s
  | none => s

/-- The next word address; the counter has 14 bits. -/
def State.nextPc (s : State) (v c : Nat) : State := s.setPc v c ((s.pc v c + 1) % 16384)

/-! Semaphores (R140, R259, R260). -/

/-- Kinds: 0 FULL, 1 EMPTY, 2 arrival counter. -/
def semReg (v kind i : Nat) : Reg :=
  if kind = 0 then .VAT_SEM_FULL v i else if kind = 1 then .VAT_SEM_EMPTY v i else .VAT_ARRIVAL v i

def semFld : Fld := { hi := 31, lo := 0, ty := .rw, reset := 0 }

/-- KIND and INDEX name a semaphore (R140). -/
def semOk (kind i : Nat) : Bool := kind ≤ 2 && (kind = 2 || i < 64)

/-- The value of a semaphore. -/
def State.sem (s : State) (v kind i : Nat) : Nat := s.get (semReg v kind i) semFld

/-- Set a semaphore. -/
def State.setSem (s : State) (v kind i n : Nat) : State := s.put (semReg v kind i) semFld n

/-- Add to a semaphore, saturating with a log entry (R141). -/
def State.addSem (s : State) (v kind i n : Nat) : State :=
  let t := s.sem v kind i + n
  if t < 2 ^ 32 then s.setSem v kind i t
  else (s.setSem v kind i (2 ^ 32 - 1)).log
    { code := eQueueFull, cls := clsVat, verdict := 0, part := s.part v, unit := s.phys v, sub := kind * 256 + i }

/-- Take `n` where the value is at least `n` (R140, R251). -/
def State.takeSem (s : State) (v kind i n : Nat) : Option State :=
  if n ≤ s.sem v kind i then some (s.setSem v kind i (s.sem v kind i - n)) else none

end Sys2Proof.Machine
end

