-- ==== Sys2Proof/Machine/Cellar.lean ====
section
/-! DEFINITION. Cellar errors, spare banks, scrubs and bank-group power (R204, R224-R233, R494). -/

namespace Sys2Proof.Machine

/-! The retirement record (R494). -/

def reKind : Fld := { hi := 63, lo := 56, ty := .ro, reset := 0 }
def reUnit : Fld := { hi := 55, lo := 48, ty := .ro, reset := 0 }
def rePos : Fld := { hi := 47, lo := 32, ty := .ro, reset := 0 }
def reTime : Fld := { hi := 31, lo := 0, ty := .ro, reset := 0 }

/-- A full record drops its oldest lane or bank entry, or its oldest entry where it has neither. -/
def dropOldest (l : List W64) : List W64 :=
  match l.findIdx? fun e => reKind.get e = 2 || reKind.get e = 3 with
  | some i => l.eraseIdx i
  | none => l.drop 1

/-- Append an entry: kind 1 Vat, 2 lane position, 3 bank, 4 HBM pseudo-channel. -/
def State.retire (s : State) (kind unit pos : Nat) : State :=
  let e := reKind.put 0 kind
  let e := reUnit.put e unit
  let e := rePos.put e pos
  let e := reTime.put e (s.now.toNat / 1000000)
  let l := if s.retired.length < 4096 then s.retired else dropOldest s.retired
  { s with retired := l ++ [e] }

/-- Whether a physical Vat position stands in the record. -/
def State.vatRetired (s : State) (ph : Nat) : Bool := s.retired.any fun e => reKind.get e = 1 && reUnit.get e = ph

/-! Spare banks (R231-R233). -/

/-- Start the retirement of a bank: a copy to the lowest free spare, or withdrawal. A bank whose retirement is under
way only logs again, which escalates (R522). `cls` is the class of the unit that failed. -/
def State.bankRetire (s : State) (v b cls : Nat) : State :=
  let entry : LogRec := { code := eOk, cls := cls, verdict := 3, part := s.part v, unit := s.phys v, sub := b, done := false }
  if s.isWithdrawn v b || (s.copyOf v b).isSome then (s.log entry).emit (.reeveIrq cls (s.phys v))
  else
    let s := match s.spareOf v b with
      | some i => s.put (.CELLAR_BANK_MAP v) (bmBad i) 1
      | none => s
    let s := s.retire 3 (s.phys v) b
    match s.freeSpare v with
    | some i =>
      let s := s.put (.CELLAR_BANK_MAP v) (bmBank i) b
      (s.put (.CELLAR_BANK_MAP v) (bmCopying i) 1).log entry
    | none =>
      let s := { s with withdrawn := s.withdrawn ++ [(v, b)], mem := Tab.clear (rowAddr v (b * 1024)) (rowAddr v (b * 1024 + 1024)) s.mem }
      (s.log { entry with code := eUncorrectable, verdict := 4 }).emit (.reeveIrq cls (s.phys v))

/-- Spare `i` serves its bank from now on; a spare that served it before no longer does (R232). -/
def State.mapSpare (s : State) (v i : Nat) : State :=
  let b := s.get (.CELLAR_BANK_MAP v) (bmBank i)
  let s := (List.range 4).foldl (fun s j =>
    if s.get (.CELLAR_BANK_MAP v) (bmBank j) = b then s.put (.CELLAR_BANK_MAP v) (bmValid j) 0 else s) s
  (s.put (.CELLAR_BANK_MAP v) (bmCopying i) 0).put (.CELLAR_BANK_MAP v) (bmValid i) 1

def State.bankCopyDone (s : State) (v i : Nat) : State :=
  if s.get (.CELLAR_BANK_MAP v) (bmCopying i) = 1 then
    let b := s.get (.CELLAR_BANK_MAP v) (bmBank i)
    ((s.mapSpare v i).logDone clsBank (s.phys v) (some b)).logDone clsSkim (s.phys v) (some b)
  else s

def execBankCopyDone (v : VatId) (i : Fin 4) (s : State) : Host.Outcome State Fault Refusal :=
  .next (s.bankCopyDone v i)

/-! Errors of a row (R204). -/

/-- Row `r` reads with this result: counts, the event record, poison, retirement of its bank. -/
def State.eccRow (s : State) (v r : Nat) (e : Ecc) : State :=
  match e with
  | .clean => s
  | .corrected => (s.bump (.CELLAR_ERR_STAT v) CELLAR_ERR_STAT.CORR).lastErr v 0 r
  | .reappeared =>
    ((s.bump (.CELLAR_ERR_STAT v) CELLAR_ERR_STAT.CORR).lastErr v 0 r).bankRetire v (bankOf r) clsBank
  | .rereadClean => (s.bump (.CELLAR_ERR_STAT v) CELLAR_ERR_STAT.REREAD_OK).lastErr v 1 r
  | .lasting =>
    let s := (s.bump (.CELLAR_ERR_STAT v) CELLAR_ERR_STAT.UNCORR).lastErr v 2 r
    (s.setPoison (rowAddr v r) 512 true).bankRetire v (bankOf r) clsBank

/-- A row that SECDED can check: of a group with its contents, not DIRTY (R224, R227). -/
def State.rowLive (s : State) (v r : Nat) : Bool :=
  (s.gs v (bankOf r / 32) = gsOn || s.gs v (bankOf r / 32) = gsClosing) && !s.rowDirty v r && !s.isWithdrawn v (bankOf r)

def execBackgroundScrub (v : VatId) (r : BitVec 17) (e : Ecc) (s : State) : Host.Outcome State Fault Refusal :=
  .next (if s.rowLive v r.toNat then s.eccRow v r.toNat e else s)

/-! The scrub of R225. -/

/-- Every DIRTY row of the groups that are powered, and of the spare banks, has been zeroed, with check bits. -/
def State.scrubDone (s : State) (v : Nat) : State :=
  let banks := allBanks.filter fun b => 128 ≤ b || s.gs v (b / 32) = gsOn || s.gs v (b / 32) = gsClosing
  let before := s.dirtyRows v
  let s := banks.foldl (fun s b => s.setDirty v b {}) s
  (s.put (.CELLAR_STATUS v) CELLAR_STATUS.SCRUB_BUSY 0).perf (puCellar v) 0x06 [0] (before - s.dirtyRows v)

def execDirtyScrubDone (v : VatId) (s : State) : Host.Outcome State Fault Refusal :=
  .next (if s.get (.CELLAR_STATUS v) CELLAR_STATUS.SCRUB_BUSY = 1 then s.scrubDone v else s)

/-! Bank-group power (R227-R230). -/

/-- A group enters WAKING: every row DIRTY. -/
def State.wakeGroup (s : State) (v g : Nat) : State :=
  ((List.range 32).foldl (fun s k => s.makeDirty v (32 * g + k)) s).setGs v g gsWaking

/-- The PWR bit of a group takes a value (R227, R230, R236). -/
def State.pwrBit (s : State) (v g : Nat) (on : Bool) : State :=
  let s := s.put (.CELLAR_GROUP_CTRL v) (pwrFld g) (if on then 1 else 0)
  if on && s.gs v g = gsOff then s.wakeGroup v g
  else if !on && s.gs v g = gsOn then s.setGs v g gsClosing
  else s

def execGroupPowerOn (v : VatId) (g : Fin 4) (s : State) : Host.Outcome State Fault Refusal :=
  .next (if s.valid v then s.pwrBit v g true else s)

def execGroupPowerOff (v : VatId) (g : Fin 4) (s : State) : Host.Outcome State Fault Refusal :=
  .next (if s.valid v then s.pwrBit v g false else s)

/-- A waking group reaches clock start: ON, its rows DIRTY and scrubbing; a PWR cleared meanwhile applies now. -/
def State.clockStart (s : State) (v g : Nat) : State :=
  if s.gs v g = gsWaking then
    let s := (s.setGs v g gsOn).dirtyGroups v [g]
    if s.get (.CELLAR_GROUP_CTRL v) (pwrFld g) = 0 then s.setGs v g gsClosing else s
  else s

def execGroupClockStart (v : VatId) (g : Fin 4) (s : State) : Host.Outcome State Fault Refusal :=
  .next (s.clockStart v g)

/-- A CLOSING group enters OFF: contents lost, copies abandoned, its windows closed; a PWR set meanwhile wakes it. -/
def State.groupOff (s : State) (v g : Nat) : State :=
  let s := (List.range 32).foldl (fun s k => (s.makeDirty v (32 * g + k)).setDirty v (32 * g + k) {}) s
  let s := (List.range 4).foldl (fun s i =>
    if s.get (.CELLAR_BANK_MAP v) (bmCopying i) = 1 && s.get (.CELLAR_BANK_MAP v) (bmBank i) / 32 = g
    then s.bankCopyDone v i else s) s
  let s := (s.setGs v g gsOff).closeWindows v fun w => s.windowIn v w g
  if s.get (.CELLAR_GROUP_CTRL v) (pwrFld g) = 1 then s.wakeGroup v g else s

end Sys2Proof.Machine
end

