-- ==== Sys2Proof/Machine/Acc.lean ====
section
/-! DEFINITION. An instruction under way: its accesses to the Cellar under bank claims (R205-R214), its tile
boundaries (R85), the faults that fall within it, and how it ends (R156, R166). -/

namespace Sys2Proof.Machine

/-- An instruction of context `c` under way: the claims it holds, the pairs of R213 by bank, its error, whether it
goes no further (the Vat stopped, or it left at a boundary), the boundaries passed, and the slot values it read. -/
structure Acc where
  s : State
  v : Nat
  c : Nat
  run : Run
  slots : Slots
  chk : Bool := false
  own : List (Nat × Nat) := []
  pairs : List (Nat × Nat × Nat) := []
  err : Nat := 0
  stop : Bool := false
  bnd : Nat := 0
  deriving DecidableEq, Repr

/-- The instruction goes on. -/
def Acc.live (a : Acc) : Bool := a.err = 0 && !a.stop

/-- Do `f` for each element while the instruction goes on. -/
def Acc.each {α : Type} (a : Acc) (l : List α) (f : Acc → α → Acc) : Acc :=
  l.foldl (fun a x => if a.live then f a x else a) a

/-- The instruction stops with an error. -/
def Acc.fail (a : Acc) (e : Nat) : Acc := if a.live then { a with err := e } else a

/-- Act on the state. -/
def Acc.on (a : Acc) (f : State → State) : Acc := { a with s := f a.s }

/-- Flags join (R61). -/
def Acc.flag (a : Acc) (f : Flags) : Acc := if f = 0 then a else a.on fun s => s.joinFlags a.v f

/-! Claims (R209-R213). -/

/-- The port that may share bank `b` with `port` (R213). -/
def Acc.pairOf (a : Acc) (b port : Nat) : Nat :=
  match a.pairs.find? fun p => p.1 = b with
  | some (_, p, q) => if p = port then q else if q = port then p else 0
  | none => 0

/-- What a claim of `port` on bank `b` meets. -/
def Acc.claimErr (a : Acc) (b port : Nat) : Nat :=
  let pair := a.pairOf b port
  let e := a.s.claimErr a.v b port pair
  if e ≠ 0 then e
  else if a.own.all fun o => o.1 ≠ b || o.2 = port || o.2 = pair then 0 else eBankClaimConflict

/-- Claim the bank of row `r`, at the first access to it; a later one finds whether it has gone meanwhile (R233). -/
def Acc.claim (a : Acc) (port r : Nat) : Acc :=
  if !a.live then a
  else if a.own.contains (bankOf r, port) then
    if a.s.heldErr a.v (bankOf r) ≠ 0 then a.fail eBankUnclaimed else a
  else
    let e := a.claimErr (bankOf r) port
    if e = 0 then { a with own := (bankOf r, port) :: a.own }
    else (a.on fun s => s.perf (puCellar a.v) 0x04 [0, port] 1).fail e

/-- Read a row; a poisoned one stops the instruction (R515). -/
def Acc.read (a : Acc) (port r : Nat) : Acc × List Byte :=
  let a := a.claim port r
  if !a.live then (a, [])
  else if a.s.poisoned (rowAddr a.v r) 512 then (a.fail eUncorrectable, [])
  else (a.on fun s => s.perf (puCellar a.v) 0x01 [0, port] 1, a.s.row a.v r)

/-- Write a whole row. -/
def Acc.write (a : Acc) (port r : Nat) (data : List Byte) : Acc :=
  let a := a.claim port r
  if !a.live then a else a.on fun s => (s.setRow a.v r data).perf (puCellar a.v) 0x02 [0, port] 1

/-- Read several rows in order. -/
def Acc.reads (a : Acc) (port : Nat) : List Nat → Acc × List (List Byte)
  | [] => (a, [])
  | r :: rs =>
    let (a, x) := a.read port r
    let (a, xs) := Acc.reads a port rs
    (a, x :: xs)

/-! Faults. -/

/-- VAT_CHK_LAST records a mismatch verdict (R109). -/
def State.chkLast (s : State) (v token pos verdict plate : Nat) : State :=
  let w := VAT_CHK_LAST.TOKEN.put 0 token
  let w := VAT_CHK_LAST.POS.put w pos
  let w := VAT_CHK_LAST.VERDICT.put w verdict
  let w := VAT_CHK_LAST.PLATE.put w plate
  s.wr (.VAT_CHK_LAST v) (VAT_CHK_LAST.VALID.put w 1)

/-- A transient fault (R96): counted, recorded, logged when LOG_TRANSIENT is set with the position `sub` that the retry
named, 0x1FF where it named none. -/
def State.transient (s : State) (v token pos plate sub : Nat) : State :=
  let s := (s.bump (.VAT_CHK_STAT v) VAT_CHK_STAT.TRANSIENT).chkLast v token pos 0 plate
  if s.get (.VAT_CHK_CTRL v) VAT_CHK_CTRL.LOG_TRANSIENT = 1 then
    s.log { code := eOk, cls := clsLane, verdict := 1, part := s.part v, unit := s.phys v, sub := sub }
  else s

/-- A lasting fault that stops the Vat (R97, R99): `rec` is VAT_CHK_LAST.VERDICT. -/
def State.lastingStop (s : State) (v cls token pos rec plate : Nat) : State :=
  let s := (s.bump (.VAT_CHK_STAT v) VAT_CHK_STAT.LASTING).chkLast v token pos rec plate
  s.stopVat v cls (if rec = 3 then 4 else 2) pos

/-- A fault within the instruction (R86, R89, R204, R512). Skim faults are the Skim path's. -/
def Acc.fault (a : Acc) (f : VatFault) : Acc :=
  match f with
  | .curdCorrected => a.on fun s => s.bump (.VAT_ECC_STAT a.v) VAT_ECC_STAT.CURD_CORR
  | .curdDouble => (a.on fun s => s.bump (.VAT_ECC_STAT a.v) VAT_ECC_STAT.CURD_UNCORR).fail eUncorrectable
  | .curdAdder ok =>
    if !a.chk then (a.on fun s => s.bump (.VAT_ECC_STAT a.v) VAT_ECC_STAT.CURD_UNCORR).fail eUncorrectable
    else if ok then a.on fun s => (s.perf (puVat a.v) 0x12 [0] 1).transient a.v 0xFFFF 0x1FF 0 0x1FF
    else { a.on fun s => (s.perf (puVat a.v) 0x12 [0] 1).lastingStop a.v clsCurd 0xFFFF 0x1FF 2 0 with stop := true }
  | .rindOnce => a.on fun s =>
    (s.bump (.VAT_ECC_STAT a.v) VAT_ECC_STAT.RIND_MISMATCH).bump (.VAT_CHK_STAT a.v) VAT_CHK_STAT.TRANSIENT
  | .rindAgain =>
    { a.on fun s => (s.bump (.VAT_ECC_STAT a.v) VAT_ECC_STAT.RIND_MISMATCH).lastingStop a.v clsCurd 0xFFFF 0x1FF 2 0
      with stop := true }
  | .row r e => a.on fun s => if s.rowLive a.v r.toNat then s.eccRow a.v r.toNat e else s
  | .skim _ _ _ => a

/-- The faults that fall before boundary `a.bnd`. -/
def Acc.faultsNow (a : Acc) : Acc :=
  a.each (a.run.faults.filter fun f => f.1 = a.bnd) fun a f => a.fault f.2

/-! Boundaries and the end. -/

/-- A pause, an abort or a switch takes the context at a boundary it stands at (R85, R116, R158). -/
def State.due (s : State) (v c : Nat) : Bool :=
  s.get (.VAT_CTX_CTRL v c) VAT_CTX_CTRL.PAUSE = 1 || (s.vat v).aborts.contains c ||
    [0, 1, 2, 3].any fun d => s.cst v d = csReady &&
      s.get (.VAT_CTX_CTRL v c) VAT_CTX_CTRL.PRIO < s.get (.VAT_CTX_CTRL v d) VAT_CTX_CTRL.PRIO

/-- The instruction is part-done (R166, R171): it resumes from A, B, C and PASS with the slot values it read. -/
def Acc.partDone (a : Acc) (ra rb rc pass : Nat) : Acc :=
  let w := VAT_CTX_RESUME.A.put 0 ra
  let w := VAT_CTX_RESUME.B.put w rb
  let w := VAT_CTX_RESUME.C.put w rc
  let w := VAT_CTX_RESUME.PASS.put w pass
  let s := a.s.wr (.VAT_CTX_RESUME a.v a.c) (VAT_CTX_RESUME.MID.put w 1)
  let s := (List.range a.slots.length).foldl (fun s k => s.wr (.VAT_CTX_RSLOT a.v a.c k) (a.slots.getD k (0, 0)).2) s
  { a with s := s, stop := true }

/-- A tile boundary inside the instruction: it leaves there if it is to and something is due, else it goes on. -/
def Acc.boundary (a : Acc) (ra rb rc pass : Nat) : Acc :=
  if !a.live then a
  else if a.run.leave = some a.bnd && a.s.due a.v a.c then a.partDone ra rb rc pass
  else { a with bnd := a.bnd + 1 }.faultsNow

/-- The instruction waits and stands (R210, R213): it keeps its claims, with the pairs they stand in. -/
def Acc.hold (a : Acc) : Acc :=
  a.on fun s => { s with claims := s.claims ++ a.own.map fun o =>
    { v := a.v, bank := o.1, port := o.2, holder := .insn a.v a.c, pair := a.pairOf o.1 o.2 } }

/-- The instruction ends: with its error, part-done or stopped as it stands, or complete. -/
def Acc.finish (a : Acc) (v c : Nat) : State :=
  if a.stop then a.s
  else if a.err ≠ 0 then a.s.raise v c a.err
  else (a.s.clearPart v c).nextPc v c

/-- Whether checks run on an instruction with this CHK bit (R91). -/
def State.checksOn (s : State) (v : Nat) (chk : Bool) : Bool :=
  let p := s.get (.VAT_CHK_CTRL v) VAT_CHK_CTRL.POLICY
  p = 0 || (p = 1 && chk)

/-- The resume record where the instruction is part-done, zeros where it is new. -/
def State.resumeAt (s : State) (v c : Nat) : Nat × Nat × Nat × Nat :=
  if s.get (.VAT_CTX_RESUME v c) VAT_CTX_RESUME.MID = 1 then
    (s.get (.VAT_CTX_RESUME v c) VAT_CTX_RESUME.A, s.get (.VAT_CTX_RESUME v c) VAT_CTX_RESUME.B,
     s.get (.VAT_CTX_RESUME v c) VAT_CTX_RESUME.C, s.get (.VAT_CTX_RESUME v c) VAT_CTX_RESUME.PASS)
  else (0, 0, 0, 0)

/-- The first error of a list of conditions in the order of R125: a condition that holds is broken. -/
def firstErr : List (Bool × Nat) → Nat
  | [] => 0
  | (b, e) :: r => if b then e else firstErr r

end Sys2Proof.Machine
end

