-- ==== Sys2Proof/Machine/SeqInstr.lean ====
section
/-! DEFINITION. The instructions of the sequencer alone (R139-R150). -/

namespace Sys2Proof.Machine

/-! SEMW (R140). -/
def semwKind (w : Nat) : Nat := bits w 111 110
def semwIdx (w : Nat) : Nat := bits w 109 102
def semwVal (w : Nat) : Nat := bits w 101 70
def semwTake (w : Nat) : Bool := bit w 69

/-- The test of SEMW, with its take; none where the condition does not hold. -/
def State.semwTest (s : State) (v w : Nat) : Option State :=
  if semwVal w ≤ s.sem v (semwKind w) (semwIdx w) then
    some (if semwTake w then s.setSem v (semwKind w) (semwIdx w) (s.sem v (semwKind w) (semwIdx w) - semwVal w) else s)
  else none

def State.semw (s : State) (v c w : Nat) : State :=
  if bits w 68 0 ≠ 0 || !semOk (semwKind w) (semwIdx w) then s.raise v c eIllegalOp
  else match s.semwTest v w with
    | some s => s.nextPc v c
    | none => s.waitOn v c 1

def execSemw (v : VatId) (c : CtxId) (s : State) : Host.Outcome State Fault Refusal :=
  .next (s.issue v c opSemw fun w s => s.semw v c w)

/-! SEMP (R141, R142). -/
def State.semp (s : State) (v c w : Nat) : State :=
  let kind := semwKind w
  let i := semwIdx w
  let tv := bits w 67 64
  let remote := bit w 68
  if bits w 63 0 ≠ 0 || !semOk kind i then s.raise v c eIllegalOp
  else if remote && (kind = 2 || !s.valid tv || s.part tv ≠ s.part v) then s.raise v c eIllegalOp
  else if remote then
    (s.dnetSend (s.vatPkt v (.stop (s.stopOf tv)) (.post kind i (semwVal w) (semwTake w)))).nextPc v c
  else if semwTake w then (s.setSem v kind i (semwVal w)).nextPc v c
  else (s.addSem v kind i (semwVal w)).nextPc v c

def execSemp (v : VatId) (c : CtxId) (s : State) : Host.Outcome State Fault Refusal :=
  .next (s.issue v c opSemp fun w s => s.semp v c w)

/-! FENCE (R143): each step is whole, so every earlier instruction has completed; only batches can be waited for. -/
def State.fence (s : State) (v c w : Nat) : State :=
  if bits w 110 0 ≠ 0 then s.raise v c eIllegalOp
  else if bit w 111 && s.outstanding v c then s.waitOn v c 2
  else s.nextPc v c

def execFence (v : VatId) (c : CtxId) (s : State) : Host.Outcome State Fault Refusal :=
  .next (s.issue v c opFence fun w s => s.fence v c w)

/-! Loops (R144, R145). -/

/-- The END field of loop level `d + 1` in VAT_CTX_LOOPEND (R168). -/
def endFld (d : Nat) : Fld := { hi := 16 * d + 13, lo := 16 * d, ty := .il, reset := 0 }

def State.loop (s : State) (v c w : Nat) : State :=
  let count := bits w 111 88
  let e := bits w 87 74
  let pc := s.pc v c
  let d := s.depth v c
  if bits w 73 0 ≠ 0 || !s.inRegionPc v c e || e ≤ pc || (count ≠ 0 && 4 ≤ d) then s.raise v c eIllegalOp
  else if count = 0 then s.setPc v c ((e + 1) % 16384)
  else
    let w := VAT_CTX_LOOP.COUNT.put 0 count
    let s := s.wr (.VAT_CTX_LOOP v c d) (VAT_CTX_LOOP.START.put w (pc + 1))
    let s := s.put (.VAT_CTX_LOOPEND v c) (endFld d) e
    (s.put (.VAT_CTX_STATUS v c) VAT_CTX_STATUS.DEPTH (d + 1)).nextPc v c

def execLoop (v : VatId) (c : CtxId) (s : State) : Host.Outcome State Fault Refusal :=
  .next (s.issue v c opLoop fun w s => s.loop v c w)

/-- START and END of the innermost open level. -/
def State.levelStart (s : State) (v c : Nat) : Nat := s.get (.VAT_CTX_LOOP v c (s.depth v c - 1)) VAT_CTX_LOOP.START
def State.levelEnd (s : State) (v c : Nat) : Nat := s.get (.VAT_CTX_LOOPEND v c) (endFld (s.depth v c - 1))

def State.endl (s : State) (v c w : Nat) : State :=
  let d := s.depth v c
  if bits w 111 0 ≠ 0 || d = 0 || s.pc v c ≠ s.levelEnd v c then s.raise v c eIllegalOp
  else
    let r := Reg.VAT_CTX_LOOP v c (d - 1)
    let it := s.get r VAT_CTX_LOOP.ITER + 1
    let again := it < s.get r VAT_CTX_LOOP.COUNT
    let start := s.levelStart v c
    let s := s.put r VAT_CTX_LOOP.ITER it
    if again then s.setPc v c start
    else (s.put (.VAT_CTX_STATUS v c) VAT_CTX_STATUS.DEPTH (d - 1)).nextPc v c

def execEndl (v : VatId) (c : CtxId) (s : State) : Host.Outcome State Fault Refusal :=
  .next (s.issue v c opEndl fun w s => s.endl v c w)

/-! BRC (R146). -/
def brcCond (w : Nat) : Nat := bits w 111 108
def brcTarget (w : Nat) : Nat := bits w 107 94
def brcLvl (w : Nat) : Nat := bits w 93 91
def brcIdx (w : Nat) : Nat := bits w 90 83
def brcKind (w : Nat) : Nat := bits w 82 81
def brcVal (w : Nat) : Nat := bits w 80 49

/-- Whether the branch's fields are legal (R146). -/
def State.brcOk (s : State) (v c w : Nat) : Bool :=
  bits w 48 0 = 0 && brcCond w ≤ 7 &&
  ((brcCond w ≠ 1 && brcCond w ≠ 2) || (1 ≤ brcLvl w && brcLvl w ≤ 4)) &&
  ((brcCond w ≠ 3 && brcCond w ≠ 4) || semOk (brcKind w) (brcIdx w)) &&
  (if s.depth v c = 0 then s.inRegionPc v c (brcTarget w)
   else s.levelStart v c ≤ brcTarget w && brcTarget w ≤ s.levelEnd v c)

/-- Whether the branch is taken. -/
def State.brcHolds (s : State) (v c w : Nat) : Bool :=
  match brcCond w with
  | 0 => true
  | 1 => s.iter v c (brcLvl w) = brcVal w
  | 2 => s.iter v c (brcLvl w) ≠ brcVal w
  | 3 => brcVal w ≤ s.sem v (brcKind w) (brcIdx w)
  | 4 => s.sem v (brcKind w) (brcIdx w) < brcVal w
  | 5 => s.flags v &&& BitVec.ofNat 4 (brcVal w) ≠ 0
  | 6 => (s.ps v c (brcIdx w % 64)).truncate 32 ≠ (0 : W32)
  | _ => (s.ps v c (brcIdx w % 64)).truncate 32 = (0 : W32)

def State.brc (s : State) (v c w : Nat) : State :=
  if !s.brcOk v c w then s.raise v c eIllegalOp
  else if s.brcHolds v c w then s.setPc v c (brcTarget w)
  else s.nextPc v c

def execBrc (v : VatId) (c : CtxId) (s : State) : Host.Outcome State Fault Refusal :=
  .next (s.issue v c opBrc fun w s => s.brc v c w)

/-! TICK (R147). -/
def State.tick (s : State) (v c w : Nat) : State :=
  if bits w 89 0 ≠ 0 then s.raise v c eIllegalOp
  else
    let tag := bits w 105 90
    let pc := s.pc v c
    let s := s.wr (.VAT_CTX_PS v c (bits w 111 106)) s.now
    let s := s.perf (puVat v) 0x13 [0, tag % 256] 1
    (s.traceRec s.now.toNat tag v c 0 pc).nextPc v c

def execTick (v : VatId) (c : CtxId) (s : State) : Host.Outcome State Fault Refusal :=
  .next (s.issue v c opTick fun w s => s.tick v c w)

/-! HALT (R148). -/

/-- HALT completes. -/
def State.haltDone (s : State) (v c w : Nat) : State :=
  let s := (s.nextPc v c).halt v c (bits w 111 96)
  if bit w 95 then s.emit (.reeveIrq clsVat (s.phys v)) else s

def State.haltIssue (s : State) (v c w : Nat) : State :=
  if bits w 94 0 ≠ 0 then s.raise v c eIllegalOp
  else if s.outstanding v c then s.waitOn v c 2
  else s.haltDone v c w

def execHalt (v : VatId) (c : CtxId) (s : State) : Host.Outcome State Fault Refusal :=
  .next (s.issue v c opHalt fun w s => s.haltIssue v c w)

/-! FLAGS (R149). -/
def State.flagsInsn (s : State) (v c w : Nat) : State :=
  if bits w 100 0 ≠ 0 then s.raise v c eIllegalOp
  else
    let f := s.flags v
    let s := if bit w 107 then s.wr (.VAT_CTX_PS v c (bits w 106 101)) (f.zeroExtend 64) else s
    (s.wr (.VAT_FLAGS v) ((f &&& ~~~ BitVec.ofNat 4 (bits w 111 108)).zeroExtend 64)).nextPc v c

def execFlags (v : VatId) (c : CtxId) (s : State) : Host.Outcome State Fault Refusal :=
  .next (s.issue v c opFlags fun w s => s.flagsInsn v c w)

/-! SEED (R150). -/
def State.seedInsn (s : State) (v c w : Nat) : State :=
  let use := bit w 47
  let lvl := bits w 40 38
  if bits w 37 0 ≠ 0 || (use && (bits w 111 48 ≠ 0 || 4 < lvl)) then s.raise v c eIllegalOp
  else
    let seed : W64 := if use then s.ps v c (bits w 46 41) + BitVec.ofNat 64 (s.iter v c lvl) else BitVec.ofNat 64 (bits w 111 48)
    (s.seedGens v c seed).nextPc v c

def execSeed (v : VatId) (c : CtxId) (s : State) : Host.Outcome State Fault Refusal :=
  .next (s.issue v c opSeed fun w s => s.seedInsn v c w)

/-! WAGON (R139, R242, R249). -/

/-- Whether the Wagon can accept a batch on stream `i`: its queue has room, it is not stopped, and no tag of a kill is
still out (R249, R253, R269). -/
def State.wagonReady (s : State) (v i : Nat) : Bool :=
  (s.stream v i).queue.length < 4 && !(s.stream v i).stopped && !(s.vat v).killed

/-- The batch address of a WAGON: what its slot held when it issued (R161). -/
def State.wagonAddr (s : State) (v c w : Nat) : Nat :=
  match (s.vat v).hdrs.find? fun (h : Nat × Nat) => h.1 = c with
  | some h => h.2
  | none => (s.ps v c (bits w 111 106)).toNat % 2 ^ 48

/-- A WAGON waits for its stream's queue with the address it has read. -/
def State.wagonWait (s : State) (v c a : Nat) : State :=
  let x := s.vat v
  (s.setVat v { x with hdrs := (x.hdrs.filter fun (h : Nat × Nat) => h.1 ≠ c) ++ [(c, a)] }).waitOn v c 3

def State.wagonInsn (s : State) (v c w : Nat) : State :=
  let a := s.wagonAddr v c w
  let i := bits w 105 100
  if bits w 99 0 ≠ 0 || a % 64 ≠ 0 || s.get (.WAGON_STREAM_CFG v i) WAGON_STREAM_CFG.ENABLE = 0 then s.raise v c eIllegalOp
  else if !s.inHbm (s.part v) a 64 then s.raise v c eLayoutInvalid
  else if s.wagonReady v i then
    let t := s.stream v i
    ((s.setStream v i { t with queue := t.queue ++ [{ hdr := a, ctx := c }] }).dropHdr v c).nextPc v c
  else s.wagonWait v c a

def execWagon (v : VatId) (c : CtxId) (s : State) : Host.Outcome State Fault Refusal :=
  .next (s.issue v c opWagon fun w s => s.wagonInsn v c w)

/-! A fetch that fails (R113, R124, R514). -/

/-- `ecc`: the word at PC is uncorrectable. Else the fetch lies outside the region or its opcode is none of R123. -/
def State.badFetch (s : State) (v c : Nat) (ecc : Bool) : State :=
  if !s.canIssue v c then s
  else match s.fetch v c with
    | none => s.raise v c eIllegalOp
    | some w =>
      if ecc then s.raise v c eUncorrectable
      else if opcodes.contains (hOpc w) then s else s.raise v c eIllegalOp

def execIllegalOpcode (v : VatId) (c : CtxId) (ecc : Bool) (s : State) : Host.Outcome State Fault Refusal :=
  .next (s.badFetch v c ecc)

end Sys2Proof.Machine
end

