-- ==== Sys2Proof/Machine/Context.lean ====
section
/-! DEFINITION. Control of contexts: VAT_CTX_CTRL, pause, abort, context switch, the end of waits on batches, the end
of a kill's zeroing (R116-R118, R143, R148, R157-R159). -/

namespace Sys2Proof.Machine

/-- START (R158): PC at ENTRY; loop stack, kept marker, ERR and resume record empty; generators gen_seed(0, j). -/
def State.start (s : State) (v c : Nat) : State :=
  let s := (s.dropReq v c).clearPart v c
  let s := s.setPc v c (s.get (.VAT_CTX_PROG v c) VAT_CTX_PROG.ENTRY)
  let s := s.put (.VAT_CTX_STATUS v c) VAT_CTX_STATUS.DEPTH 0
  let s := s.put (.VAT_CTX_STATUS v c) VAT_CTX_STATUS.ERR 0
  let s := s.wr (.VAT_CTX_KEPT v c) 0
  let s := s.resetRegs (Reg.VAT_CTX_GEN v c 0 0).off (Reg.VAT_CTX_GEN v (c + 1) 0 0).off
  s.setCst v c csReady

/-- The PAUSE bit (R158). A context waiting for its batches after ABORT keeps waiting (R159). -/
def State.ctxPause (s : State) (v c : Nat) : State :=
  if (s.vat v).abortWait.contains c || (s.vat v).aborts.contains c then s
  else if s.cst v c = csRun then s.put (.VAT_CTX_CTRL v c) VAT_CTX_CTRL.PAUSE 1
  else s.pauseNow v c

/-- The ABORT bit (R158). -/
def State.ctxAbort (s : State) (v c : Nat) : State :=
  if s.cst v c = csRun then
    let x := s.vat v
    (s.setVat v { x with aborts := addOnce c x.aborts }).put (.VAT_CTX_CTRL v c) VAT_CTX_CTRL.PAUSE 0
  else s.abortNow v c

def ctxMayPause (st : Nat) : Bool := st = csReady || st = csRun || st = csWait
def ctxMayAbort (st : Nat) : Bool := st = csReady || st = csRun || st = csWait || st = csPaused
def ctxMayStart (st : Nat) : Bool := st = csEmpty || st = csHalted || st = csError

/-- A write to VAT_CTX_CTRL (R158, R159, R163): its effect and its result code. -/
def State.ctxCtrl (s : State) (v c : Nat) (val : W64) : State × Nat :=
  let st := s.cst v c
  if 2 ≤ VAT_CTX_CTRL.START.get val + VAT_CTX_CTRL.RESUME.get val + VAT_CTX_CTRL.ABORT.get val then (s, eCfgLocked)
  else
    let s := s.put (.VAT_CTX_CTRL v c) VAT_CTX_CTRL.PRIO (VAT_CTX_CTRL.PRIO.get val)
    let pause := VAT_CTX_CTRL.PAUSE.get val = 1
    let ok := (VAT_CTX_CTRL.START.get val = 0 || ctxMayStart st) && (VAT_CTX_CTRL.RESUME.get val = 0 || st = csPaused) &&
      (VAT_CTX_CTRL.ABORT.get val = 0 || ctxMayAbort st) && (!pause || ctxMayPause st)
    let s := if VAT_CTX_CTRL.START.get val = 1 && ctxMayStart st then s.start v c else s
    let s := if VAT_CTX_CTRL.RESUME.get val = 1 && st = csPaused then s.setCst v c csReady else s
    let s := if VAT_CTX_CTRL.ABORT.get val = 1 && ctxMayAbort st then s.ctxAbort v c
      else if pause && ctxMayPause st then s.ctxPause v c else s
    (s, if ok then eOk else eCfgLocked)

/-! The effects at the boundary. -/
def State.pauseEffect (s : State) (v c : Nat) : State :=
  if s.get (.VAT_CTX_CTRL v c) VAT_CTX_CTRL.PAUSE = 1 then s.atBoundary v c else s

def execCtxPauseEffect (v : VatId) (c : CtxId) (s : State) : Host.Outcome State Fault Refusal :=
  .next (s.pauseEffect v c)

def State.abortEffect (s : State) (v c : Nat) : State :=
  if (s.vat v).aborts.contains c then s.atBoundary v c else s

def execCtxAbortEffect (v : VatId) (c : CtxId) (s : State) : Host.Outcome State Fault Refusal :=
  .next (s.abortEffect v c)

/-! CONTEXT_SWITCH (R116-R118). -/
def State.prio (s : State) (v c : Nat) : Nat := s.get (.VAT_CTX_CTRL v c) VAT_CTX_CTRL.PRIO

/-- The READY context the sequencer takes: highest PRIO, then first in cyclic order after the one that ran last. -/
def State.chosen (s : State) (v : Nat) : Option Nat :=
  let order := [1, 2, 3, 4].map fun k => ((s.vat v).lastCtx + k) % 4
  order.foldl (fun best c =>
    if s.cst v c = csReady then
      match best with
      | some b => if s.prio v b < s.prio v c then some c else best
      | none => some c
    else best) none

/-- The running context of a Vat. -/
def State.running (s : State) (v : Nat) : Option Nat := [0, 1, 2, 3].find? fun c => s.cst v c = csRun

/-- Whether a context waits while its partition starts no other (R117). -/
def State.held (s : State) (v : Nat) : Bool := s.strict v && [0, 1, 2, 3].any fun c => s.cst v c = csWait

/-- A pause or an abort of a context waits for its boundary (R158). -/
def State.leaving (s : State) (v c : Nat) : Bool :=
  s.get (.VAT_CTX_CTRL v c) VAT_CTX_CTRL.PAUSE = 1 || (s.vat v).aborts.contains c

/-- The context a switch would take, where R116 has the sequencer select one; a pause or an abort of the running
context comes first. -/
def State.switchTo (s : State) (v : Nat) : Option Nat :=
  if (s.vat v).zeroing || s.vst v = vsFaulted || s.held v then none else
  match s.chosen v, s.running v with
  | some c, none => some c
  | some c, some r => if s.prio v r < s.prio v c && !s.leaving v r then some c else none
  | none, _ => none

/-- The switch: the outgoing context becomes READY, and the Mould carries nothing over (R85, R118). -/
def State.contextSwitch (s : State) (v : Nat) : State :=
  match s.switchTo v with
  | none => s
  | some c =>
    let s := match s.running v with
      | some r => (s.release (.insn v r)).setCst v r csReady
      | none => s
    let s := s.setVat v { s.vat v with mould := none, moulded := false }
    (s.perf (puVat v) 0x08 [0] 32).enterRun v c

def execContextSwitch (v : VatId) (s : State) : Host.Outcome State Fault Refusal :=
  .next (s.contextSwitch v)

/-! Waits on batches end (R143, R148, R158, R249). -/

/-- A context in WAIT_ON 2 or 3 whose condition now holds goes on. -/
def State.settleCtx (s : State) (v c : Nat) : State :=
  let why := s.get (.VAT_CTX_STATUS v c) VAT_CTX_STATUS.WAIT_ON
  if s.cst v c ≠ csWait then s
  else if (s.vat v).abortWait.contains c then if s.outstanding v c then s else s.halt v c 0xFFFF
  else match s.fetch v c with
    | none => s
    | some w =>
      if why = 2 && hOpc w = opHalt then if s.outstanding v c then s else s.haltDone v c w
      else if why = 2 then if s.outstanding v c then s else (s.wake v c).nextPc v c
      else if why = 3 then if s.wagonReady v (bits w 105 100) then (s.wake v c).wagonInsn v c w else s
      else s

/-- Every context of the Vat, in ascending order. -/
def State.settle (s : State) (v : Nat) : State := [0, 1, 2, 3].foldl (fun s c => s.settleCtx v c) s

/-! VAT_ZEROING_DONE (R102, R157). -/
def State.zeroingDone (s : State) (v : Nat) : State :=
  if (s.vat v).zeroing then
    let s := s.zeroCtxs v
    (s.setVat v { s.vat v with zeroing := false }).setVst v vsIdle
  else s

def execVatZeroingDone (v : VatId) (s : State) : Host.Outcome State Fault Refusal :=
  .next (s.zeroingDone v)

end Sys2Proof.Machine
end

