-- ==== Sys2Proof/Machine/Plates.lean ====
section
/-! DEFINITION. The Mould, the Plates and the checks: MOULD, PRESS, SEGMENT_VERDICT (R70-R100, R132, R133). -/

namespace Sys2Proof.Machine

/-! Verdicts (R92-R99). -/

/-- How a segment ends: its staged results commit; a lane was remapped and the segment is pressed again; the Vat
stopped. -/
inductive SegOut
  | commit | remap | stop
  deriving DecidableEq, Repr

def verdictOf (c : Check) : Verdict := check c.got c.ref c.t

/-- Tokens with a mismatch, with their Plates, in order. -/
def attBadTokens (a : Attempt) : List (Nat × Nat) :=
  (a.tokens.filter fun t => verdictOf t.2.2 = .mismatch).map fun t => (t.1, t.2.1.val)
/-- Lane positions with a mismatch, with their Plates, in order. -/
def attBadRows (a : Attempt) : List (Nat × Nat) :=
  (a.rows.filter fun r => verdictOf r.2.2 = .mismatch).map fun r => (r.2.1.val, r.1.val)
/-- Checks skipped for a non-finite T. -/
def attSkipped (a : Attempt) : Nat :=
  (a.tokens.filter fun t => verdictOf t.2.2 = .skipped).length + (a.rows.filter fun r => verdictOf r.2.2 = .skipped).length
/-- No check returns MISMATCH (R94). -/
def attPasses (a : Attempt) : Bool := (attBadTokens a).isEmpty && (attBadRows a).isEmpty
/-- The positions named, each once, ascending. -/
def attNamed (a : Attempt) : List Nat := (List.range 259).filter fun p => (attBadRows a).any fun r => r.1 = p
/-- TOKEN, POS and PLATE of VAT_CHK_LAST for this mismatch (R109). -/
def attInfo (a : Attempt) : Nat × Nat × Nat :=
  (((attBadTokens a).head?.map (·.1)).getD 0xFFFF, ((attNamed a).head?).getD 0x1FF, (((attBadTokens a) ++ (attBadRows a)).head?.map (·.2)).getD 0)

/-! Spare positions (R97, R98, R110): entry 0 drives position 257, entry 1 position 258. -/
def spValid (i : Nat) : Fld := if i = 0 then VAT_LANE_REMAP.S0_VALID else VAT_LANE_REMAP.S1_VALID
def spBad (i : Nat) : Fld := if i = 0 then VAT_LANE_REMAP.SP0_BAD else VAT_LANE_REMAP.SP1_BAD
def spPos (i : Nat) : Fld := if i = 0 then VAT_LANE_REMAP.S0_POS else VAT_LANE_REMAP.S1_POS

def spFree (w : W64) (i : Nat) : Bool := (spValid i).get w = 0 && (spBad i).get w = 0
/-- Spare positions neither in use nor bad. -/
def sparesFree (w : W64) : Nat := ([0, 1].filter (spFree w)).length

/-- Move the column of position `p` to the first free spare; of two free ones position 257 goes first, to the lowest
position named (log 143). -/
def toSpare (w : W64) (p : Nat) : W64 :=
  match [0, 1].find? (spFree w) with
  | some i => (spValid i).put ((spPos i).put w p) 1
  | none => w

/-- Retire position `p` in a remap table: a spare in use is marked bad and its column moves on (R97). -/
def retirePos (w : W64) (p : Nat) : W64 :=
  if p < 257 then toSpare w p
  else
    let i := p - 257
    let used := (spValid i).get w = 1
    let col := (spPos i).get w
    let w := (spBad i).put ((spValid i).put w 0) 1
    if used then toSpare w col else w

/-- Spares in use among the named positions are marked bad, their columns moved on while a spare is free (R97). -/
def State.markBad (s : State) (v : Nat) (ps : List Nat) : State :=
  s.wr (.VAT_LANE_REMAP v) ((ps.filter (257 ≤ ·)).foldl retirePos (s.rd (.VAT_LANE_REMAP v)))

/-- The position that serves logical column `j` (R72). -/
def laneOf (w : W64) (j : Nat) : Nat :=
  if (spValid 0).get w = 1 ∧ (spPos 0).get w = j then 257
  else if (spValid 1).get w = 1 ∧ (spPos 1).get w = j then 258 else j

/-- A lasting lane fault: each named position is remapped, recorded and logged (R98, R494). -/
def State.remap (s : State) (v : Nat) (ps : List Nat) : State :=
  ps.foldl (fun s p =>
    let s := s.wr (.VAT_LANE_REMAP v) (retirePos (s.rd (.VAT_LANE_REMAP v)) p)
    (s.retire 2 (s.phys v) p).log { code := eOk, cls := clsLane, verdict := 3, part := s.part v, unit := s.phys v, sub := p }) s

/-- The verdict of a segment from its checks and, on a mismatch, those of its retry (R94-R99). -/
def State.segVerdict (s : State) (v : Nat) (first again : Attempt) : State × SegOut :=
  let s := s.bump (.VAT_CHK_STAT v) VAT_CHK_STAT.SKIPPED (attSkipped first)
  if (attPasses first) then (s, .commit)
  else
    let s := (s.bump (.VAT_CHK_STAT v) VAT_CHK_STAT.SKIPPED (attSkipped again)).perf (puVat v) 0x12 [0] 1
    if (attPasses again) then
      let (t, p, q) := attInfo first
      (s.transient v t p q (attInfo again).2.1, .commit)
    else
      let (t, p, q) := (attInfo again)
      let ps := (attNamed again)
      if ps.isEmpty then (s.lastingStop v clsVat t p 2 q, .stop)
      else if 2 < ps.length || sparesFree (s.rd (.VAT_LANE_REMAP v)) < ps.length then
        ((s.markBad v ps).lastingStop v clsVat t p 3 q, .stop)
      else (((s.bump (.VAT_CHK_STAT v) VAT_CHK_STAT.LASTING).chkLast v t p 1 q).remap v ps, .remap)

/-- Set one Curd entry. -/
def State.setCurd (s : State) (v slot col : Nat) (x : W32) : State :=
  { s with curd := Tab.set zero32 s.curd (curdKey v slot col) x }

/-- Commit one staged result (R41, R65, R86). -/
def State.commitOne (s : State) (v : Nat) (w : SegWrite) : State :=
  let old := Tab.get zero32 s.curd (curdKey v w.slot w.col)
  match w.how.val with
  | 0 => s.setCurd v w.slot w.col w.val
  | 1 =>
    let (r, f) := fAdd old w.val
    (s.setCurd v w.slot w.col r).joinFlags v f
  | 2 => (s.setCurd v w.slot w.col w.val).setCurd v ((w.slot.val + 1) % 4096) w.col 0
  | _ =>
    let (r, e, f) := twoSum old w.val
    let (z, g) := fAdd (Tab.get zero32 s.curd (curdKey v ((w.slot.val + 1) % 4096) w.col)) e
    ((s.setCurd v w.slot w.col r).setCurd v ((w.slot.val + 1) % 4096) w.col z).joinFlags v (f ||| g)

/-- A pressed segment's results are staged until its verdict (R81). -/
def State.stage (s : State) (v : Nat) (g : Segment) : State :=
  s.setVat v { s.vat v with staged := (s.vat v).staged ++ [g] }

/-- The oldest staged segment has its verdict: its results commit, or are discarded. -/
def State.verdict (s : State) (v : Nat) : State :=
  match (s.vat v).staged with
  | [] => s
  | g :: gs =>
    let s := s.setVat v { s.vat v with staged := gs }
    match s.segVerdict v g.first g.again with
    | (s, .commit) => (g.writes.foldl (fun s w => s.commitOne v w) s).joinFlags v g.flags
    | (s, _) => s

/-- A segment that has been pressed reaches its verdict. -/
def State.segment (s : State) (v : Nat) (g : Segment) : State :=
  if s.canIssue v g.ctx then (s.stage v g).verdict v else s

def execSegmentVerdict (v : VatId) (seg : Segment) (s : State) : Host.Outcome State Fault Refusal :=
  .next (s.segment v seg)

/-! Mould loads (R73-R76). -/

/-- The multiplier format of a weight format (R36). -/
def multFmt (fmt : Nat) : Nat := if fmt = fFP16 then fFP16 else fBF16

/-- The 256 elements of a weight row (R37, R49). -/
def weightElems (fmt : Nat) (row : List Byte) : List W16 :=
  if fmt = fC8 then CFmt.c8.unpack row else if fmt = fC6 then CFmt.c6.unpack row
  else if fmt = fC4 then CFmt.c4.unpack row else elems16 row

/-- Hold positions from `kv` on at +0 (R75). -/
def holdK (kv : Nat) (col : List W16) : List W16 := sliceD 0 (col.take kv) 0 256

/-- The columns of a tile from its rows (R74, R75). -/
def tileCols (fmt : Nat) (trn : Bool) (nv kv : Nat) (rows : List (List Byte)) : List (List W16) :=
  let es := rows.map (weightElems fmt)
  if trn then (List.range nv).map fun j => holdK kv (es.map fun e => e.getD j 0)
  else es.map (holdK kv)

/-- Load a tile from its rows: `cols` makes the columns from the rows read. -/
def Acc.loadWith (a : Acc) (fmt kv : Nat) (rows : List Nat) (cols : List (List Byte) → List (List W16)) : Acc :=
  let a := a.on fun s => s.setVat a.v { s.vat a.v with mould := none }
  let (a, data) := a.reads portMould rows
  if !a.live then a
  else a.on fun s =>
    (s.setVat a.v { s.vat a.v with mould := some { fmt := multFmt fmt, kv := kv, cols := cols data } }).perf (puVat a.v) 0x02 [0] 256

/-- Load a tile of weights: `row j` is the row of column (TRN = 0) or position (TRN = 1) `j`. -/
def Acc.load (a : Acc) (fmt : Nat) (trn : Bool) (nv kv : Nat) (row : Nat → Nat) : Acc :=
  a.loadWith fmt kv ((List.range (if trn then kv else nv)).map row) (tileCols fmt trn nv kv)

/-! Checks of a pressing (R76, R80, R92, R93). -/

/-- c[k] or a[k]: the pairwise sums over the columns (R76). -/
def chkCol (m : Mould) (abs : Bool) : List W32 :=
  let cols := m.cols.map fun c => c.map fun e => let x := widen (fpOf m.fmt) e; if abs then fAbs x else x
  (List.range 256).map fun k => (treeSum 8 (sliceD 0 (cols.map fun c => c.getD k 0) 0 256)).1

/-- One Plate's vector s or s_a over its tokens (R80). -/
def rowVec (xs : List (List W32)) : List W32 :=
  (List.range 256).map fun k => seqSum (xs.map fun x => x.getD k 0)

/-- The checks of a segment: tokens `t0` on with activations `xs` and lane outputs `outs`, under remap table `rt`. -/
def segChecks (m : Mould) (rt : W64) (t0 : Nat) (xs : List (List W16)) (outs : List (List W32)) : Attempt :=
  let c := chkCol m false
  let ca := chkCol m true
  let ws := xs.map fun x => x.map (widen (fpOf m.fmt))
  let couts := ws.map fun x => mixDot m.kv c x
  let tokens := (List.range xs.length).map fun i =>
    (t0 + i, Fin.ofNat 4 i,
     { got := (treeSum 8 (sliceD 0 (outs.getD i []) 0 256)).1, ref := couts.getD i 0,
       t := mixDot m.kv ca ((ws.getD i []).map fAbs) : Check })
  let rows := [0, 1, 2, 3].flatMap fun q =>
    let is := (List.range xs.length).filter fun i => i % 4 = q
    if is.isEmpty then [] else
    let sv := rowVec (is.map fun i => ws.getD i [])
    let sa := rowVec (is.map fun i => (ws.getD i []).map fAbs)
    let one := fun (pos : Nat) (col : List W32) (ys : List W32) =>
      (Fin.ofNat 4 q, Fin.ofNat 259 pos,
       { got := seqSum ys, ref := mixDot m.kv col sv, t := mixDot m.kv (col.map fAbs) sa : Check })
    (List.range m.cols.length).map (fun j =>
      one (laneOf rt j) ((m.cols.getD j []).map (widen (fpOf m.fmt))) (is.map fun i => (outs.getD i []).getD j 0))
    ++ [one (laneOf rt 256) c (is.map fun i => couts.getD i 0)]
  { tokens := tokens, rows := rows }

/-! Pressings (R78, R79, R86). -/

/-- How results commit (R133): 0 store, 1 add, 2 store S with E = +0, 3 TwoSum add. -/
def pairCommit (how : Nat) : Bool := how = 2 || how = 3

/-- Slots per token (R82). -/
def slotWidth (pair : Bool) : Nat := if pair then 2 else 1

/-- Commit one token's lane outputs to its slot (R41, R65, R86); `slot` holds the sum, the next slot the error. -/
def State.commitTok (s : State) (v slot how : Nat) (out : List W32) : State :=
  let full := sliceD 0 out 0 256
  if how = 0 then s.setCurdRow v slot full
  else if how = 2 then (s.setCurdRow v slot full).setCurdRow v (slot + 1) (List.replicate 256 0)
  else
    let old := (s.curdRow v slot).take out.length
    if how = 1 then
      let (ys, f) := zipF fAdd old out
      ({ s with curd := Tab.setAll zero32 s.curd (curdKey v slot 0) ys }).joinFlags v f
    else
      let err := (s.curdRow v (slot + 1)).take out.length
      let ts : List (W32 × W32 × Flags) := List.zipWith twoSum old out
      let (es, g) := zipF fAdd err (ts.map fun (t : W32 × W32 × Flags) => t.2.1)
      let s := { s with curd := Tab.setAll zero32 s.curd (curdKey v slot 0) (ts.map Prod.fst) }
      let s := { s with curd := Tab.setAll zero32 s.curd (curdKey v (slot + 1) 0) es }
      s.joinFlags v (ts.foldl (fun f (t : W32 × W32 × Flags) => f ||| t.2.2) g)

/-- Lane outputs of one token: the valid columns (R40, R84). -/
def lanes (m : Mould) : List (List W16) → List W16 → List W32 × Flags
  | [], _ => ([], 0)
  | c :: cs, x =>
    let (y, f) := laneDot (fpOf m.fmt) m.kv c x
    let (ys, g) := lanes m cs x
    (y :: ys, f ||| g)

/-- The verdict of a pressed segment; a remap presses it again with the same operands. -/
def Acc.verdict (a : Acc) (m : Mould) (t0 : Nat) (xs : List (List W16)) (outs : List (List W32)) : Nat → Acc
  | 0 => a
  | n + 1 =>
    let at_ := segChecks m (a.s.rd (.VAT_LANE_REMAP a.v)) t0 xs outs
    match a.s.segVerdict a.v at_ at_ with
    | (s, .commit) => { a with s := s }
    | (s, .remap) => Acc.verdict { a with s := s } m t0 xs outs n
    | (s, .stop) => { a with s := s, stop := true }

/-- One segment: tokens `t0` on at rows `rows`; `xOf` takes a row's activations, `commit` commits the outputs of the
segment's i-th token. -/
def Acc.segment (a : Acc) (m : Mould) (t0 : Nat) (rows : List Nat) (xOf : List Byte → List W16)
    (commit : Nat → List W32 → State → State) : Acc :=
  let (a, data) := a.reads portPlate rows
  if !a.live then a else
  let xs := data.map xOf
  let res := xs.map (lanes m m.cols)
  let outs := res.map (·.1)
  let a := if a.chk then a.verdict m t0 xs outs 3 else a
  if !a.live then a else
  let a := a.on fun s => (List.range outs.length).foldl (fun s i => commit i (outs.getD i []) s) s
  a.flag (res.foldl (fun f r => f ||| r.2) 0)

/-- Split a list into runs of `n`, each with its offset. -/
def runsOf {α : Type} (n : Nat) : Nat → Nat → List α → List (Nat × List α)
  | 0, _, _ => []
  | _, _, [] => []
  | k + 1, o, xs => (o, xs.take n) :: runsOf n k (o + n) (xs.drop n)

/-- A pressing of the loaded tile over the tokens' rows in order; `t0` is the first token. -/
def Acc.pressWith (a : Acc) (t0 : Nat) (rows : List Nat) (xOf : List Byte → List W16)
    (commit : Nat → List W32 → State → State) : Acc :=
  match (a.s.vat a.v).mould with
  | none => a
  | some m =>
    let len := if a.chk then 252 else 256
    let p := (rows.length + 3) / 4
    let a := a.each (runsOf len rows.length 0 rows) fun a g =>
      a.segment m (t0 + g.1) g.2 xOf fun i out s => commit (g.1 + i) out s
    a.on fun s => (s.perf (puVat a.v) 0x01 [0] p).perf (puVat a.v) 0x03 [0] (if a.chk then (p + 62) / 63 else 0)

/-- A pressing into Curd slots from `slot` on. -/
def Acc.press (a : Acc) (how slot t0 : Nat) (rows : List Nat) : Acc :=
  a.pressWith t0 rows elems16 fun i out s => s.commitTok a.v (slot + slotWidth (pairCommit how) * i) how out

/-! MOULD (R132). -/
def mouldFmtOk (fmt : Nat) : Bool := fmt = fBF16 || fmt = fFP16 || fmt = fC8 || fmt = fC6 || fmt = fC4
def isC (fmt : Nat) : Bool := fmt = fC8 || fmt = fC6 || fmt = fC4

def moWp (w : Nat) : Nat := bits w 111 106
def moNv (w : Nat) : Nat := bits w 105 97
def moKv (w : Nat) : Nat := bits w 96 88

/-- What a MOULD meets at issue. -/
def mouldErr (w : Nat) (l : Slots) : Nat :=
  firstErr
    [(bits w 87 0 ≠ 0 || moNv w = 0 || 256 < moNv w || moKv w = 0 || 256 < moKv w || !ptrOk (l.val (moWp w)), eIllegalOp),
     (!mouldFmtOk (hFmt w) || (hTrn w && isC (hFmt w)), eFormatInvalid)]

/-- A MOULD up to its end. -/
def State.mouldRun (s : State) (v c : Nat) (run : Run) (w : Nat) : Acc :=
  let l := s.readSlots v c [moWp w]
  let p := s.ptr v c l (moWp w)
  let a := { s := s, v := v, c := c, run := run, slots := l : Acc }.faultsNow
  let a := if a.live then a.load (hFmt w) (hTrn w) (moNv w) (moKv w) fun j => p.wt 0 j else a
  if a.live then a.on fun s => s.setVat v { s.vat v with moulded := true } else a

def State.mouldInsn (s : State) (v c : Nat) (run : Run) (w : Nat) : State :=
  let e := mouldErr w (s.readSlots v c [moWp w])
  if e ≠ 0 then s.raise v c e else (s.mouldRun v c run w).finish v c

def execMould (v : VatId) (c : CtxId) (run : Run) (s : State) : Host.Outcome State Fault Refusal :=
  .next (s.issue v c opMould fun w s => s.mouldInsn v c run w)

/-! PRESS (R133). -/
def prXp (w : Nat) : Nat := bits w 111 106
def prCount (w : Nat) : Nat := bits w 105 93
def prSlot (w : Nat) : Nat := bits w 92 81
def prHow (w : Nat) : Nat := bits w 80 79

/-- What a PRESS meets at issue. -/
def State.pressErr (s : State) (v c w : Nat) (l : Slots) : Nat :=
  let mf := ((s.vat v).mould.map (·.fmt)).getD 16
  firstErr
    [(bits w 78 0 ≠ 0 || prCount w = 0 || 4096 < prCount w ||
        s.share v c / slotWidth (pairCommit (prHow w)) < prSlot w + prCount w || !ptrOk (l.val (prXp w)) ||
        !(s.vat v).moulded || (s.vat v).mould.isNone, eIllegalOp),
     (hFmt w ≠ mf, eFormatInvalid)]

/-- A PRESS up to its end. -/
def State.pressRun (s : State) (v c : Nat) (run : Run) (w : Nat) : Acc :=
  let l := s.readSlots v c [prXp w]
  let p := s.ptr v c l (prXp w)
  let a := { s := s, v := v, c := c, run := run, slots := l, chk := s.checksOn v (hChk w) : Acc }.faultsNow
  if a.live then
    a.press (prHow w) (s.shareBase v c + slotWidth (pairCommit (prHow w)) * prSlot w) 0
      ((List.range (prCount w)).map fun t => p.tok 0 t 1 0)
  else a

def State.pressInsn (s : State) (v c : Nat) (run : Run) (w : Nat) : State :=
  let e := s.pressErr v c w (s.readSlots v c [prXp w])
  if e ≠ 0 then s.raise v c e else (s.pressRun v c run w).finish v c

def execPress (v : VatId) (c : CtxId) (run : Run) (s : State) : Host.Outcome State Fault Refusal :=
  .next (s.issue v c opPress fun w s => s.pressInsn v c run w)

end Sys2Proof.Machine
end

