-- ==== Sys2Proof/Machine/Drain.lean ====
section
/-! DEFINITION. The drain path through the Rind unit: DRAIN and DRAIN_FILL (R51, R58, R87, R128, R134). -/

namespace Sys2Proof.Machine

/-- What a drain does to each element (R128), its output format and rounding, and its planes' row pointers. -/
structure Drain where
  fmt : Nat
  scale : W32
  act : Nat
  bias : Option Ptr
  md : Conv
  pair : Bool
  out : Ptr
  out2 : Ptr
  deriving DecidableEq, Repr

/-- Output formats of R35. -/
def outFmtOk (fmt : Nat) : Bool := fmt = fBF16 || fmt = fFP16 || fmt = fFP32 || fmt = fPAIR16 || fmt = fFP32PAIR

/-- Rows per token and plane (R127). -/
def rowsPerTok (fmt : Nat) : Nat := if fmt = fFP32 || fmt = fFP32PAIR then 2 else 1

/-- A second plane follows in the next slot (R127). -/
def twoPlanes (fmt : Nat) : Bool := fmt = fPAIR16 || fmt = fFP32PAIR

/-- One accumulator through scale, bias and activation (R128); `b` is the bias, where there is one. -/
def finishElem (scale : W32) (act : Nat) (x : W32) (b : Option W32) : W32 × Flags :=
  let (y, f) := fMul scale x
  let (y, g) := match b with
    | some b => fAdd y b
    | none => (y, 0)
  let (y, h) := actFn act y
  (y, f ||| g ||| h)

/-- A list of accumulators through `finishElem`. -/
def finishRow (scale : W32) (act : Nat) (bs : Option (List W32)) (xs : List W32) : List W32 × Flags :=
  let ys := (List.range xs.length).map fun j => finishElem scale act (xs.getD j 0) (bs.map fun l => l.getD j 0)
  (ys.map Prod.fst, ys.foldl (fun f (y : W32 × Flags) => f ||| y.2) 0)

/-- The two rows of 128 FP32 elements of 256 columns, as they leave (R58, R87). -/
def rows32 (xs : List W32) : List (List Byte) :=
  let ys := sliceD 0 (xs.map leave32) 0 256
  [bytes32 (ys.take 128), bytes32 (ys.drop 128)]

/-- Write the rows of one plane of token `t` in chunk `ch`. -/
def Acc.writeTok (a : Acc) (p : Ptr) (ch t : Nat) (rows : List (List Byte)) : Acc :=
  a.each (List.range rows.length) fun a r => a.write portDrain (p.tok ch t rows.length r) (rows.getD r [])

/-- Convert a row of results to BF16 or FP16 by the conversion's mode; column `j` steps generator `j` (R53-R56). -/
def Acc.convert (a : Acc) (fmt : Nat) (md : Conv) (j : Nat) (xs : List W32) : Acc × List W16 :=
  let (hs, f, s) := a.s.cvtRow a.v a.c (fpOf fmt) md j xs
  ({ a with s := s }.flag f, hs)

/-- Drain one token: `slot` is its Curd slot, `nv` the valid columns; columns beyond are written as +0 (R87). -/
def Acc.drainTok (a : Acc) (d : Drain) (bs : Option (List W32)) (nv ch t slot : Nat) : Acc :=
  let sums := (a.s.curdRow a.v slot).take nv
  let errs := (a.s.curdRow a.v (slot + 1)).take nv
  if d.pair && d.fmt = fFP32PAIR then
    let (ss, f) := finishRow d.scale 0 none sums
    let (es, g) := finishRow d.scale 0 none errs
    ((a.flag (f ||| g)).writeTok d.out ch t (rows32 ss)).writeTok d.out2 ch t (rows32 es)
  else
    let (xs, f) := if d.pair then zipF fAdd sums errs else (sums, 0)
    let (ys, g) := finishRow d.scale d.act bs xs
    let a := a.flag (f ||| g)
    if d.fmt = fFP32 then a.writeTok d.out ch t (rows32 ys)
    else if d.fmt = fPAIR16 then
      let ps := ys.map pairSplit
      let a := a.flag (ps.foldl (fun f (p : W16 × W16 × Flags) => f ||| p.2.2) 0)
      let plane := fun (hs : List W16) => [bytes16 (sliceD 0 hs 0 256)]
      (a.writeTok d.out ch t (plane (ps.map fun (p : W16 × W16 × Flags) => p.1))).writeTok d.out2 ch t
        (plane (ps.map fun (p : W16 × W16 × Flags) => p.2.1))
    else
      let (a, hs) := a.convert d.fmt d.md 0 ys
      a.writeTok d.out ch t [bytes16 (sliceD 0 hs 0 256)]

/-- The bias of N-chunk `ch`, as many elements as are valid (R127). -/
def Acc.biasOf (a : Acc) (d : Drain) (nv ch : Nat) : Acc × Option (List W32) :=
  match d.bias with
  | none => (a, none)
  | some p =>
    let (a, rs) := a.reads portDrain ((List.range ((nv + 127) / 128)).map fun r => p.e + ch * p.p.cstride + r)
    (a, some (rs.flatMap elems32))

/-- Drain tokens `t0` to `t1 - 1` of chunk `ch`; `base` is the Curd slot of token `tb`. -/
def Acc.drainToks (a : Acc) (d : Drain) (nv ch base tb t0 t1 : Nat) : Acc :=
  let (a, bs) := a.biasOf d nv ch
  a.each ((List.range (t1 - t0)).map (t0 + ·)) fun a t => a.drainTok d bs nv ch t (base + slotWidth d.pair * (t - tb))

/-- A drain clears the context's kept marker (R130). -/
def Acc.unkeep (a : Acc) : Acc := a.on fun s => s.wr (.VAT_CTX_KEPT a.v a.c) 0

/-- Set the kept marker (R130, R134). -/
def Acc.keep (a : Acc) (m mode : Nat) : Acc :=
  a.on fun s =>
    let w := VAT_CTX_KEPT.M.put 0 m
    s.wr (.VAT_CTX_KEPT a.v a.c) (VAT_CTX_KEPT.VALID.put (VAT_CTX_KEPT.MODE.put w mode) 1)

/-! The fields of DRAIN (R134). -/
def drYp (w : Nat) : Nat := bits w 111 106
def drSp (w : Nat) : Nat := bits w 105 100
def drBp (w : Nat) : Nat := bits w 99 94
def drBias (w : Nat) : Bool := bit w 93
def drAct (w : Nat) : Nat := bits w 92 89
def drRtz (w : Nat) : Bool := bit w 88
def drFill (w : Nat) : Bool := bit w 87
def drPair (w : Nat) : Bool := bit w 86
def drSlot (w : Nat) : Nat := bits w 85 74
def drCount (w : Nat) : Nat := bits w 73 61

/-- The slots a DRAIN reads (R127, R134, R171). -/
def drSlots (w : Nat) : List Nat :=
  let ys := if twoPlanes (hFmt w) then [drYp w, drYp w + 1] else [drYp w]
  if drFill w then ys else ys ++ [drSp w] ++ if drBias w then [drBp w] else []

/-- Formats of DRAIN (R65, R134). -/
def drFmtOk (w : Nat) : Bool :=
  if drFill w then hFmt w = (if drPair w then fFP32PAIR else fFP32)
  else if drPair w then hFmt w = fFP32 || hFmt w = fFP32PAIR
  else outFmtOk (hFmt w) && hFmt w ≠ fFP32PAIR

/-- What a DRAIN meets at issue. With FILL it reads no bias and rounds nothing; ACT and the rounding bits must be legal
still (log 146). -/
def State.drainErr (s : State) (v c w : Nat) (l : Slots) : Nat :=
  firstErr
    [(bits w 60 0 ≠ 0 || drCount w = 0 || 4096 < drCount w || 5 < drAct w || (hSr w && drRtz w) ||
        (drSlots w).any (63 < ·) || !ptrOk (l.val (drYp w)) || (twoPlanes (hFmt w) && !ptrOk (l.val (drYp w + 1))) ||
        (drBias w && !drFill w && !ptrOk (l.val (drBp w))) || (drPair w && (drAct w ≠ 0 || drBias w)) ||
        s.share v c / slotWidth (drPair w) < drSlot w + drCount w, eIllegalOp),
     (!drFmtOk w, eFormatInvalid)]

/-- Runs of at most 1,024 tokens from `t` on, the boundaries of a DRAIN (R85). -/
def drainRuns (t n : Nat) : List (Nat × Nat) :=
  (List.range ((n - t + 1023) / 1024)).map fun k => (t + 1024 * k, min n (t + 1024 * k + 1024))

/-- Runs with a boundary after each but the last; `f` does one. -/
def Acc.inRuns (a : Acc) (n : Nat) (runs : List (Nat × Nat)) (f : Acc → Nat × Nat → Acc) : Acc :=
  a.each runs fun a r =>
    let a := f a r
    if r.2 < n then a.boundary r.2 0 0 0 else a

/-- A DRAIN without FILL up to its end. -/
def State.drainRun (s : State) (v c : Nat) (run : Run) (w : Nat) : Acc :=
  let l := s.readSlots v c (drSlots w)
  let d : Drain := { fmt := hFmt w, scale := l.scalar (drSp w), act := drAct w,
                     bias := if drBias w then some (s.ptr v c l (drBp w)) else none,
                     md := { sr := hSr w, rtz := drRtz w }, pair := drPair w,
                     out := s.ptr v c l (drYp w), out2 := s.ptr v c l (drYp w + 1) }
  let a := ({ s := s, v := v, c := c, run := run, slots := l : Acc }.unkeep).faultsNow
  let base := s.shareBase v c + slotWidth (drPair w) * drSlot w
  a.inRuns (drCount w) (drainRuns (s.resumeAt v c).1 (drCount w)) fun a r => a.drainToks d 256 0 base 0 r.1 r.2

def State.drainInsn (s : State) (v c : Nat) (run : Run) (w : Nat) : State :=
  let e := s.drainErr v c w (s.readSlots v c (drSlots w))
  if e ≠ 0 then s.raise v c e else (s.drainRun v c run w).finish v c

def execDrain (v : VatId) (c : CtxId) (run : Run) (s : State) : Host.Outcome State Fault Refusal :=
  .next (s.issue v c opDrain (fun w s => s.drainInsn v c run w) fun w => !drFill w)

/-- Fill the slot `slot` from one plane of token `t` (R134). -/
def Acc.fillSlot (a : Acc) (p : Ptr) (t slot : Nat) : Acc :=
  let (a, rs) := a.reads portDrain [p.tok 0 t 2 0, p.tok 0 t 2 1]
  if a.live then a.on fun s => s.setCurdRow a.v slot (rs.flatMap elems32) else a

/-- A DRAIN with FILL set up to its end. -/
def State.fillRun (s : State) (v c : Nat) (run : Run) (w : Nat) : Acc :=
  let l := s.readSlots v c (drSlots w)
  let p := s.ptr v c l (drYp w)
  let q := s.ptr v c l (drYp w + 1)
  let base := s.shareBase v c + slotWidth (drPair w) * drSlot w
  let one := fun (a : Acc) (t : Nat) =>
    let a := a.fillSlot p t (base + slotWidth (drPair w) * t)
    if drPair w && a.live then a.fillSlot q t (base + 2 * t + 1) else a
  let a := { s := s, v := v, c := c, run := run, slots := l : Acc }.faultsNow
  let a := a.inRuns (drCount w) (drainRuns (s.resumeAt v c).1 (drCount w)) fun a r =>
    a.each ((List.range (r.2 - r.1)).map (r.1 + ·)) one
  if a.live then a.keep (drCount w) (if drPair w then 1 else 0) else a

def State.fillInsn (s : State) (v c : Nat) (run : Run) (w : Nat) : State :=
  let e := s.drainErr v c w (s.readSlots v c (drSlots w))
  if e ≠ 0 then s.raise v c e else (s.fillRun v c run w).finish v c

def execDrainFill (v : VatId) (c : CtxId) (run : Run) (s : State) : Host.Outcome State Fault Refusal :=
  .next (s.issue v c opDrain (fun w s => s.fillInsn v c run w) drFill)

end Sys2Proof.Machine
end

