-- ==== Sys2Proof/Machine/Skim.lean ====
section
/-! DEFINITION. The Skim path (R138, R218-R223). -/

namespace Sys2Proof.Machine

/-- A group check of an engine fails once, or again (R221): counts, the event record, retirement of the bank. `row` is
the row the record names, for a group found here its first (log 144). -/
def Acc.skimFault (a : Acc) (row : Nat) (again : Bool) : Acc :=
  if !a.chk then a
  else if !again then a.on fun s => (s.bump (.SKIM_STAT a.v) SKIM_STAT.TRANSIENT).lastErr a.v 4 row
  else
    let a := a.on fun s =>
      ((s.bump (.SKIM_STAT a.v) SKIM_STAT.LASTING).lastErr a.v 5 row).bankRetire a.v (bankOf row) clsSkim
    if a.s.isWithdrawn a.v (bankOf row) then a.fail eBankUnclaimed else a

/-- The faults of a run on the Skim path. -/
def Acc.skimFaults (a : Acc) : Acc :=
  a.each a.run.faults fun a f => match f.2 with
    | .skim b r again => a.skimFault (b.val * 1024 + r.val) again
    | f => a.fault f

/-- K-chunks of a product, and the valid positions of one (R38, R41). -/
def kChunks (k : Nat) : Nat := (k + 255) / 256
def kValid (k kc : Nat) : Nat := min 256 (k - 256 * kc)

/-- The vector load: each token's activation chunks (R219). -/
def Acc.skimLoad (a : Acc) (m k : Nat) (row : Nat → Nat → Nat) : Acc × List (List (List W16)) :=
  (List.range m).foldl (fun (p : Acc × List (List (List W16))) t =>
    let (a, rs) := p.1.reads portSkim ((List.range (kChunks k)).map fun kc => row kc t)
    (a, p.2 ++ [rs.map elems16])) (a, [])

/-- The group checks of one K-chunk: rows with their elements, the tokens' vectors, their dot products (R221). -/
def Acc.skimCheck (a : Acc) (f : FpFmt) (kv : Nat) (rows : List (Nat × List W16)) (xs : List (List W16)) : Acc :=
  let groups := (banksOf (rows.map Prod.fst)).flatMap fun b =>
    let rs := rows.filter fun (r : Nat × List W16) => bankOf r.1 = b
    (runsOf 63 rs.length 0 rs).map Prod.snd
  a.each groups fun a g =>
    let es := g.map fun (r : Nat × List W16) => r.2.map (widen f)
    let c := rowVec es
    let ca := rowVec (es.map fun e => e.map fAbs)
    a.each xs fun a x =>
      let wx := x.map (widen f)
      let outs := g.map fun (r : Nat × List W16) => (laneDot f kv r.2 x).1
      match check (seqSum outs) (mixDot kv c wx) (mixDot kv ca (wx.map fAbs)) with
      | .pass => a
      | .skipped => a.on fun s => s.bump (.SKIM_STAT a.v) SKIM_STAT.SKIPPED
      | .mismatch => a.skimFault ((g.head?.map Prod.fst).getD 0) true

/-- One K-chunk: the dot products of each token with each row, in row order. -/
def Acc.skimChunk (a : Acc) (f : FpFmt) (kv : Nat) (rows : List Nat) (xs : List (List W16)) : Acc × List (List W32) :=
  let (a, data) := a.reads portSkim rows
  if !a.live then (a, []) else
  let es := data.map elems16
  let a := if a.chk then a.skimCheck f kv (rows.zip es) xs else a
  if !a.live then (a, []) else
  let a := a.on fun s => s.perf (puCellar a.v) 0x05 [0] (xs.length * rows.length)
  let ds := xs.map fun x => es.map fun e => laneDot f kv e x
  let fl := (ds.flatMap id).foldl (fun g (d : W32 × Flags) => g ||| d.2) 0
  (a.flag fl, ds.map fun l => l.map Prod.fst)

/-- Outputs `os` of every token: chunk results added in ascending K order (R41, R219). -/
def Acc.skimDots (a : Acc) (fmt k : Nat) (wrow : Nat → Nat → Nat) (os : List Nat) (xs : List (List (List W16))) :
    Acc × List (List W32) :=
  (List.range (kChunks k)).foldl (fun (p : Acc × List (List W32)) kc =>
    if !p.1.live then p else
    let (a, ds) := p.1.skimChunk (fpOf fmt) (kValid k kc) (os.map (wrow kc)) (xs.map fun x => x.getD kc [])
    if kc = 0 || !a.live then (a, ds)
    else
      let sums := List.zipWith (zipF fAdd) p.2 ds
      (a.flag (sums.foldl (fun f (z : List W32 × Flags) => f ||| z.2) 0), sums.map Prod.fst)) (a, [])

/-! The fields of SKIM (R138). -/
def skWp (w : Nat) : Nat := bits w 111 106
def skXp (w : Nat) : Nat := bits w 105 100
def skYp (w : Nat) : Nat := bits w 99 94
def skM (w : Nat) : Nat := bits w 93 90 + 1
def skK (w : Nat) : Nat := bits w 89 77
def skN (w : Nat) : Nat := bits w 76 61 + 1

/-- Whether any of the rows lies in a bank being copied to a spare (R222, R223). -/
def State.copying (s : State) (v : Nat) (rows : List Nat) : Bool :=
  ([0, 1, 2, 3].any fun i => s.get (.CELLAR_BANK_MAP v) (bmCopying i) = 1) &&
    rows.any fun r => (s.copyOf v (bankOf r)).isSome

/-- Write the result rows of outputs `o0` to `o1 - 1` (R138, R219): whole rows, +0 beyond the last output. A row that a
part-done SKIM left holds the outputs before `o0`, which stay (log 109). -/
def Acc.skimWrite (a : Acc) (y : Ptr) (o0 o1 : Nat) (sums : List (List W32)) : Acc :=
  a.each (List.range sums.length) fun a t =>
    a.each ((List.range ((o1 + 127) / 128)).filter (o0 / 128 ≤ ·)) fun a k =>
      let row := y.e + t * y.p.cstride + k
      let done := o0 - 128 * k
      let (a, old) := if done = 0 then (a, []) else a.read portSkim row
      let new := (((sums.getD t []).map leave32).drop (128 * k - o0)).take (128 - done)
      a.write portSkim row (bytes32 (sliceD 0 ((elems32 old).take done ++ new) 0 128))

/-- The slots a SKIM reads. -/
def skSlots (w : Nat) : List Nat := [skWp w, skXp w, skYp w]

/-- What a SKIM meets at issue. -/
def skimErr (w : Nat) (l : Slots) : Nat :=
  firstErr
    [(bits w 60 0 ≠ 0 || skK w = 0 || 4096 < skK w || !ptrOk (l.val (skWp w)) || !ptrOk (l.val (skXp w)) ||
        !ptrOk (l.val (skYp w)), eIllegalOp),
     (hFmt w ≠ fBF16 && hFmt w ≠ fFP16, eFormatInvalid)]

/-- The end of the outputs that an issue on the Skim path makes from `o0` on, of `n`: the boundary it leaves at, which
may follow any completed output (R85), or the last. -/
def State.skimEnd (s : State) (v c : Nat) (run : Run) (o0 n : Nat) : Nat :=
  match run.leave with
  | some b => if s.due v c && o0 + b + 1 < n then o0 + b + 1 else n
  | none => n

/-- The outputs this issue makes. -/
def State.skimOuts (s : State) (v c : Nat) (run : Run) (w : Nat) : Nat × Nat :=
  let o0 := (s.resumeAt v c).1
  (o0, s.skimEnd v c run o0 (skN w))

/-- The weight rows of outputs `o0` to `o1 - 1`. -/
def State.skimRows (s : State) (v c w o0 o1 : Nat) : List Nat :=
  let wp := s.ptr v c (s.readSlots v c (skSlots w)) (skWp w)
  (List.range (kChunks (skK w))).flatMap fun kc => ((List.range (o1 - o0)).map (o0 + ·)).map (wp.wt kc)

/-- A SKIM up to its end. -/
def State.skimRun (s : State) (v c : Nat) (run : Run) (w : Nat) : Acc :=
  let l := s.readSlots v c (skSlots w)
  let wp := s.ptr v c l (skWp w)
  let xp := s.ptr v c l (skXp w)
  let (o0, o1) := s.skimOuts v c run w
  let os := (List.range (o1 - o0)).map (o0 + ·)
  let a := { s := s, v := v, c := c, run := run, slots := l, chk := s.checksOn v (hChk w) : Acc }.skimFaults
  let (a, xs) := a.skimLoad (skM w) (skK w) fun kc t => xp.tok kc t 1 0
  if !a.live then a else
  let (a, sums) := a.skimDots (hFmt w) (skK w) wp.wt os xs
  let a := if a.live then a.skimWrite (s.ptr v c l (skYp w)) o0 o1 sums else a
  if a.live && o1 < skN w then a.partDone o1 0 0 0 else a

/-- SKIM; on a bank being copied it waits at issue (R222). -/
def State.skimInsn (s : State) (v c : Nat) (run : Run) (w : Nat) : State :=
  let e := skimErr w (s.readSlots v c (skSlots w))
  let (o0, o1) := s.skimOuts v c run w
  if e ≠ 0 then s.raise v c e
  else if s.copying v (s.skimRows v c w o0 o1) then s
  else (s.skimRun v c run w).finish v c

def execSkim (v : VatId) (c : CtxId) (run : Run) (s : State) : Host.Outcome State Fault Refusal :=
  .next (s.issue v c opSkim fun w s => s.skimInsn v c run w)

end Sys2Proof.Machine
end

