-- ==== Sys2Proof/Machine/Tile.lean ====
section
/-! DEFINITION. TILE (R65-R69, R83-R85, R126-R131, R222). -/

namespace Sys2Proof.Machine

/-! The fields of TILE (R126). -/
def tlM (w : Nat) : Nat := bits w 111 96
def tlK (w : Nat) : Nat := bits w 95 83
def tlN (w : Nat) : Nat := bits w 82 72
def tlWp (w : Nat) : Nat := bits w 71 66
def tlXp (w : Nat) : Nat := bits w 65 60
def tlYp (w : Nat) : Nat := bits w 59 54
def tlSp (w : Nat) : Nat := bits w 53 48
def tlOfmt (w : Nat) : Nat := bits w 47 44
def tlRtz (w : Nat) : Bool := bit w 43
def tlMode (w : Nat) : Nat := bits w 42 41
def tlBorx (w : Nat) : Bool := bit w 40
def tlAct (w : Nat) : Nat := bits w 39 36
def tlBias (w : Nat) : Bool := bit w 35
def tlBp (w : Nat) : Nat := bits w 34 29
def tlKeep (w : Nat) : Bool := bit w 28
def tlCont (w : Nat) : Bool := bit w 27

/-- The weight planes or pieces of a mode, and as many of the activations (R65, R67, R127). -/
def tlPieces (mode : Nat) : Nat := if mode = 0 then 1 else if mode = 3 then 3 else 2

/-- Two Curd slots per token in pair mode (R65, R82). -/
def tlPair (w : Nat) : Bool := tlMode w = 1

/-- The slots of the weights and activations, those of the drain, and the bias's (R127). -/
def tlInSlots (w : Nat) : List Nat :=
  (List.range (tlPieces (tlMode w))).flatMap fun i => [tlWp w + i, tlXp w + i]
def tlOutSlots (w : Nat) : List Nat :=
  if tlKeep w then [] else
  (if twoPlanes (tlOfmt w) then [tlYp w, tlYp w + 1] else [tlYp w]) ++ if tlBias w then [tlBp w] else []
/-- Every slot a TILE reads: a KEEP TILE only those of its weights and activations (R130), with CONT set too (log 145). -/
def tlSlots (w : Nat) : List Nat := tlInSlots w ++ tlOutSlots w ++ if tlKeep w then [] else [tlSp w]

/-- Weight formats of TILE (R36, R129). -/
def tlFmtOk (w : Nat) : Bool :=
  (mouldFmtOk (hFmt w) || hFmt w = fPAIR16) && !(hTrn w && isC (hFmt w)) &&
  (if tlMode w = 1 then hFmt w = fPAIR16 else if tlMode w = 0 then hFmt w ≠ fPAIR16 else hFmt w = fBF16)

/-- Output formats of TILE (R66, R129); `scale` is PS[SP]. -/
def tlOutOk (w : Nat) (scale : W32) : Bool :=
  tlKeep w ||
  (outFmtOk (tlOfmt w) &&
    (if tlMode w = 1 then (tlOfmt w = fFP32 || tlOfmt w = fFP32PAIR) && isPow2 scale
     else if tlMode w = 0 then tlOfmt w ≠ fFP32PAIR else tlOfmt w = fFP32))

/-- The M-block length (R82). -/
def State.mBlock (s : State) (v c w : Nat) : Nat := s.share v c / slotWidth (tlPair w)

/-- What KEEP and CONT require (R130). -/
def State.tlKeepOk (s : State) (v c w : Nat) : Bool :=
  !(tlKeep w || tlCont w) || (tlN w ≤ 256 && tlM w ≤ s.mBlock v c w && !tlBorx w)
def State.tlContOk (s : State) (v c w : Nat) : Bool :=
  !tlCont w || (s.get (.VAT_CTX_KEPT v c) VAT_CTX_KEPT.VALID = 1 && s.get (.VAT_CTX_KEPT v c) VAT_CTX_KEPT.M = tlM w &&
    s.get (.VAT_CTX_KEPT v c) VAT_CTX_KEPT.MODE = tlMode w)

/-- What a TILE meets at issue, in the order of R125. -/
def State.tileErr (s : State) (v c w : Nat) (l : Slots) : Nat :=
  firstErr
    [(bits w 26 0 ≠ 0 || tlM w = 0 || tlK w = 0 || 4096 < tlK w || tlN w = 0 || 1024 < tlN w ||
        (tlSlots w).any (63 < ·) || (tlInSlots w ++ tlOutSlots w).any (fun n => !ptrOk (l.val n)) ||
        (!tlKeep w && (5 < tlAct w || (hSr w && tlRtz w) || (tlPair w && (tlAct w ≠ 0 || tlBias w)))) ||
        !s.tlKeepOk v c w || !s.tlContOk v c w, eIllegalOp),
     (!tlFmtOk w || !tlOutOk w (l.scalar (tlSp w)), eFormatInvalid),
     (s.mBlock v c w < 128, eLayoutInvalid)]

/-! The fold (R65, R68, R83). -/

/-- The passes of a mode: weight piece and activation piece of each, in order. -/
def tlPasses (mode : Nat) (borx : Bool) : List (Nat × Nat) :=
  if mode = 0 then [(0, 0)]
  else if mode = 1 then [(0, 0), (0, 1), (1, 0)]
  else
    let n := tlPieces mode
    if borx then (List.range n).flatMap fun d => (List.range (n - d)).map fun k => (n - 1 - d - k, k)
    else (List.range n).flatMap fun i => (List.range (n - i)).map fun j => (i, j)

/-- One pressing of the fold: M-block, N-chunk, K-chunk, pass, its pieces, and whether it is the first or the last of
its N-chunk. -/
structure TStep where
  mb : Nat
  n : Nat
  kc : Nat
  pass : Nat
  wi : Nat
  xi : Nat
  first : Bool
  last : Bool
  deriving DecidableEq, Repr

/-- The pressings of one N-chunk in order. -/
def tlChunk (w mb n : Nat) : List TStep :=
  let ps := tlPasses (tlMode w) (tlBorx w)
  let ks := kChunks (tlK w)
  let one := fun (kc p : Nat) =>
    let q := ps.getD p (0, 0)
    ({ mb := mb, n := n, kc := kc, pass := p, wi := q.1, xi := q.2, first := kc = 0 && p = 0,
       last := kc + 1 = ks && p + 1 = ps.length } : TStep)
  if 2 ≤ tlMode w && tlBorx w then (List.range ps.length).flatMap fun p => (List.range ks).map fun kc => one kc p
  else (List.range ks).flatMap fun kc => (List.range ps.length).map fun p => one kc p

/-- Every pressing of a TILE with M-blocks of `mblk` tokens, in order. -/
def tlSteps (w mblk : Nat) : List TStep :=
  (List.range ((tlM w + mblk - 1) / mblk)).flatMap fun mb =>
    (List.range ((tlN w + 255) / 256)).flatMap fun n => tlChunk w mb n

/-- The steps from the one a part-done TILE resumes at (R166). -/
def tlFrom (r : Nat × Nat × Nat × Nat) (l : List TStep) : List TStep :=
  l.dropWhile fun t => !(t.mb = r.1 && t.n = r.2.1 && t.kc = r.2.2.1 && t.pass = r.2.2.2)

/-- The drain of a TILE (R128). -/
def State.tlDrain (s : State) (v c w : Nat) (l : Slots) : Drain :=
  { fmt := tlOfmt w, scale := l.scalar (tlSp w), act := tlAct w,
    bias := if tlBias w then some (s.ptr v c l (tlBp w)) else none,
    md := { sr := hSr w, rtz := tlRtz w }, pair := tlPair w,
    out := s.ptr v c l (tlYp w), out2 := s.ptr v c l (tlYp w + 1) }

/-- One step: load unless the Mould holds the tile already, press, and after the last pressing of an N-chunk drain. -/
def Acc.tileStep (a : Acc) (w : Nat) (d : Drain) (ws xs : List Ptr) (skip : Bool) (t : TStep) : Acc :=
  let mblk := a.s.mBlock a.v a.c w
  let base := a.s.shareBase a.v a.c
  let t0 := t.mb * mblk
  let t1 := min (tlM w) (t0 + mblk)
  let nv := min 256 (tlN w - 256 * t.n)
  let wp := ws.getD t.wi d.out
  let xp := xs.getD t.xi d.out
  let a := if skip then a
    else a.load (hFmt w) (hTrn w) nv (kValid (tlK w) t.kc) (wp.wt (t.n * kChunks (tlK w) + t.kc))
  let how := (if t.first && !tlCont w then 0 else 1) + (if tlPair w then 2 else 0)
  let a := if a.live then a.press how base t0 ((List.range (t1 - t0)).map fun k => xp.tok t.kc (t0 + k) 1 0) else a
  if a.live && t.last && !tlKeep w then a.unkeep.drainToks d nv t.n base t0 t0 t1 else a

/-- The steps in order, with a boundary after each but the last. -/
def Acc.tileSteps (a : Acc) (w : Nat) (d : Drain) (ws xs : List Ptr) : Option TStep → List TStep → Acc
  | _, [] => a
  | prev, t :: ts =>
    if !a.live then a else
    let same := match prev with
      | some p => p.n = t.n && p.kc = t.kc && p.wi = t.wi
      | none => false
    let a := a.tileStep w d ws xs same t
    let a := match ts with
      | [] => a
      | n :: _ => a.boundary n.mb n.n n.kc n.pass
    Acc.tileSteps a w d ws xs (some t) ts

/-- On the Plates. -/
def Acc.tilePlates (a : Acc) (w : Nat) (d : Drain) (ws xs : List Ptr) : Acc :=
  let a := a.faultsNow
  let a := a.tileSteps w d ws xs none (tlFrom (a.s.resumeAt a.v a.c) (tlSteps w (a.s.mBlock a.v a.c w)))
  if a.live && tlKeep w then a.keep (tlM w) (tlMode w) else a

/-! On the Skim path (R222). -/

/-- The weight rows of a TILE with a row per output: column `o`, K-chunk `kc`. -/
def tlSkimRow (w : Nat) (wp : Ptr) (kc o : Nat) : Nat := wp.wt (o / 256 * kChunks (tlK w) + kc) (o % 256)

/-- The conditions of R222. -/
def State.tlSkims (s : State) (v w : Nat) (wp : Ptr) : Bool :=
  s.get (.SKIM_CTRL v) SKIM_CTRL.THIN_ROUTE = 1 && s.skimAvail v && tlM w ≤ 16 && tlMode w = 0 && !tlKeep w && !tlCont w &&
    !hTrn w && (hFmt w = fBF16 || hFmt w = fFP16) &&
    !s.copying v ((List.range (kChunks (tlK w))).flatMap fun kc => (List.range (tlN w)).map (tlSkimRow w wp kc))

/-- The outputs of N-chunk `n` up to `o1 - 1`, from `sums` whose first is output `o0`: committed to the Curd slots, and
drained once the chunk is whole (R219). -/
def Acc.tileSkimChunk (a : Acc) (w : Nat) (d : Drain) (sums : List (List W32)) (o0 o1 n : Nat) : Acc :=
  let nv := min 256 (tlN w - 256 * n)
  let base := a.s.shareBase a.v a.c
  let a := a.on fun s => (List.range sums.length).foldl (fun s t =>
    s.setCurdRow a.v (base + t) (sliceD 0 (sums.getD t []) (256 * n - o0) 256)) s
  if o1 < 256 * n + nv then a else a.unkeep.drainToks d nv n base 0 0 (tlM w)

/-- From the N-chunk it resumes at, which is made again from its first output. -/
def Acc.tileSkim (a : Acc) (w : Nat) (d : Drain) (wp xp : Ptr) : Acc :=
  let n0 := (a.s.resumeAt a.v a.c).2.1
  let o0 := 256 * n0
  let o1 := a.s.skimEnd a.v a.c a.run o0 (tlN w)
  let (a, xs) := a.skimFaults.skimLoad (tlM w) (tlK w) fun kc t => xp.tok kc t 1 0
  if !a.live then a else
  let (a, sums) := a.skimDots (hFmt w) (tlK w) (tlSkimRow w wp) ((List.range (o1 - o0)).map (o0 + ·)) xs
  let a := a.each ((List.range ((o1 + 255) / 256)).filter (n0 ≤ ·)) fun a n => a.tileSkimChunk w d sums o0 o1 n
  if a.live && o1 < tlN w then a.partDone 0 (o1 / 256) 0 0 else a

/-- A TILE up to its end. -/
def State.tileRun (s : State) (v c : Nat) (run : Run) (w : Nat) : Acc :=
  let l := s.readSlots v c (tlSlots w)
  let d := s.tlDrain v c w l
  let ptrs := fun (n : Nat) => (List.range (tlPieces (tlMode w))).map fun i => s.ptr v c l (n + i)
  let a : Acc := { s := s, v := v, c := c, run := run, slots := l, chk := s.checksOn v (hChk w) }
  let wp := s.ptr v c l (tlWp w)
  if s.tlSkims v w wp then a.tileSkim w d wp (s.ptr v c l (tlXp w))
  else a.tilePlates w d (ptrs (tlWp w)) (ptrs (tlXp w))

def State.tileInsn (s : State) (v c : Nat) (run : Run) (w : Nat) : State :=
  let e := s.tileErr v c w (s.readSlots v c (tlSlots w))
  if e ≠ 0 then s.raise v c e else (s.tileRun v c run w).finish v c

def execTile (v : VatId) (c : CtxId) (run : Run) (s : State) : Host.Outcome State Fault Refusal :=
  .next (s.issue v c opTile fun w s => s.tileInsn v c run w)

end Sys2Proof.Machine
end

