-- ==== Sys2Proof/Machine/Attention.lean ====
section
/-! DEFINITION. ATTN (R135, R176-R192). -/

namespace Sys2Proof.Machine

/-! The fields of ATTN (R135). -/
def atQp (w : Nat) : Nat := bits w 111 106
def atKp (w : Nat) : Nat := bits w 105 100
def atVp (w : Nat) : Nat := bits w 99 94
def atYp (w : Nat) : Nat := bits w 93 88
def atMp (w : Nat) : Nat := bits w 87 82
def atSp (w : Nat) : Nat := bits w 81 76
def atMask (w : Nat) : Nat := bits w 75 73
def atG (w : Nat) : Nat := bits w 70 67 + 1
def atNq (w : Nat) : Nat := bits w 66 51
def atNkv (w : Nat) : Nat := bits w 50 29
def atSin (w : Nat) : Bool := bit w 28
def atSout (w : Nat) : Bool := bit w 27
def atIfmt (w : Nat) : Nat := bits w 26 23
def atRtz (w : Nat) : Bool := bit w 22
def atHd (w : Nat) : Nat := 64 * 2 ^ bits w 72 71
/-- Query rows (R176). -/
def atMq (w : Nat) : Nat := atG w * atNq w
/-- Key blocks (R180). -/
def atBlocks (w : Nat) : Nat := (atNkv w + 255) / 256
/-- Rows of a FP32 output item (R176). -/
def atH (w : Nat) : Nat := (atHd w + 127) / 128

/-- The slots an ATTN reads (R178). -/
def atSlots (w : Nat) : List Nat :=
  [atQp w, atKp w, atVp w, atYp w, atMp w, atSp w, atMp w + 1, atMp w + 4] ++
  (if atSin w || atSout w then [atMp w + 2] else []) ++ if 2 ≤ atMask w then [atMp w + 3] else []

/-- Those that hold row pointers. -/
def atPtrs (w : Nat) : List Nat :=
  [atQp w, atKp w, atVp w, atYp w, atMp w + 1] ++
  (if atSin w || atSout w then [atMp w + 2] else []) ++ if 2 ≤ atMask w then [atMp w + 3] else []

/-! The mask word (R177) and the stream word (R178). -/
def mwQpos (x : W64) : Nat := bits x.toNat 63 43
def mwKpos (x : W64) : Nat := bits x.toNat 42 22
def mwQoff (x : W64) : Nat := bits x.toNat 21 20
def mwKoff (x : W64) : Nat := bits x.toNat 19 18
def mwVoff (x : W64) : Nat := bits x.toNat 17 16
def mwYoff (x : W64) : Nat := bits x.toNat 15 14
def mwCnt (x : W64) : Nat := bits x.toNat 9 0
def swRing (x : W64) : Nat := bits x.toNat 63 56
def swPair (x : W64) : Nat := bits x.toNat 55 50

/-- Curd slots per query row (R179). -/
def atWidth (w : Nat) : Nat := if atHd w = 256 then 3 else 2

/-- The query block length B (R179). -/
def State.atB (s : State) (v c w : Nat) : Nat := s.share v c / atWidth w / 4 * 4

/-- What RING requires (R186). -/
def ringOk (x : W64) : Bool := let p := rowPtr x; p.cstride = 0 && p.qs = 0 && p.lvl = 0

/-- What an ATTN meets at issue, in the order of R125. -/
def State.attnErr (s : State) (v c w : Nat) (l : Slots) : Nat :=
  let mw := l.val (atMp w)
  let sw := l.val (atMp w + 4)
  let off := fun (o : Nat) => 256 < o * atHd w + atHd w
  firstErr
    [(bits w 21 0 ≠ 0 || 4 < atMask w || bits w 72 71 = 3 || atNq w = 0 || atNkv w = 0 || 2097152 < atNkv w ||
        (hSr w && atRtz w) || (atSlots w).any (63 < ·) || (atPtrs w).any (fun n => !ptrOk (l.val n)) ||
        off (mwQoff mw) || off (mwKoff mw) || off (mwVoff mw) || (!atSout w && off (mwYoff mw)) ||
        bits mw.toNat 13 10 ≠ 0 || bits sw.toNat 49 0 ≠ 0 || (mwCnt mw ≠ 0 && atMask w ≠ 2 && atMask w ≠ 3) ||
        s.share v c = 0 ||
        (swRing sw ≠ 0 && (s.atB v c w < atMq w || !ringOk (l.val (atKp w)) || !ringOk (l.val (atVp w)))), eIllegalOp),
     ((atIfmt w ≠ fBF16 && atIfmt w ≠ fFP16) ||
        (if atSout w then hFmt w ≠ fFP32 else hFmt w ≠ fBF16 && hFmt w ≠ fFP16), eFormatInvalid),
     (atMask w = 3 && 63 < mwCnt mw, eMaskInvalid)]

/-- An ATTN under way: its word, mask and stream words, scale, pointers, block length, first slot of the share. -/
structure Attn where
  w : Nat
  mw : W64
  ring : Nat
  pair : Nat
  scale : W32
  q : Ptr
  k : Ptr
  val : Ptr
  y : Ptr
  stage : Ptr
  stat : Ptr
  mask : Ptr
  b : Nat
  base : Nat
  starts : List Nat := []
  parents : List Nat := []
  deriving DecidableEq, Repr

/-- Query row `u`: its token and its head (R176). -/
def Attn.tokOf (t : Attn) (u : Nat) : Nat := u / atG t.w
def Attn.headOf (t : Attn) (u : Nat) : Nat := u % atG t.w
def Attn.oSlot (t : Attn) (i : Nat) : Nat := t.base + atWidth t.w * i
def Attn.sSlot (t : Attn) (i : Nat) : Nat := t.oSlot i + 1
/-- The slot and element of m; l and α follow it (R179). -/
def Attn.mSlot (t : Attn) (i : Nat) : Nat := if atHd t.w = 256 then t.oSlot i + 2 else t.oSlot i
def Attn.mElem (t : Attn) : Nat := if atHd t.w = 256 then 0 else 252

/-- The row of key or value `j` (R176, R186). -/
def Attn.kvRow (t : Attn) (p : Ptr) (j : Nat) : Nat :=
  if t.ring = 0 then p.tok 0 j 1 0 else p.e + 256 * (j / 256 % t.ring) + j % 256

/-- Keys in block `b`. -/
def Attn.keys (t : Attn) (b : Nat) : Nat := min 256 (atNkv t.w - 256 * b)

/-! Masks (R188-R192). -/

/-- seg(x): the largest start not above `x` (R189). -/
def segOf (starts : List Nat) (x : Nat) : Nat := (starts.filter fun y => y ≤ x).length - 1

/-- Starts that rise strictly from 0 (R189). -/
def startsOk (l : List Nat) : Bool :=
  l.head? = some 0 && (List.range (l.length - 1)).all fun i => l.getD i 0 < l.getD (i + 1) 0

/-- The depth of each node, in order (R190). -/
def depths : List Nat → List Nat → List Nat
  | [], ds => ds
  | p :: ps, ds => depths ps (ds ++ [if ds.isEmpty then 1 else ds.getD p 0 + 1])

/-- Parents as R190 requires. -/
def treeOk (l : List Nat) : Bool :=
  l.head? = some 255 && ((List.range l.length).drop 1).all (fun n => l.getD n 0 < n) && (depths l []).all (· ≤ 16)

/-- Whether node `n` is node `i` or an ancestor of it; a parent is a lower node. -/
def isAnc (l : List Nat) (n : Nat) : Nat → Nat → Bool
  | _, 0 => false
  | i, k + 1 => i = n || (i ≠ 0 && isAnc l n (l.getD i 0) k)

/-- allowed(u, k) for query token `i` (R188); `bm` is the token's bitmap row for the keys' group. -/
def Attn.allowed (t : Attn) (bm : List Byte) (i k : Nat) : Bool :=
  decide (k < atNkv t.w) &&
  match atMask t.w with
  | 0 => true
  | 1 => mwKpos t.mw + k ≤ mwQpos t.mw + i
  | 2 => segOf t.starts (mwQpos t.mw + i) = segOf t.starts (mwKpos t.mw + k) && mwKpos t.mw + k ≤ mwQpos t.mw + i
  | 3 => let nt := t.parents.length
         k < atNkv t.w - nt || isAnc t.parents (k - (atNkv t.w - nt)) i 17
  | _ => (bm.getD (k % 4096 / 8) 0).toNat / 2 ^ (k % 8) % 2 = 1

/-- Read and check the starts or the parents before the first visit (R192); NQ and NKV of a tree are checked with its
row, after the kept marker is cleared (log 142). -/
def Attn.readMask (t : Attn) (a : Acc) : Acc × Attn :=
  let n := mwCnt t.mw + 1
  if atMask t.w = 2 then
    let (a, rs) := a.reads portDrain ((List.range ((n + 127) / 128)).map (t.mask.e + ·))
    let st := ((rs.flatMap elems32).take n).map BitVec.toNat
    (if a.live && !startsOk st then a.fail eMaskInvalid else a, { t with starts := st })
  else if atMask t.w = 3 then
    let (a, r) := a.read portDrain t.mask.e
    let ps := (r.take n).map BitVec.toNat
    (if a.live && (!treeOk ps || atNq t.w ≠ n || atNkv t.w < n) then a.fail eMaskInvalid else a, { t with parents := ps })
  else (a, t)

/-- The bitmap rows of the tokens of query rows `u0` to `u0 + r - 1` for block `b` (R191). -/
def Attn.bitmaps (t : Attn) (a : Acc) (u0 r b : Nat) : Acc × List (List Byte) :=
  if atMask t.w = 4 then
    a.reads portDrain ((List.range (t.tokOf (u0 + r - 1) + 1 - t.tokOf u0)).map fun k =>
      t.mask.tok (256 * b / 4096) (t.tokOf u0 + k) 1 0)
  else (a, [])

/-! The block algorithm (R180-R182). -/

/-- Elements `off` × HD on of a row, `n` of them. -/
def headElems (off hd : Nat) (row : List Byte) : List W16 := ((elems16 row).drop (off * hd)).take hd

/-- Load the key block `b` as Kᵀ. -/
def Attn.loadKeys (t : Attn) (a : Acc) (b : Nat) : Acc :=
  let hd := atHd t.w
  a.loadWith (atIfmt t.w) hd ((List.range (t.keys b)).map fun j => t.kvRow t.k (256 * b + j)) fun rs =>
    rs.map fun r => holdK hd (headElems (mwKoff t.mw) hd r)

/-- Load the value block `b`. -/
def Attn.loadVals (t : Attn) (a : Acc) (b : Nat) : Acc :=
  let hd := atHd t.w
  a.loadWith (atIfmt t.w) (t.keys b) ((List.range (t.keys b)).map fun j => t.kvRow t.val (256 * b + j)) fun rs =>
    let es := rs.map (headElems (mwVoff t.mw) hd)
    (List.range hd).map fun d => holdK (t.keys b) (es.map fun e => e.getD d 0)

/-- The statistics m, l and α of block row `i`. -/
def Attn.stats (t : Attn) (a : Acc) (i : Nat) : W32 × W32 × W32 :=
  let g := fun (k : Nat) => a.s.curdAt a.v (t.mSlot i) (t.mElem + k)
  (g 0, g 1, g 2)
def Attn.setStats (t : Attn) (a : Acc) (i : Nat) (m l al : W32) : Acc :=
  a.on fun s => { s with curd := Tab.setAll zero32 s.curd (curdKey a.v (t.mSlot i) t.mElem) [m, l, al] }

/-- The start of a query block: rows `u0` on, `r` of them (R180, R184). -/
def Attn.init (t : Attn) (a : Acc) (u0 r : Nat) : Acc :=
  a.each (List.range r) fun a i =>
    if atSin t.w then
      let u := u0 + i
      let (a, rs) := a.reads portDrain ((List.range (atH t.w)).map fun k => t.y.tok (t.headOf u) (t.tokOf u) (atH t.w) k)
      let (a, st) := a.read portDrain (t.stat.e + u / 64)
      if !a.live then a else
      let o := (rs.flatMap elems32).take (atHd t.w)
      let ml := elems32 st
      let a := a.on fun s => { s with curd := Tab.setAll zero32 s.curd (curdKey a.v (t.oSlot i) 0) o }
      t.setStats a i (ml.getD (2 * (u % 64)) 0) (ml.getD (2 * (u % 64) + 1) 0) 0
    else
      let a := a.on fun s => { s with curd := Tab.setAll zero32 s.curd (curdKey a.v (t.oSlot i) 0) (List.replicate (atHd t.w) 0) }
      t.setStats a i f32NegInf 0 0

/-- The Rind stage of block row `i`: `ok j` says whether key `j` of the block is allowed. -/
def Attn.rindRow (t : Attn) (a : Acc) (i : Nat) (ok : Nat → Bool) : Acc :=
  let sc := a.s.curdRow a.v (t.sSlot i)
  let (m, l, _) := t.stats a i
  let ss := (List.range 256).map fun j => if ok j then fMul (sc.getD j 0) t.scale else (f32NegInf, 0)
  let a := a.flag (ss.foldl (fun f (y : W32 × Flags) => f ||| y.2) 0)
  let vals := ss.map Prod.fst
  let mx := vals.foldl fMax m
  let row := t.stage.tok 0 i 1 0
  if mx = f32NegInf then
    let (z, f) := fMul l f32One
    let (z, g) := fAdd z 0
    let a := t.setStats (a.flag (f ||| g)) i mx z f32One
    a.write portDrain row (List.replicate 512 0)
  else
    let (d, f) := fSub m mx
    let (al, g) := rExp2 d
    let ps := vals.map fun x =>
      if x = f32NegInf then ((0 : W16), (0 : Flags))
      else
        let (e, f) := fSub x mx
        let (e, g) := rExp2 e
        let (h, k) := cvt (fpOf (atIfmt t.w)) .rne e
        (h, f ||| g ||| k)
    let hs := ps.map Prod.fst
    let (sum, h) := treeSum 8 (hs.map (widen (fpOf (atIfmt t.w))))
    let (z, k) := fMul l al
    let (z, n) := fAdd z sum
    let a := a.flag (ps.foldl (fun f (y : W16 × Flags) => f ||| y.2) (f ||| g ||| h ||| k ||| n))
    (t.setStats a i mx z al).write portDrain row (bytes16 hs)

/-- The commit of a value pressing: O × α + t, two roundings (R180, R182). -/
def Attn.commitO (t : Attn) (v i : Nat) (out : List W32) (s : State) : State :=
  let al := s.curdAt v (t.mSlot i) (t.mElem + 2)
  let old := (s.curdRow v (t.oSlot i)).take (atHd t.w)
  let (xs, f) := mapF (fun o => fMul o al) old
  let (ys, g) := zipF fAdd xs out
  ({ s with curd := Tab.setAll zero32 s.curd (curdKey v (t.oSlot i) 0) ys }).joinFlags v (f ||| g)

/-- A visit of key block `b` to the query rows `u0` on; `ok i j` as `allowed`. -/
def Attn.visit (t : Attn) (a : Acc) (u0 r b : Nat) (ok : Nat → Nat → Bool) : Acc :=
  let a := t.loadKeys a b
  let hd := atHd t.w
  let qs := (List.range r).map fun i => t.q.tok (t.headOf (u0 + i)) (t.tokOf (u0 + i)) 1 0
  let v := a.v
  let a := if a.live then a.pressWith 0 qs (fun row => sliceD 0 (headElems (mwQoff t.mw) hd row) 0 256) (fun i out s =>
    s.setCurdRow v (t.sSlot i) (sliceD 0 out 0 256)) else a
  let a := a.each (List.range r) fun a i => t.rindRow a i (ok i)
  let a := if a.live then t.loadVals a b else a
  if a.live then a.pressWith 0 ((List.range r).map fun i => t.stage.tok 0 i 1 0) elems16 (t.commitO v) else a

/-! Finalisation (R184, R185). -/

/-- `xs` with the elements from `k` on replaced by `ys`. -/
def splice {α : Type} (xs : List α) (k : Nat) (ys : List α) : List α := xs.take k ++ ys ++ xs.drop (k + ys.length)

/-- Unnormalised output and statistics of block row `i`, query row `u`. -/
def Attn.finOut (t : Attn) (a : Acc) (i u : Nat) : Acc :=
  let o := ((a.s.curdRow a.v (t.oSlot i)).take (atHd t.w)).map leave32
  let a := a.each (List.range (atH t.w)) fun a k =>
    let row := t.y.tok (t.headOf u) (t.tokOf u) (atH t.w) k
    let (a, old) := a.read portDrain row
    a.write portDrain row (splice old 0 (bytes32 ((o.drop (128 * k)).take 128)))
  let (m, l, _) := t.stats a i
  let (a, old) := a.read portDrain (t.stat.e + u / 64)
  a.write portDrain (t.stat.e + u / 64) (splice old (8 * (u % 64)) (bytes32 [leave32 m, leave32 l]))

/-- Normalised output of block row `i`, query row `u`. -/
def Attn.finNorm (t : Attn) (a : Acc) (i u : Nat) : Acc :=
  let (_, l, _) := t.stats a i
  let o := (a.s.curdRow a.v (t.oSlot i)).take (atHd t.w)
  let (ys, f) := mapF (fun x => if l = 0 then (0, 0) else fDiv x l) o
  let col := mwYoff t.mw * atHd t.w
  let (a, hs) := (a.flag f).convert (hFmt t.w) { sr := hSr t.w, rtz := atRtz t.w } col ys
  let row := t.y.tok (t.headOf u) (t.tokOf u) 1 0
  if atHd t.w = 256 then a.write portDrain row (bytes16 hs)
  else
    let (a, old) := a.read portDrain row
    a.write portDrain row (splice old (2 * col) (bytes16 hs))

def Attn.finalise (t : Attn) (a : Acc) (u0 r : Nat) : Acc :=
  a.each (List.range r) fun a i => if atSout t.w then t.finOut a i (u0 + i) else t.finNorm a i (u0 + i)

/-! Query blocks and rings (R179, R183, R186, R199). -/

/-- ring_take: none where FULL of the pair is 0 and no take has been made for this block. -/
def Attn.ringTake (t : Attn) (a : Acc) : Option Acc :=
  if t.ring = 0 then some a
  else if (a.s.vat a.v).ringTaken.contains a.c then
    some (a.on fun s => s.setVat a.v { s.vat a.v with ringTaken := (s.vat a.v).ringTaken.filter (· ≠ a.c) })
  else (a.s.takeSem a.v 0 t.pair 1).map fun s => { a with s := s }

def Attn.ringGive (t : Attn) (a : Acc) : Acc :=
  if t.ring = 0 then a else a.on fun s => s.addSem a.v 1 t.pair 1

/-- Key blocks of query block `q` from `b` on, `n` of them left. -/
def Attn.blocks (t : Attn) (a : Acc) (q u0 r b : Nat) : Nat → Acc
  | 0 => a
  | n + 1 =>
    if !a.live then a else
    match t.ringTake a with
    | none =>
      let a := (a.partDone q b 0 0).hold
      a.on fun s => s.waitOn a.v a.c 1
    | some a =>
      let (a, bms) := t.bitmaps a u0 r b
      let ok := fun (i j : Nat) => t.allowed (bms.getD (t.tokOf (u0 + i) - t.tokOf u0) []) (t.tokOf (u0 + i)) (256 * b + j)
      if a.live && (List.range r).all fun i => (List.range (t.keys b)).all fun j => !ok i j then
        Attn.blocks t (t.ringGive a) q u0 r (b + 1) n
      else
        let a := if a.live then t.visit a u0 r b ok else a
        let a := if a.live then (t.ringGive a).boundary q (b + 1) 0 0 else a
        Attn.blocks t a q u0 r (b + 1) n

/-- Query block `q`, from key block `b0` on. -/
def Attn.qblock (t : Attn) (a : Acc) (q b0 : Nat) : Acc :=
  let u0 := q * t.b
  let r := min t.b (atMq t.w - u0)
  let a := if b0 = 0 then t.init a u0 r else a
  let a := t.blocks a q u0 r b0 (atBlocks t.w - b0)
  let a := if a.live then t.finalise a u0 r else a
  if a.live && u0 + r < atMq t.w then a.boundary (q + 1) 0 0 0 else a

/-- The bank pairs of R213: staging rows serve plate-feed and drain, ring rows mould and wagon. -/
def Attn.pairs (t : Attn) : List (Nat × Nat × Nat) :=
  let st := banksOf ((List.range (min (atMq t.w) t.b)).map fun i => t.stage.tok 0 i 1 0)
  let rg := if t.ring = 0 then [] else banksOf ([t.k, t.val].flatMap fun p => (List.range (256 * t.ring)).map (p.e + ·))
  st.map (fun b => (b, portPlate, portDrain)) ++ rg.map fun b => (b, portMould, portWagon)

def State.attn (s : State) (v c w : Nat) (l : Slots) : Attn :=
  { w := w, mw := l.val (atMp w), ring := swRing (l.val (atMp w + 4)), pair := swPair (l.val (atMp w + 4)),
    scale := l.scalar (atSp w), q := s.ptr v c l (atQp w), k := s.ptr v c l (atKp w), val := s.ptr v c l (atVp w),
    y := s.ptr v c l (atYp w), stage := s.ptr v c l (atMp w + 1), stat := s.ptr v c l (atMp w + 2),
    mask := s.ptr v c l (atMp w + 3), b := s.atB v c w, base := s.shareBase v c }

/-- An ATTN up to its end. -/
def State.attnRun (s : State) (v c : Nat) (run : Run) (w : Nat) : Acc :=
  let l := s.readSlots v c (atSlots w)
  let t := s.attn v c w l
  let s := s.release (.insn v c)
  let (q0, b0, _) := s.resumeAt v c
  let a : Acc := { s := s, v := v, c := c, run := run, slots := l, chk := s.checksOn v (hChk w), pairs := t.pairs }
  let (a, t) := t.readMask a.unkeep.faultsNow
  let qs := (List.range ((atMq w + t.b - 1) / t.b)).filter (q0 ≤ ·)
  a.each qs fun a q => t.qblock a q (if q = q0 then b0 else 0)

def State.attnInsn (s : State) (v c : Nat) (run : Run) (w : Nat) : State :=
  let e := s.attnErr v c w (s.readSlots v c (atSlots w))
  if e ≠ 0 then s.raise v c e else (s.attnRun v c run w).finish v c

def execAttn (v : VatId) (c : CtxId) (run : Run) (s : State) : Host.Outcome State Fault Refusal :=
  .next (s.issue v c opAttn fun w s => s.attnInsn v c run w)

end Sys2Proof.Machine
end

