-- ==== Sys2Proof/Config.lean ====
section
/-! DEFINITION. The values the spec leaves open: opaque constants, applied to a counter of the state that names
a fresh one each time (log 2). -/

namespace Sys2Proof.Config

/-- A free 64-bit value. -/
opaque freeWord : Nat → W64

/-- The ICRC of a RoCEv2 packet, by its header fields and its data (R335): the spec names it and does not define it (log 2). -/
opaque icrc : List Nat → List (BitVec 8) → BitVec 32

end Sys2Proof.Config
end

