-- ==== Sys2Proof/Machine/RindUnit.lean ====
section
/-! DEFINITION. RIND (R136, R137, R196, R197). -/

namespace Sys2Proof.Machine

/-! The fields of RIND (R136). -/
def rdSub (w : Nat) : Nat := bits w 111 104
def rdAp (w : Nat) : Nat := bits w 103 98
def rdBp (w : Nat) : Nat := bits w 97 92
def rdCp (w : Nat) : Nat := bits w 91 86
def rdYp (w : Nat) : Nat := bits w 85 80
def rdIfmt (w : Nat) : Nat := bits w 79 76
def rdCount (w : Nat) : Nat := bits w 75 60
def rdL (w : Nat) : Nat := bits w 59 50
def rdRtzBit (w : Nat) : Bool := bit w 49
def rdSp (w : Nat) : Nat := bits w 48 43
/-- Elements of an item. -/
def rdE (w : Nat) : Nat := rdL w * (if rdIfmt w = fFP32 then 128 else 256)

/-! The sub-operations of R137. -/
def subMul : Nat := 0x03
def subScale : Nat := 0x07
def subRope : Nat := 0x13
def subPairSplit : Nat := 0x14
def subRmax : Nat := 0x15
def subRsum : Nat := 0x16
def subSoftmax : Nat := 0x19

/-- Whether a sub-operation has operand B, operand C, a scalar. -/
def rdHasB (sub : Nat) : Bool := [0x01, 0x02, 0x03, 0x04, 0x05, 0x06, 0x10, 0x11, 0x12, 0x13, 0x17, 0x18].contains sub
def rdHasC (sub : Nat) : Bool := [0x04, 0x12, 0x18].contains sub
def rdHasS (sub : Nat) : Bool := [0x07, 0x11, 0x12, 0x19].contains sub
/-- One element per item. -/
def rdReduces (sub : Nat) : Bool := sub = subRmax || sub = subRsum

/-- The slots of row pointers a RIND reads, and all it reads. -/
def rdPtrs (w : Nat) : List Nat :=
  [rdAp w, rdYp w] ++ (if rdHasB (rdSub w) then [rdBp w] else []) ++ (if rdHasC (rdSub w) then [rdCp w] else []) ++
  if rdSub w = subPairSplit then [rdYp w + 1] else []
def rdSlots (w : Nat) : List Nat := rdPtrs w ++ if rdHasS (rdSub w) then [rdSp w] else []

/-- What a RIND meets at issue, in the order of R125. -/
def State.rindErr (_ : State) (w : Nat) (l : Slots) : Nat :=
  firstErr
    [(bits w 42 0 ≠ 0 || 0x19 < rdSub w || rdCount w = 0 || rdL w = 0 || (hSr w && rdRtzBit w) ||
        (rdSlots w).any (63 < ·) || (rdPtrs w).any (fun n => !ptrOk (l.val n)), eIllegalOp),
     ((rdIfmt w ≠ fBF16 && rdIfmt w ≠ fFP16 && rdIfmt w ≠ fFP32) ||
        (if rdSub w = subPairSplit then hFmt w ≠ fPAIR16 else hFmt w ≠ fBF16 && hFmt w ≠ fFP16 && hFmt w ≠ fFP32),
      eFormatInvalid)]

/-! What each computes (R196). -/

/-- a × b + c with one rounding. -/
def fFma (a b c : W32) : W32 × Flags :=
  let (p, f) := FpV.mul (f32 a) (f32 b)
  let (s, g) := FpV.add p (f32 c)
  let (r, h) := toF32 s
  (r, f ||| g ||| h)

/-- The pairwise sum over an item, padded with +0 to the next power of two. -/
def rTree (xs : List W32) : W32 × Flags :=
  let d := if xs.length ≤ 1 then 0 else Nat.log2 (xs.length - 1) + 1
  treeSum d (sliceD 0 xs 0 (2 ^ d))

/-- The number of elements as FP32, exact. -/
def fOfNat (n : Nat) : W32 := (toF32 (.fin false n 0)).1

/-- tree(v) ÷ E. -/
def rMean (xs : List W32) : W32 × Flags :=
  let (s, f) := rTree xs
  let (m, g) := fDiv s (fOfNat xs.length)
  (m, f ||| g)

/-- RSQRT(tree(v²) ÷ E + ε). -/
def rInvRms (xs : List W32) (eps : W32) : W32 × Flags :=
  let (sq, f) := mapF (fun x => fMul x x) xs
  let (m, g) := rMean sq
  let (t, h) := fAdd m eps
  let (r, k) := rRsqrt t
  (r, f ||| g ||| h ||| k)

/-- RMAX of an item. -/
def rMax (xs : List W32) : W32 := xs.foldl fMax f32NegInf

/-- CMPGT: 1.0 where a > b; a comparison with a NaN is false. -/
def rGt (a b : W32) : W32 := if FpV.lt (f32 b) (f32 a) then f32One else 0

/-- SEL: a where c is nonzero or NaN. -/
def rSel (c a b : W32) : W32 := if (f32 c).isZero then b else a

/-- ROPE on one item (R197): pairs of adjacent elements with their table entries. -/
def rRope : List W32 → List W32 → List W32 × Flags
  | x :: y :: xs, c :: n :: ts =>
    let (xc, f1) := fMul x c
    let (yn, f2) := fMul y n
    let (xn, f3) := fMul x n
    let (yc, f4) := fMul y c
    let (p, f5) := fSub xc yn
    let (q, f6) := fAdd xn yc
    let (r, f) := rRope xs ts
    (p :: q :: r, f ||| f1 ||| f2 ||| f3 ||| f4 ||| f5 ||| f6)
  | _, _ => ([], 0)

/-- SOFTMAX of an item. -/
def rSoftmax (xs : List W32) (sc : W32) : List W32 × Flags :=
  let (t, f) := mapF (fun x => fMul x sc) xs
  let mx := rMax t
  if mx = f32NegInf then (xs.map fun _ => 0, f) else
  let (e, g) := mapF (fun x =>
    let (d, h) := fSub x mx
    let (y, k) := rExp2 d
    (y, h ||| k)) t
  let (s, h) := rTree e
  let (y, k) := mapF (fun x => fDiv x s) e
  (y, f ||| g ||| h ||| k)

/-- The results of one item: operands A, B and C, the scalar. -/
def rindItem (sub : Nat) (sc : W32) (a b c : List W32) : List W32 × Flags :=
  match sub with
  | 0x01 => zipF fAdd a b
  | 0x02 => zipF fSub a b
  | 0x03 => zipF fMul a b
  | 0x04 =>
    let ys : List (W32 × Flags) := (List.range a.length).map fun i => fFma (a.getD i 0) (b.getD i 0) (c.getD i 0)
    (ys.map Prod.fst, ys.foldl (fun f (y : W32 × Flags) => f ||| y.2) 0)
  | 0x05 => (List.zipWith fMax a b, 0)
  | 0x06 => (List.zipWith fMin a b, 0)
  | 0x07 => mapF (fun x => fMul x sc) a
  | 0x08 => mapF rExp2 a
  | 0x09 => mapF rLog2 a
  | 0x0A => mapF rRcp a
  | 0x0B => mapF rRsqrt a
  | 0x0C => mapF rSilu a
  | 0x0D => mapF rGelu a
  | 0x0E => mapF rTanh a
  | 0x0F => mapF rSigmoid a
  | 0x10 =>
    let (y, f) := mapF rSilu a
    let (z, g) := zipF fMul y b
    (z, f ||| g)
  | 0x11 =>
    let (r, f) := rInvRms a sc
    let (y, g) := mapF (fun x => fMul x r) a
    let (z, h) := zipF fMul y b
    (z, f ||| g ||| h)
  | 0x12 =>
    let (m, f) := rMean a
    let (d, g) := mapF (fun x => fSub x m) a
    let (r, h) := rInvRms d sc
    let (y, k) := mapF (fun x => fMul x r) d
    let (z, n) := zipF fMul y b
    let (u, o) := zipF fAdd z c
    (u, f ||| g ||| h ||| k ||| n ||| o)
  | 0x13 => rRope a b
  | 0x15 => ([rMax a], 0)
  | 0x16 => let (t, f) := rTree a; ([t], f)
  | 0x17 => (List.zipWith rGt a b, 0)
  | 0x18 => ((List.range a.length).map fun i => rSel (c.getD i 0) (a.getD i 0) (b.getD i 0), 0)
  | 0x19 => rSoftmax a sc
  | _ => (a, 0)

/-! The items in order. -/

/-- A RIND under way. -/
structure RindOp where
  w : Nat
  sc : W32
  a : Ptr
  b : Ptr
  c : Ptr
  y : Ptr
  y2 : Ptr
  deriving DecidableEq, Repr

/-- The values of operand `p` of item `i`: `n` rows in format `fmt`. -/
def Acc.rindOperand (a : Acc) (p : Ptr) (i n fmt : Nat) : Acc × List W32 :=
  let (a, rs) := a.reads portDrain ((List.range n).map fun r => p.tok 0 i n r)
  (a, rs.flatMap (rowVals fmt))

/-- Elements of an output row. -/
def rdPerRow (w : Nat) : Nat := if hFmt w = fFP32 then 128 else 256

/-- A row of results as bytes; element `j` is the row's element of its first result. -/
def Acc.rindBytes (a : Acc) (w j : Nat) (xs : List W32) : Acc × List Byte :=
  if hFmt w = fFP32 then (a, bytes32 (xs.map leave32))
  else
    let (a, hs) := a.convert (hFmt w) { sr := hSr w, rtz := rdRtzBit w } j xs
    (a, bytes16 hs)

/-- Write the rows of one item. -/
def Acc.rindRows (a : Acc) (t : RindOp) (i : Nat) (ys : List W32) : Acc :=
  let n := rdPerRow t.w
  let rpt := (ys.length + n - 1) / n
  a.each (List.range rpt) fun a r =>
    let (a, bs) := a.rindBytes t.w 0 ((ys.drop (n * r)).take n)
    a.write portDrain (t.y.tok 0 i rpt r) (sliceD 0 bs 0 512)

/-- Write the two planes of an item of PAIRSPLIT. -/
def Acc.rindSplit (a : Acc) (t : RindOp) (i : Nat) (xs : List W32) : Acc :=
  let ps := xs.map pairSplit
  let a := a.flag (ps.foldl (fun f (p : W16 × W16 × Flags) => f ||| p.2.2) 0)
  let rpt := (xs.length + 255) / 256
  let plane := fun (a : Acc) (q : Ptr) (hs : List W16) => a.each (List.range rpt) fun a r =>
    a.write portDrain (q.tok 0 i rpt r) (bytes16 (sliceD 0 hs (256 * r) 256))
  plane (plane a t.y (ps.map fun (p : W16 × W16 × Flags) => p.1)) t.y2 (ps.map fun (p : W16 × W16 × Flags) => p.2.1)

/-- Whether the instruction leaves at the boundary it stands at. -/
def Acc.leaves (a : Acc) : Bool := a.live && a.run.leave = some a.bnd && a.s.due a.v a.c

/-- The row that holds the result of item `i` of a reduction. -/
def RindOp.redRow (t : RindOp) (i : Nat) : Nat := t.y.e + i / rdPerRow t.w

/-- One item, with the results of its output row so far (reductions); the row is written once it is full, with the
last item, or where the instruction leaves. -/
def Acc.rindOne (a : Acc) (t : RindOp) (i : Nat) (part : List Byte) : Acc × List Byte :=
  let w := t.w
  let sub := rdSub w
  let (a, xs) := a.rindOperand t.a i (rdL w) (rdIfmt w)
  let (a, bs) := if rdHasB sub then
      (if sub = subRope then a.rindOperand t.b i (rdE w / 128) fFP32 else a.rindOperand t.b i (rdL w) (rdIfmt w))
    else (a, [])
  let (a, cs) := if rdHasC sub then a.rindOperand t.c i (rdL w) (rdIfmt w) else (a, [])
  if !a.live then (a, part) else
  if sub = subPairSplit then (a.rindSplit t i xs, part) else
  let (ys, f) := rindItem sub t.sc xs bs cs
  let a := a.flag f
  if rdReduces sub then
    let (a, one) := a.rindBytes w (i % rdPerRow w) ys
    let part := part ++ one
    let full := (i + 1) % rdPerRow w = 0
    let a := if full || i + 1 = rdCount w || a.leaves then a.write portDrain (t.redRow i) (sliceD 0 part 0 512) else a
    (a, if full then [] else part)
  else (a.rindRows t i ys, part)

/-- Items `i` on, `n` of them; a boundary stands after each. -/
def Acc.rindItems (t : RindOp) (a : Acc) (i : Nat) (part : List Byte) : Nat → Acc
  | 0 => a
  | n + 1 =>
    if !a.live then a else
    let (a, part) := a.rindOne t i part
    let a := if n = 0 then a else a.boundary (i + 1) 0 0 0
    Acc.rindItems t a (i + 1) part n

/-- A RIND instruction up to its end. -/
def State.rindRun (s : State) (v c : Nat) (run : Run) (w : Nat) : Acc :=
  let l := s.readSlots v c (rdSlots w)
  let t : RindOp := { w := w, sc := l.scalar (rdSp w), a := s.ptr v c l (rdAp w), b := s.ptr v c l (rdBp w),
                      c := s.ptr v c l (rdCp w), y := s.ptr v c l (rdYp w), y2 := s.ptr v c l (rdYp w + 1) }
  let i0 := (s.resumeAt v c).1
  let part := if rdReduces (rdSub w) then (s.row v (t.redRow i0)).take (512 / rdPerRow w * (i0 % rdPerRow w)) else []
  let a : Acc := { s := s, v := v, c := c, run := run, slots := l }
  Acc.rindItems t a.faultsNow i0 part (rdCount w - i0)

def State.rindInsn (s : State) (v c : Nat) (run : Run) (w : Nat) : State :=
  let e := s.rindErr w (s.readSlots v c (rdSlots w))
  if e ≠ 0 then s.raise v c e else (s.rindRun v c run w).finish v c

def execRind (v : VatId) (c : CtxId) (run : Run) (s : State) : Host.Outcome State Fault Refusal :=
  .next (s.issue v c opRind fun w s => s.rindInsn v c run w)

end Sys2Proof.Machine
end

