-- ==== Sys2Proof/Machine/Net.lean ====
section
/-! DEFINITION. The fabric as its users see it: packets, routes, sending (R402-R411, R416, R418). -/

namespace Sys2Proof.Machine

/-! Packet kinds (R410). -/
def pkCtrl : Nat := 0
def pkMemWrite : Nat := 1
def pkWinWrite : Nat := 2
def pkGetReq : Nat := 3
def pkGetData : Nat := 4
def pkAck : Nat := 5
def pkNak : Nat := 6
def pkSheaf : Nat := 7
def pkReg : Nat := 8
def pkRegRsp : Nat := 9
def pkTsync : Nat := 10

/-- The channels a kind may travel on. -/
def pkVcs (kind : Nat) : List Nat :=
  if kind = pkMemWrite then [2, 4, 5, 6] else if kind = pkWinWrite then [3] else if kind = pkGetData then [4]
  else if kind = pkSheaf then [1] else if kind = pkReg then [7] else if kind ≤ 10 then [0] else []

/-- Packet flags (R409). -/
def pfLast : Nat := 1
def pfPoison : Nat := 2
def pfSeqb : Nat := 4

/-- Flits of a packet (R411). -/
def pktFlits (p : Pkt) : Nat := (32 + p.data.length + 63) / 64

/-- This module's address (R434). -/
def State.me (s : State) : Nat := s.get .THR_GLB_ID THR_GLB_ID.MODULE

/-! Routes (R405, R418). Dimensions: 0 DX, 1 DY, 2 BX, 3 BY. -/

/-- A coordinate of a module address (R403). -/
def coord (dim m : Nat) : Nat :=
  match dim with
  | 0 => m / 2 ^ 7 % 16
  | 1 => m / 2 ^ 11
  | 2 => m / 2 ^ 3 % 4
  | _ => m / 2 ^ 5 % 4

/-- The ring size of a dimension (R435). -/
def State.ringSize (s : State) (dim : Nat) : Nat :=
  let d := s.get .THR_GLB_CFG THR_GLB_CFG.DIM
  1 + (match dim with
  | 0 => d / 2 ^ 7 % 16
  | 1 => d / 2 ^ 11 % 32
  | 2 => d / 2 ^ 3 % 4
  | _ => d / 2 ^ 5 % 4)

/-- The ports of a dimension, + and − (R402). -/
def dimPorts (dim : Nat) : Nat × Nat :=
  match dim with
  | 0 => (11, 12)
  | 1 => (13, 14)
  | 2 => (7, 8)
  | _ => (9, 10)

/-- Whether the + path of `h` hops from `a` on a ring of `n` crosses the link after `pos`. -/
def crosses (n a h pos : Nat) : Bool := (pos + n - a) % n < h

/-- The direction taken on a ring from `a` to `b`: true for +. A direction that crosses a broken link is not taken. -/
def ringDir (n a b : Nat) (broken : List Nat) : Bool :=
  let h := (b + n - a) % n
  let plus := !broken.any (crosses n a h)
  let minus := !broken.any (crosses n b (n - h))
  if plus && minus then h ≤ n - h else plus

def State.portSt (s : State) (p : Nat) : Nat := s.get (.THR_PORT_STATUS p) THR_PORT_STATUS.STATE
/-- Port states (R431). -/
def psOff : Nat := 0
def psTraining : Nat := 1
def psRamp : Nat := 2
def psUp : Nat := 3
def psFailed : Nat := 4
def psSpared : Nat := 5
def psDetour : Nat := 6

def State.port (s : State) (p : Nat) : PortX := Tab.get (fun _ => {}) s.ports p
def State.setPort (s : State) (p : Nat) (x : PortX) : State := { s with ports := Tab.set (fun _ => {}) s.ports p x }

/-- The state of a port as routes see it: while a lost port trains again, the one it was in. -/
def State.portEff (s : State) (p : Nat) : Nat :=
  if s.portSt p = psTraining && (s.port p).was ≠ 0 then (s.port p).was else s.portSt p

/-- The port of slot `a` that leads to slot `b` (R402). -/
def slotPort (a b : Nat) : Nat := (b + 7 - a) % 8

/-- The lowest slot this module may relay through, where its link to slot `b` detours (R418). -/
def State.relay (s : State) (a b : Nat) : Option Nat :=
  (List.range 8).find? fun r => r ≠ a && r ≠ b && [psUp, psRamp, psSpared].contains (s.portEff (slotPort a r))

/-- The next hop to a module and the DL bit the packet leaves with (R405, R406, R418); none for this module itself. `dim`
and `dl` are the dimension the packet comes along and its DL bit. -/
def State.route (s : State) (dst dim : Nat) (dl : Bool) : Option (Nat × Bool) :=
  let me := s.me
  match [0, 1, 2, 3].find? fun d => coord d me ≠ coord d dst with
  | some d =>
    let n := s.ringSize d
    let broken := (s.breaks.filter fun b => b.1 = d).map Prod.snd
    let plus := ringDir n (coord d me) (coord d dst) broken
    let at_ := coord d me
    let wraps := if plus then at_ + 1 = n else at_ = 0
    some (if plus then (dimPorts d).1 else (dimPorts d).2, (broken.isEmpty && wraps) || (dl && dim = d))
  | none =>
    let a := me % 8
    let b := dst % 8
    if a = b then none
    else if s.portEff (slotPort a b) = psDetour then
      match s.relay a b with
      | some r => some (slotPort a r, false)
      | none => none
    else some (slotPort a b, false)

/-- The port that stands in for `p` on a channel: port 17 while it has not moved back (R416, R417). -/
def State.standIn (s : State) (p vc : Nat) : Nat :=
  let back := (s.portSt p = psRamp || s.portSt p = psUp) && !(s.port p).returning.contains vc
  if s.get .THR_SPARE THR_SPARE.ACTIVE = 1 && s.get .THR_SPARE THR_SPARE.FOR = p && !back then 17 else p

/-- Header and payload bytes of a packet sent first-time (`rx` 0) or accepted (1) count in the port's running bandwidth
window, unless frozen (R610, R616). -/
def State.bwAdd (s : State) (p rx : Nat) (k : Pkt) : State :=
  if s.get .PERF_CTL PERF_CTL.FREEZE = 1 then s
  else { s with bw := Tab.set (fun _ => 0) s.bw (2 * p + rx) (Tab.get (fun _ => 0) s.bw (2 * p + rx) + 32 + k.data.length) }

/-- Hand a packet to output port `p`, where it waits for its turn and for credit (R413, R414). -/
def State.sendOut (s : State) (p : Nat) (k : Pkt) : State :=
  if s.isOut 0 then s else
  let p := s.standIn p k.vc.toNat
  let k := { k with port := Fin.ofNat 18 p }
  (s.setPort p { s.port p with queue := (s.port p).queue ++ [k] }).emit (.pkt k)

/-- Send a packet of this module by its route; to this module itself it needs no port. -/
def State.send (s : State) (k : Pkt) : State :=
  match s.route k.dst.toNat 4 false with
  | some (p, dl) => s.sendOut p { k with dl := dl }
  | none => s.emit (.pkt k)

/-- The export port in NATIVE mode whose range holds a module (R419). -/
def State.nativePort (s : State) (m : Nat) : Option Nat :=
  [15, 16].find? fun p => s.get (.THR_PORT_CFG p) THR_PORT_CFG.MODE = 1 &&
    decide (s.get (.THR_PORT_CFG p) THR_PORT_CFG.EXP_LO ≤ m ∧ m ≤ s.get (.THR_PORT_CFG p) THR_PORT_CFG.EXP_HI)

/-- Send packets of a native record by its one route (R334). -/
def State.sendNative (s : State) (m : Nat) (ks : List Pkt) : State :=
  match s.nativePort m with
  | some p => ks.foldl (fun s k => s.sendOut p k) s
  | none => ks.foldl (fun s k => s.send k) s

/-- A packet from this module. -/
def State.pkt (s : State) (kind vc flags dst addr tag ctx aux aux2 : Nat) (data : List Byte) : Pkt :=
  { port := 0, kind := BitVec.ofNat 4 kind, vc := BitVec.ofNat 3 vc, dl := false, flags := BitVec.ofNat 3 flags,
    dst := BitVec.ofNat 16 dst, src := BitVec.ofNat 16 s.me, addr := BitVec.ofNat 64 addr, tag := BitVec.ofNat 16 tag,
    ctx := BitVec.ofNat 16 ctx, aux := BitVec.ofNat 32 aux, aux2 := BitVec.ofNat 64 aux2, data := data }

/-- Answer a packet with an ACK or a NAK carrying `aux`, its sequence bit kept; one that came by an export port is answered there
(R419). -/
def State.answer (s : State) (k : Pkt) (kind aux : Nat) : State :=
  let r := s.pkt kind 0 (k.flags.toNat &&& pfSeqb) k.src.toNat 0 k.tag.toNat k.ctx.toNat aux 0 []
  if k.port = 15 ∨ k.port = 16 then s.sendOut k.port.val r else s.send r

/-- An entry for a dropped or refused packet (class 7 port). -/
def State.logPkt (s : State) (k : Pkt) (code : Nat) : State :=
  s.log { code := code, cls := clsPort, verdict := 0, unit := k.port.val, sub := k.src.toNat }

end Sys2Proof.Machine
end

