-- ==== Sys2Proof/Machine/Wagon.lean ====
section
/-! DEFINITION. Wagon descriptors: their fields, their checks, where they read and write (R242-R248, R255). -/

namespace Sys2Proof.Machine

/-! Descriptor fields (R244). -/

/-- `n` bytes at `o` as a number. -/
def fieldN (b : List Byte) (o n : Nat) : Nat := leNat ((b.drop o).take n)

/-- A 32-bit field as a signed number. -/
def signed32 (x : Nat) : Int := if x < 2 ^ 31 then x else (x : Int) - 2 ^ 32

def dKind (b : List Byte) : Nat := fieldN b 0 1
def dFlags (b : List Byte) : Nat := fieldN b 1 1
def dOrder (b : List Byte) : Bool := dFlags b % 2 = 1
def dIrq (b : List Byte) : Bool := dFlags b / 2 % 2 = 1
def dMcast (b : List Byte) : Bool := dFlags b / 4 % 2 = 1
def dFmt (b : List Byte) : Nat := fieldN b 2 1
def dXform (b : List Byte) : Nat := fieldN b 3 1
def dEsz (b : List Byte) : Nat := if dXform b % 2 = 0 then 2 else 4
def dEs (b : List Byte) : Nat := 2 ^ (dXform b / 2 % 4)
def dEo (b : List Byte) : Nat := dXform b / 8 % 8
def dMask (b : List Byte) : Nat := fieldN b 4 2
def dLen (b : List Byte) : Nat := fieldN b 8 4
def dNblk (b : List Byte) : Nat := fieldN b 12 4
def dSrc (b : List Byte) : Nat := fieldN b 16 8
def dDst (b : List Byte) : Nat := fieldN b 24 8
def dSstr (b : List Byte) : Int := signed32 (fieldN b 32 4)
def dDstr (b : List Byte) : Int := signed32 (fieldN b 36 4)
def dWkind (b : List Byte) : Nat := fieldN b 40 1
def dWidx (b : List Byte) : Nat := fieldN b 41 1
def dWval (b : List Byte) : Nat := fieldN b 44 4
def dPkind (b : List Byte) : Nat := fieldN b 48 1
def dPidx (b : List Byte) : Nat := fieldN b 49 1
def dPtgt (b : List Byte) : Nat := fieldN b 50 1
def dPval (b : List Byte) : Nat := fieldN b 52 4

/-! The kinds (R245). -/
def dkNop : Nat := 0
def dkCopy : Nat := 1
def dkStrided : Nat := 2
def dkTranspose : Nat := 3
def dkPackcol : Nat := 4
def dkPut : Nat := 5
def dkGet : Nat := 6
def dkProg : Nat := 7
def dkZero : Nat := 8

/-- The packed-column size (R48). -/
def packSize (fmt : Nat) : Nat := if fmt = fC8 then 264 else if fmt = fC6 then 200 else 144

/-- `base + i × str`, out of every place where it is negative. -/
def stride (base : Nat) (i : Nat) (str : Int) : Nat :=
  let a : Int := (base : Int) + (i : Int) * str
  if a < 0 then 2 ^ 64 else a.toNat

/-! Pieces: what a request of at most 512 bytes moves (R257, R264). PROG moves 32 words a piece. -/

/-- Pieces of a block of COPY, REMOTE_PUT and REMOTE_GET. -/
def perBlock (b : List Byte) : Nat := (dLen b + 511) / 512

/-- Pieces of a descriptor. -/
def dPieces (b : List Byte) : Nat :=
  let k := dKind b
  if k = dkCopy || k = dkPut || k = dkGet then dNblk b * perBlock b
  else if k = dkStrided then dNblk b / dEs b
  else if k = dkTranspose then dNblk b * 256
  else if k = dkPackcol || k = dkZero then dNblk b
  else if k = dkProg then (dNblk b + 31) / 32
  else 0

/-- Bytes of piece `p` of a block. -/
def pieceLen (b : List Byte) (p : Nat) : Nat := min 512 (dLen b - 512 * (p % perBlock b))

/-- The sources piece `p` reads, each with its bytes: local addresses. -/
def dSources (b : List Byte) (p : Nat) : List (Nat × Nat) :=
  let k := dKind b
  if k = dkCopy || k = dkPut then [(stride (dSrc b) (p / perBlock b) (dSstr b) + 512 * (p % perBlock b), pieceLen b p)]
  else if k = dkStrided then (List.range (dEs b)).map fun e => (stride (dSrc b) (p * dEs b + e) (512 * dSstr b), 512)
  else if k = dkTranspose then (List.range 256).map fun i => (stride (dSrc b) (p / 256 * 256 + i) (512 * dSstr b), 512)
  else if k = dkPackcol then [(dSrc b + p * packSize (dFmt b), packSize (dFmt b))]
  else if k = dkProg then [(dSrc b + 512 * p, 16 * min 32 (dNblk b - 32 * p))]
  else []

/-- The local address piece `p` writes, with its bytes; none for REMOTE_PUT and PROG. -/
def dDest (b : List Byte) (p : Nat) : Option (Nat × Nat) :=
  let k := dKind b
  if k = dkCopy || k = dkGet then
    some (stride (dDst b) (p / perBlock b) (dDstr b) + 512 * (p % perBlock b), pieceLen b p)
  else if k = dkStrided || k = dkTranspose || k = dkPackcol || k = dkZero then some (stride (dDst b) p (dDstr b), 512)
  else none

/-! Places (R246). -/

/-- Where a local address lies. -/
inductive Place
  | hbm
  | cellar (v row : Nat)
  | none
  deriving DecidableEq, Repr

/-- The place of `n` bytes at `a` for partition `p`. -/
def State.place (s : State) (p a n : Nat) : Place :=
  if s.inHbm p a n then .hbm
  else if 0x100000000000 ≤ a ∧ a < 0x101000000000 ∧ a % 0x100000000 + n ≤ 0x100000000 then
    let v := a / 0x100000000 % 16
    if s.valid v ∧ s.part v = p then .cellar v (a % 0x100000000 / 512) else .none
  else .none

def Place.isCellar : Place → Bool
  | .cellar _ _ => true
  | _ => false
def Place.isOwn (v : Nat) : Place → Bool
  | .cellar w _ => w = v
  | _ => false

/-- An address in the Cellar slots (R202). -/
def cellarAddr (a : Nat) : Bool := 0x100000000000 ≤ a && a < 0x101000000000

/-- The destination of a REMOTE_PUT (R246): module, Vat, window, row offset of block 0. -/
def putModule (b : List Byte) : Nat := dDst b / 2 ^ 48
def putVat (b : List Byte) : Nat := dDst b / 2 ^ 40 % 16
def putWindow (b : List Byte) : Nat := dDst b / 2 ^ 32 % 256
def putRow (b : List Byte) (p : Nat) : Nat := stride (dDst b % 2 ^ 17 * 512) (p / perBlock b) (dDstr b) / 512 + p % perBlock b

/-! Checks at the head of the stream (R248). -/

/-- Contexts whose region holds a program word (R162). -/
def State.wordOwners (s : State) (v a : Nat) : List Nat := [0, 1, 2, 3].filter fun c => s.inRegionPc v c a

/-- A context is idle (R115). -/
def State.ctxIdle (s : State) (v c : Nat) : Bool :=
  let st := s.cst v c
  st = csEmpty || st = csPaused || st = csHalted || st = csError || st = csFaulted

/-- Whether PROG finds every owner of its words idle. -/
def State.progFree (s : State) (v : Nat) (b : List Byte) : Bool :=
  [0, 1, 2, 3].all fun c => s.ctxIdle v c || !(List.range (dNblk b)).any fun i => s.inRegionPc v c (dDst b + i)

/-- ILLEGAL_OP of R248. -/
def descIllegal (b : List Byte) : Bool :=
  let k := dKind b
  8 < k || 8 ≤ dFlags b || (dMcast b && k ≠ dkCopy && k ≠ dkZero) ||
  (if k = dkPackcol then !isC (dFmt b) else dFmt b ≠ 0) ||
  (if k = dkStrided then 64 ≤ dXform b || dEs b ≤ dEo b else dXform b ≠ 0) ||
  fieldN b 6 2 ≠ 0 || fieldN b 42 2 ≠ 0 || fieldN b 51 1 ≠ 0 || 32 ≤ dPtgt b ||
  3 < dWkind b || ((dWkind b = 1 || dWkind b = 2) && 64 ≤ dWidx b) || 2 < dPkind b || (dPkind b ≠ 0 && 64 ≤ dPidx b)

/-- FORMAT_INVALID of R248. -/
def descFormat (b : List Byte) : Bool :=
  let k := dKind b
  let blocks := k = dkCopy || k = dkPut || k = dkGet
  let srcCell := cellarAddr (dSrc b) && k ≠ dkGet && k ≠ dkZero && k ≠ dkNop
  let dstCell := cellarAddr (dDst b) && k ≠ dkPut && k ≠ dkProg && k ≠ dkNop
  (blocks && dLen b % 64 ≠ 0) || (k = dkPut && dLen b % 512 ≠ 0) ||
  (dstCell && (dDst b % 512 ≠ 0 || dDstr b % 512 ≠ 0 || (blocks && dLen b % 512 ≠ 0))) ||
  (srcCell && (dSrc b % 512 ≠ 0 || (blocks && dSstr b % 512 ≠ 0))) ||
  (k = dkPut && dDstr b % 512 ≠ 0) || (k = dkStrided && dNblk b % dEs b ≠ 0)

/-- LAYOUT_INVALID of R248, for the Wagon of Vat `v`: also for the places that only R247 bars, and a PROG past its buffer;
no unit, no place (log 153). -/
def State.descLayout (s : State) (v : Nat) (b : List Byte) : Bool :=
  let k := dKind b
  let p := s.part v
  let pieces := List.range (dPieces b)
  let badSrc := pieces.any fun i => (dSources b i).any fun x =>
    let pl := s.place p x.1 x.2
    pl = .none || ((k = dkStrided || k = dkTranspose) && !pl.isOwn v) || (k = dkProg && pl ≠ .hbm)
  let badDst := pieces.any fun i => match dDest b i with
    | some x =>
      let pl := s.place p x.1 x.2
      pl = .none || (k = dkZero && !pl.isCellar) || (dMcast b && !pl.isOwn v)
    | none => false
  let vatOut := fun (t : Nat) => !s.valid t || s.part t ≠ p
  badSrc || badDst || (k = dkProg && 16384 < dDst b + dNblk b) ||
  (k = dkPut && (dDst b / 2 ^ 44 % 16 ≠ 0 || dDst b / 2 ^ 17 % 2 ^ 15 ≠ 0 || pieces.any fun i => 131072 ≤ putRow b i)) ||
  (k = dkGet && pieces.any fun i => 2 ^ 48 ≤ stride (dSrc b % 2 ^ 48) (i / perBlock b) (dSstr b)) ||
  (dMcast b && (List.range 16).any fun t => dMask b / 2 ^ t % 2 = 1 && vatOut t) ||
  (dPkind b ≠ 0 && dPtgt b / 16 % 2 = 1 && vatOut (dPtgt b % 16))

/-- What the check finds, in the order of R248. -/
def State.descErr (s : State) (v : Nat) (b : List Byte) : Nat :=
  firstErr [(descIllegal b, eIllegalOp), (descFormat b, eFormatInvalid), (s.descLayout v b, eLayoutInvalid),
    (dKind b = dkProg && !s.progFree v b, eCfgLocked)]

/-! Streams. -/

def State.setDesc (s : State) (v i : Nat) (d : Desc) : State :=
  let t := s.stream v i
  s.setStream v i { t with descs := t.descs.map fun e => if e.idx = d.idx then d else e }

/-- The descriptor at the head of the stream that has not started. -/
def Stream.head (t : Stream) : Option Desc := t.descs.find? fun d => !d.started && d.err = 0

/-- The batch a stream works on. -/
def Stream.batch (t : Stream) : Option Batch := t.queue.head?

/-- The completion record of a batch (R242). -/
def State.batchRecord (s : State) (hdr status err didx : Nat) : State :=
  s.store (hdr + 48) (leBytes 1 status ++ leBytes 1 err ++ leBytes 2 didx ++ leBytes 4 0 ++ leBytes 8 s.now.toNat)

/-- The handing context of a failed batch (R253, R158): ERROR; or, waiting after ABORT, ERR and HALTED. -/
def State.batchFailed (s : State) (v c err : Nat) : State :=
  if (s.vat v).abortWait.contains c then s.put (.VAT_CTX_STATUS v c) VAT_CTX_STATUS.ERR err
  else if s.cst v c = csError || s.cst v c = csFaulted then s
  else s.enterError v c err

/-- The stream stops on a failure (R253): `didx` is what the batch record names, `shown` what the stream's status shows. -/
def State.streamFail (s : State) (v i err didx shown : Nat) : State :=
  let t := s.stream v i
  if t.stopped then s else
  match t.batch with
  | none => s
  | some b =>
    let s := s.setStream v i { t with stopped := true }
    let s := (s.put (.WAGON_STREAM_STAT v i) WAGON_STREAM_STAT.ERR err).put (.WAGON_STREAM_STAT v i) WAGON_STREAM_STAT.DIDX shown
    let s := s.batchRecord b.hdr 2 err didx
    let s := s.log { code := err, cls := clsWagon, verdict := 0, part := s.part v, unit := s.phys v, sub := i }
    let s := s.emit (.reeveIrq clsWagon (s.phys v))
    (s.batchFailed v b.ctx err).settle v

/-- A descriptor fails: no post, its claims released; it stays in its stream and bars the posts behind it. -/
def State.descFail (s : State) (v i idx err : Nat) : State :=
  match (s.stream v i).descs.find? fun d => d.idx = idx && d.err = 0 with
  | none => s
  | some d => ((s.setDesc v i { d with err := err }).release (.desc v i idx)).streamFail v i err idx idx

/-! BATCH_HEADER_FETCH (R242, R250, R642). -/

def hMagic : Nat := 0x42474157

/-- The check of a header, in the order of R642. -/
def State.headerErr (s : State) (v : Nat) (h : List Byte) : Nat :=
  let p := s.part v
  let count := fieldN h 4 2
  let desc := fieldN h 8 8
  let next := fieldN h 16 8
  firstErr [(fieldN h 0 4 ≠ hMagic, eFormatInvalid),
    (2 ≤ fieldN h 6 1 || fieldN h 7 1 ≠ 0 || fieldN h 24 24 ≠ 0, eFormatInvalid),
    (count = 0 || 4096 < count, eFormatInvalid), (desc % 64 ≠ 0, eFormatInvalid),
    (!s.inHbm p desc (64 * count), eLayoutInvalid), (next ≠ 0 && next % 64 ≠ 0, eFormatInvalid),
    (next ≠ 0 && !s.inHbm p next 64, eLayoutInvalid)]

/-- The burst of descriptors from index `k` of a batch: 16, or the remainder (R250). -/
def State.burst (s : State) (b : Batch) (k : Nat) : List (List Byte × Bool) :=
  (List.range (min 16 (b.count - k))).map fun j =>
    let a := b.desc + 64 * (k + j)
    (s.bytes a 64, s.poisoned a 64)

def State.headerFetch (s : State) (v i : Nat) : State :=
  let t := s.stream v i
  match t.queue with
  | [] => s
  | b :: q =>
    if b.fetched || t.stopped then s
    else if s.poisoned b.hdr 64 then s.streamFail v i eUncorrectable 0xFFFF 0
    else
      let h := s.bytes b.hdr 64
      let e := s.headerErr v h
      if e ≠ 0 then s.streamFail v i e 0xFFFF 0
      else
        let b := { b with fetched := true, count := fieldN h 4 2, desc := fieldN h 8 8, next := fieldN h 16 8,
                          irq := fieldN h 6 1 = 1 }
        s.setStream v i { t with nextIdx := 0, queue := { b with held := s.burst b 0 } :: q }

def execBatchHeaderFetch (v : VatId) (i : StreamId) (s : State) : Host.Outcome State Fault Refusal :=
  .next (s.headerFetch v i)

/-! DESCRIPTOR_HEAD (R248, R251). -/

/-- The next descriptor reaches the head once every earlier one has started. -/
def State.descHead (s : State) (v i : Nat) : State :=
  let t := s.stream v i
  match t.queue with
  | [] => s
  | b :: q =>
    match b.held with
    | [] => s
    | (bs, poison) :: held =>
      if !b.fetched || t.stopped || t.nextIdx = b.count || t.head.isSome then s
      else
        let s1 := s.setStream v i { t with
          nextIdx := t.nextIdx + 1
          descs := t.descs ++ [{ idx := t.nextIdx, bytes := bs }]
          queue := { b with held := held } :: q }
        let e := if poison then eUncorrectable else s.descErr v bs
        if e ≠ 0 then s1.descFail v i t.nextIdx e else s1

def execDescriptorHead (v : VatId) (i : StreamId) (s : State) : Host.Outcome State Fault Refusal :=
  .next (s.descHead v i)

end Sys2Proof.Machine
end

