-- ==== Sys2Proof/Machine/Dnet.lean ====
section
/-! DEFINITION. The die network (R16-R22, R28) and the tags of the requests that cross it (R264, R265): what a stop sends,
what each copy of a packet finds where it arrives. -/

namespace Sys2Proof.Machine

/-! Packets. -/

/-- The stops a packet has still to reach. -/
def DTo.stops : DTo → List Nat
  | .stop n => [n]
  | .mask m => ((List.range 18).filter fun p => m.getLsbD p).map stopOfPhys

/-- What is left of a packet once it has reached stop `n`. -/
def DTo.less (t : DTo) (n : Nat) : Option DTo :=
  match t with
  | .stop _ => none
  | .mask m =>
    let m' := m &&& ~~~(BitVec.ofNat 18 (2 ^ (n - 6)))
    if m' = 0 then none else some (.mask m')

/-- The mask of physical positions for a mask of logical Vats (R21). -/
def State.physMask (s : State) (m : Nat) : BitVec 18 :=
  (List.range 16).foldl (fun w t => if m / 2 ^ t % 2 = 1 then w ||| BitVec.ofNat 18 (2 ^ s.phys t) else w) 0

/-- The copies in flight, each a packet's place in `dnet` and the stop it goes to. -/
def State.copies (s : State) : List (Nat × Nat) :=
  (s.dnet.zipIdx).flatMap fun x => x.1.dest.stops.map fun n => (x.2, n)

/-- The `n`-th copy: its place, its packet, its stop. -/
def State.copyAt (s : State) (n : Nat) : Option (Nat × DPkt × Nat) :=
  match s.copies[n]? with
  | none => none
  | some (k, stop) => (s.dnet[k]?).map fun p => (k, p, stop)

/-- Flits of one class from one stop to one stop arrive in the order sent (R20). -/
def State.dnetFirst (s : State) (k : Nat) (p : DPkt) (stop : Nat) : Bool :=
  (s.dnet.take k).all fun q => q.src ≠ p.src || q.load.cls ≠ p.load.cls || !q.dest.stops.contains stop

/-- The copy of packet `k` for a stop has left the network. -/
def State.dnetTake (s : State) (k : Nat) (p : DPkt) (stop : Nat) : State :=
  { s with dnet := match p.dest.less stop with
    | some dest => s.dnet.set k { p with dest := dest }
    | none => s.dnet.eraseIdx k }

/-- An answer from a stop to a packet, under the packet's tag (R19). -/
def State.dnetReply (s : State) (stop part : Nat) (p : DPkt) (load : Load) : State :=
  s.dnetSend { p with src := stop, part := part, dest := .stop p.src, load := load }

/-! Requests for module memory (R266). -/

/-- `n` bytes at `a` as requests of which none crosses a 2 KiB granule, `n` at most 512. -/
def granuleCuts (a n : Nat) : List (Nat × Nat) :=
  let first := 2048 - a % 2048
  if n = 0 then [] else if n ≤ first then [(a, n)] else [(a, first), (a + first, n - first)]

/-- The stop of the stack that holds an address. -/
def hbmStop (a : Nat) : Nat := a / 2048 % 6

/-! Tags (R264, R265). -/

/-- Tags a Wagon holds, and all Wagons hold. -/
def State.wagonTags (s : State) (v : Nat) : Nat :=
  (s.tags.filter fun t => match t.owner with
    | some (w, _, _) => w = v
    | none => false).length
def State.sharedTags (s : State) : Nat := (s.tags.filter fun t => t.owner.isSome).length

/-- A tag number not in use. -/
def State.newTag (s : State) : Nat := ((List.range (s.tags.length + 1)).find? fun n => s.tags.all fun t => t.id ≠ n).getD 0

/-- A tag returns: it is free again, and a kill that waited for it may end (R269). -/
def State.tagFree (s : State) (id : Nat) : State :=
  match s.tags.find? fun t => t.id = id with
  | none => s
  | some t =>
    let s := { s with tags := s.tags.filter fun x => x.id ≠ id, getRetry := s.getRetry.filter fun n => n ≠ id }
    match t.owner with
    | some (v, _, _) => s.killSettle (s.part v)
    | none => s

def State.setTag (s : State) (t : TagUse) : State :=
  { s with tags := s.tags.map fun x => if x.id = t.id then t else x }

/-- A tag for piece `p` of a descriptor, with nothing in flight yet. -/
def State.tagNew (s : State) (o : Nat × Nat × Nat) (p : Nat) : State :=
  { s with tags := s.tags ++ [{ id := s.newTag, owner := some o, req := .held [], piece := p }] }

/-- The tags of a piece, in the order they were taken. -/
def State.pieceUses (s : State) (o : Option (Nat × Nat × Nat)) (p : Nat) : List TagUse :=
  s.tags.filter fun t => t.owner = o && t.piece = p && o.isSome

/-- A request goes out under tag `t`. -/
def State.tagSend (s : State) (v : Nat) (t : TagUse) (dest : DTo) (load : Load) : State :=
  let p : DPkt := { s.vatPkt v dest load with owner := t.owner, tag := some t.id, seq := t.seq }
  (s.setTag { t with req := .dnet p, left := dest.stops }).dnetSend p

/-- Whether a tag's request is a row for a Cellar. -/
def TagReq.isRow : TagReq → Bool
  | .dnet p => match p.load with
    | .row _ _ => true
    | _ => false
  | _ => false
def TagReq.isHeld : TagReq → Bool
  | .held _ => true
  | _ => false
def TagReq.bytes : TagReq → List Byte
  | .held b => b
  | _ => []

/-- A tag returns with nothing to do: so do those of its piece that wait for it. -/
def State.dropPiece (s : State) (t : TagUse) : State :=
  let ids := (s.pieceUses t.owner t.piece).filter fun x => x.id = t.id || x.req.isHeld
  ids.foldl (fun s x => s.tagFree x.id) (s.tagFree t.id)

/-- The request of a tag fails: the tag returns, its descriptor ends with `err`. -/
def State.tagFail (s : State) (t : TagUse) (err : Nat) : State :=
  let s := s.dropPiece t
  match t.owner with
  | some (v, i, idx) => s.descFail v i idx err
  | none => s

/-- Stop `n` has answered a tag: with the last answer the tag is free. -/
def State.tagLess (s : State) (t : TagUse) (n : Nat) : State :=
  let left := t.left.filter fun x => x ≠ n
  if left.isEmpty then s.tagFree t.id else s.setTag { t with left := left }

/-- The tag of a packet, where the packet carries its current sequence bit (R265). -/
def State.dnetTag (s : State) (p : DPkt) : Option TagUse :=
  s.tags.find? fun t => p.tag = some t.id && t.owner = p.owner && t.seq = p.seq

/-! Writes that come too late (R229). -/

/-- A write that reaches an OFF group: dropped, counted, recorded, logged with the row and the source stop. -/
def State.lateDrop (s : State) (v r src : Nat) : State :=
  ((s.bump (.CELLAR_ERR_STAT v) CELLAR_ERR_STAT.LATE_DROP).lastErr v 3 r).log
    { code := eWindowClosed, cls := clsBank, verdict := 0, part := s.part v, unit := s.phys v, sub := r, handle := src }

/-! Rows and reads at a Cellar (R208, R212, R252, R255). -/

/-- The live descriptor of a packet. -/
def State.ownerDesc (s : State) (o : Option (Nat × Nat × Nat)) : Option Desc :=
  match o with
  | some (v, i, idx) => (s.stream v i).descs.find? fun d => d.idx = idx
  | none => none

/-- Who claims banks for a packet. -/
def DPkt.holder (p : DPkt) : Holder :=
  match p.owner with
  | some (v, i, idx) => .desc v i idx
  | none => .desc 16 0 0

/-- The Vat a packet's descriptor belongs to. -/
def DPkt.vat (p : DPkt) : Option Nat := p.owner.map fun o => o.1

/-- The rows of a Cellar from the lowest to the highest of `rs`. -/
def span (rs : List Nat) : List Nat :=
  match rs with
  | [] => []
  | r :: l =>
    let lo := l.foldl min r
    let hi := l.foldl max r
    (List.range (hi + 1 - lo)).map (lo + ·)

/-- The rows of the Cellar of `w` among spans of addresses of partition `p`. -/
def State.rowsIn (s : State) (p w : Nat) (l : List (Nat × Nat)) : List Nat :=
  l.flatMap fun x => match s.place p x.1 x.2 with
    | .cellar u r => if u = w then (List.range ((x.1 % 512 + x.2 + 511) / 512)).map (r + ·) else []
    | _ => []

/-- Whether piece `k` of a descriptor of Vat `v` writes a row of the Cellar of `w`. -/
def State.rowsTo (s : State) (v w : Nat) (b : List Byte) (k : Nat) : Bool :=
  if dMcast b then dMask b / 2 ^ w % 2 = 1
  else match dDest b k with
    | some x => match s.place (s.part v) x.1 x.2 with
      | .cellar u _ => u = w
      | _ => false
    | none => false

/-- The banks that a descriptor's writes, or its reads, can touch in the Cellar of `w`: from the first row of its range to
the last (R255). A multicast writes the rows of its own Vat's addresses everywhere. -/
def State.destBanks (s : State) (v w : Nat) (b : List Byte) : List Nat :=
  if dMcast b && dMask b / 2 ^ w % 2 = 0 then [] else
  banksOf (span (s.rowsIn (s.part v) (if dMcast b then v else w) ((List.range (dPieces b)).filterMap (dDest b))))
def State.srcBanks (s : State) (v w : Nat) (b : List Byte) : List Nat :=
  banksOf (span (s.rowsIn (s.part v) w ((List.range (dPieces b)).flatMap (dSources b))))

/-- Whether rows of the packet's descriptor are still to come to the Cellar of `w`: others in flight or to be sent again,
or pieces that have not come so far. -/
def State.moreRows (s : State) (p : DPkt) (w : Nat) : Bool :=
  (s.tags.any fun t => t.owner = p.owner && some t.id ≠ p.tag && t.req.isRow && t.left.contains (s.stopOf w)) ||
  match p.owner, s.ownerDesc p.owner with
  | some (v, _, _), some d => d.err = 0 && (List.range (dPieces d.bytes)).any fun k => s.rowsTo v w d.bytes k &&
      (d.moved ≤ k || s.tags.any fun t => t.owner = p.owner && t.piece = k && !t.req.isRow)
  | _, _ => false

/-- The Cellar of `w` is done with a row that gets no answer of its own (log 151). -/
def State.rowGone (s : State) (p : DPkt) (w : Nat) : State :=
  match s.dnetTag p with
  | some t => s.tagLess t (s.stopOf w)
  | none => s

/-- The Cellar of `w` answers a row. -/
def State.rowDone (s : State) (p : DPkt) (w err : Nat) : State :=
  s.dnetReply (s.stopOf w) (s.part w) p (.done err)

/-- The Cellar of `w` refuses the rows of a descriptor from now on (R255). -/
def State.refuseRows (s : State) (p : DPkt) (w : Nat) : State :=
  match p.owner, s.ownerDesc p.owner with
  | some (v, i, _), some d => s.setDesc v i { d with refused := addOnce w d.refused }
  | _, _ => s

/-- The claims of a descriptor on the Cellar of `w` go; those in its own Cellar only with the descriptor (R255). -/
def State.rowClaimsGo (s : State) (p : DPkt) (w : Nat) : State :=
  if p.vat = some w && (s.ownerDesc p.owner).any (fun d => d.err = 0) then s
  else { s with claims := s.claims.filter fun c => !(c.v = w && c.holder = p.holder) }

/-- The first error of claims by the wagon port on some banks of `w`; `f` is the check of one. -/
def firstClaimErr (f : Nat → Nat) (banks : List Nat) : Nat := banks.foldl (fun e b => if e ≠ 0 then e else f b) 0

/-- A row reaches its Cellar: under the claims of its descriptor, which the first row takes on the whole range. The last one
is answered with the completion (R252; logs 151, 155). -/
def State.rowArrives (s : State) (w : Nat) (p : DPkt) (r : Nat) (data : List Byte) (poison : Bool) : State :=
  if (s.ownerDesc p.owner).any fun d => d.refused.contains w then s.rowGone p w
  else if r < rowsPerCellar && s.gs w (bankOf r / 32) = gsOff then (s.lateDrop w r p.src).rowDone p w eWindowClosed
  else
    let has := (s.claimsOn w (bankOf r)).any fun c => c.holder = p.holder
    let banks := match p.vat, s.ownerDesc p.owner with
      | some v, some d => s.destBanks v w d.bytes
      | _, _ => [bankOf r]
    let e := if has then s.heldErr w (bankOf r) else firstClaimErr (fun b => s.arriveErr w b portWagon portMould) banks
    if e ≠ 0 then ((s.perf (puCellar w) 0x04 [0, portWagon] 1).refuseRows p w).rowDone p w e
    else
      let s := if has then s else s.claim w portWagon p.holder banks
      let s := (s.setRow w r data poison).perf (puCellar w) 0x02 [0, portWagon] 1
      if s.moreRows p w then s.rowGone p w
      else
        let s := s.rowClaimsGo p w
        if p.vat = some w then s.rowGone p w else s.rowDone p w eOk

/-- A read reaches a Cellar: under a claim on what its descriptor reads there, from its first read to the descriptor's
completion (R210, R255). -/
def State.readArrives (s : State) (w : Nat) (p : DPkt) (a n : Nat) : State :=
  let stop := s.stopOf w
  match p.vat, s.ownerDesc p.owner with
  | some v, some d =>
    let b := bankOf (a % 2 ^ 32 / 512)
    let has := (s.claimsOn w b).any fun c => c.holder = p.holder
    let banks := s.srcBanks v w d.bytes
    let e := if has then s.heldErr w b else firstClaimErr (fun b => s.claimErr w b portWagon portMould) banks
    if e ≠ 0 then (s.perf (puCellar w) 0x04 [0, portWagon] 1).dnetReply stop (s.part w) p (.done e)
    else
      let s := if has then s else s.claim w portWagon p.holder banks
      (s.perf (puCellar w) 0x01 [0, portWagon] ((a % 512 + n + 511) / 512)).dnetReply stop (s.part w) p
        (.got (s.bytes a n) (s.poisoned a n))
  | _, _ => s.dnetReply stop (s.part w) p (.got [] true)

/-! Module memory's stops. -/

/-- A packet reaches HBM stop `h`: bytes are stored and acknowledged, or read and returned. -/
def State.hbmArrives (s : State) (h : Nat) (p : DPkt) (poison : Bool) : State :=
  match p.load with
  | .bytes a data =>
    let s := (s.store a data).perfs puGlb 0x01 [h, 6] data.length
    (if poison then s.setPoison a data.length true else s).dnetReply h 0 p (.done eOk)
  | .read a n =>
    if poison then s.dnetReply h 0 p (.got [] true)
    else (s.perfs puGlb 0x00 [h, 6] n).dnetReply h 0 p (.got (s.bytes a n) (s.poisoned a n))
  | _ => s

/-! The GET queue (R410). -/

/-- The data of a remote read leaves, with the poison of its bytes. -/
def State.getAnswer (s : State) (k : Pkt) (bytes : List Byte) (bad : Bool) : State :=
  let fl := (k.flags.toNat &&& pfSeqb) + pfLast + if bad then pfPoison else 0
  s.send (s.pkt pkGetData 4 fl k.src.toNat 0 k.tag.toNat 0 0 0 (sliceD 0 bytes 0 k.aux.toNat))

/-- A part of a remote read is back at the Thresher: with the last the data leaves. -/
def State.getPart (s : State) (id stop : Nat) (data : List Byte) (poison : Bool) : State :=
  match s.gets.find? fun g => g.id = id with
  | none => s
  | some g =>
    let parts := g.parts.map fun x => if x.1 = stop && x.2.isNone then (stop, some (data, poison)) else x
    if parts.any fun x => x.2.isNone then
      { s with gets := s.gets.map fun e => if e.id = id then { e with parts := parts } else e }
    else
      State.getAnswer { s with gets := s.gets.filter fun e => e.id ≠ id } g.pkt
        (parts.flatMap fun x => (x.2.map Prod.fst).getD []) (parts.any fun x => x.2.any Prod.snd)

end Sys2Proof.Machine
end

