-- ==== Sys2Proof/Machine/WagonRun.lean ====
section
/-! DEFINITION. Wagon streams at work: semaphore cycles, starts, chunks, pieces under their tags, completions; what each
copy of a packet does where it arrives (R16-R22, R117, R142, R186, R251-R269). -/

namespace Sys2Proof.Machine

/-! Semaphore cycles (R260). -/

/-- The pair an ATTN waits on in ring_take, where the context is part-done at one (R186). -/
def State.ringPair (s : State) (v c w : Nat) : Nat := swPair ((s.readSlots v c (atSlots w)).val (atMp w + 4))

/-- Step 3 for one context: a waiting SEMW or ring_take whose condition holds takes its count and goes on. -/
def State.semCtx (s : State) (v c : Nat) : State :=
  if s.cst v c ≠ csWait || s.get (.VAT_CTX_STATUS v c) VAT_CTX_STATUS.WAIT_ON ≠ 1 then s else
  match s.fetch v c with
  | none => s
  | some w =>
    if hOpc w = opSemw then
      match s.semwTest v w with
      | some s => (s.wake v c).nextPc v c
      | none => s
    else if hOpc w = opAttn then
      match s.takeSem v 0 (s.ringPair v c w) 1 with
      | some s => (s.setVat v { s.vat v with ringTaken := addOnce c (s.vat v).ringTaken }).wake v c
      | none => s
    else s

def State.semCtxs (s : State) (v : Nat) : State := [0, 1, 2, 3].foldl (fun s c => s.semCtx v c) s

/-- Whether the head descriptor `d` of a stream may start as far as ORDER goes (R251). -/
def orderOk (t : Stream) (d : Desc) : Bool := !dOrder d.bytes || t.descs.all fun e => e.idx = d.idx || e.complete

/-- Step 4 for one stream: a start condition that holds takes its count. -/
def State.semStream (s : State) (v i : Nat) : State :=
  let t := s.stream v i
  match t.head with
  | none => s
  | some d =>
    if t.stopped || d.taken || dWkind d.bytes = 0 || !orderOk t d then s else
    match s.takeSem v (dWkind d.bytes - 1) (dWidx d.bytes) (dWval d.bytes) with
    | some s => s.setDesc v i { d with taken := true }
    | none => s

/-- A semaphore cycle: writes and additions have been applied as they came; then contexts, then streams. -/
def State.semCycle (s : State) (v : Nat) : State :=
  (List.range 64).foldl (fun s i => s.semStream v i) (s.semCtxs v)

def execSemaphoreCycle (v : VatId) (s : State) : Host.Outcome State Fault Refusal :=
  .next (s.semCycle v)

/-! Stream waits (R261-R263). -/

/-- The pair of a context's stream wait: a SEMW on FULL or EMPTY, or a ring_take. -/
def State.waitPair (s : State) (v c : Nat) : Option Nat :=
  if s.cst v c ≠ csWait || s.get (.VAT_CTX_STATUS v c) VAT_CTX_STATUS.WAIT_ON ≠ 1 then none else
  match s.fetch v c with
  | none => none
  | some w =>
    if hOpc w = opSemw then if semwKind w ≤ 1 then some (semwIdx w) else none
    else if hOpc w = opAttn then some (s.ringPair v c w)
    else none

/-- The lowest enabled stream bound to the pair a context waits on. -/
def State.waitStream (s : State) (v c : Nat) : Option Nat :=
  match s.waitPair v c with
  | none => none
  | some p => (List.range 64).find? fun i =>
      s.get (.WAGON_STREAM_CFG v i) WAGON_STREAM_CFG.ENABLE = 1 && s.get (.WAGON_STREAM_CFG v i) WAGON_STREAM_CFG.PAIR = p

def State.waitLate (s : State) (v c : Nat) : State :=
  match s.waitStream v c with
  | some i => if s.strict v then s else s.bump (.WAGON_STREAM_STAT v i) WAGON_STREAM_STAT.LATE
  | none => s

def execStreamWaitLate (v : VatId) (c : CtxId) (s : State) : Host.Outcome State Fault Refusal :=
  .next (s.waitLate v c)

/-- DEADLINE_MISS: the condition is tested first, and a wait it ends passes. -/
def State.deadlineMiss (s : State) (v c : Nat) : State :=
  if !s.strict v || (s.waitStream v c).isNone then s else
  let s := s.semCycle v
  match s.waitStream v c with
  | none => s
  | some i =>
    let s := s.raise v c eDeadlineMiss
    let w := WAGON_MISS_INFO.CTX.put 0 c
    let w := WAGON_MISS_INFO.STREAM.put w i
    let s := s.wr (.WAGON_MISS_INFO v) (WAGON_MISS_INFO.VALID.put w 1)
    (s.wr (.WAGON_MISS_TIME v) s.now).wr (.WAGON_MISS_DEADLINE v) (BitVec.ofNat 64 (s.stream v i).deadline)

def execDeadlineMiss (v : VatId) (c : CtxId) (s : State) : Host.Outcome State Fault Refusal :=
  .next (s.deadlineMiss v c)

/-! DESCRIPTOR_START (R251, R255). -/

/-- The banks a descriptor's ranges can touch in its own Cellar; a multicast touches them where its own Vat receives. -/
def State.descBanks (s : State) (v : Nat) (b : List Byte) : List Nat :=
  (s.srcBanks v v b ++ s.destBanks v v b).eraseDups

/-- The first error among claims of the wagon port on the banks. -/
def State.claimsErr (s : State) (v : Nat) (banks : List Nat) : Nat :=
  firstClaimErr (fun b => s.claimErr v b portWagon portMould) banks

/-- Once descriptor `idx` has started: the eighth of a burst brings the next burst (R250). -/
def State.nextBurst (s : State) (v i idx : Nat) : State :=
  if idx % 16 ≠ 7 then s else
  let t := s.stream v i
  match t.queue with
  | [] => s
  | b :: q => s.setStream v i { t with queue := { b with held := b.held ++ s.burst b (idx + 9) } :: q }

/-- The transfer begins: claims; a PROG checks its owners again and gives its count back where they are not idle. -/
def State.descBegin (s : State) (v i : Nat) (d : Desc) : State :=
  let banks := s.descBanks v d.bytes
  let e := s.claimsErr v banks
  if dKind d.bytes = dkProg && !s.progFree v d.bytes then
    let s := if dWkind d.bytes = 0 then s else s.addSem v (dWkind d.bytes - 1) (dWidx d.bytes) (dWval d.bytes)
    s.descFail v i d.idx eCfgLocked
  else if e ≠ 0 then (s.perf (puCellar v) 0x04 [0, portWagon] 1).descFail v i d.idx e
  else ((s.claim v portWagon (.desc v i d.idx) banks).setDesc v i { d with taken := true, started := true }).nextBurst v i d.idx

def State.descStart (s : State) (v i : Nat) : State :=
  if (s.vat v).killed then s else
  let s := s.semCycle v
  let t := s.stream v i
  match t.head with
  | none => s
  | some d =>
    if !t.stopped && orderOk t d && (d.taken || dWkind d.bytes = 0) then s.descBegin v i d else s

def execDescriptorStart (v : VatId) (i : StreamId) (s : State) : Host.Outcome State Fault Refusal :=
  .next (s.descStart v i)

/-! Pieces under their tags (R257, R264, R266). -/

/-- What piece `p` writes, from the bytes of its sources. -/
def pieceData (b : List Byte) (p : Nat) (srcs : List (List Byte)) : List Byte :=
  let k := dKind b
  if k = dkStrided then
    srcs.flatMap fun r => (List.range (512 / dEsz b / dEs b)).flatMap fun e => (r.drop ((dEo b + e * dEs b) * dEsz b)).take (dEsz b)
  else if k = dkTranspose then srcs.flatMap fun r => (r.drop (p % 256 * 2)).take 2
  else if k = dkZero then List.replicate 512 0
  else if k = dkPackcol then sliceD 0 (srcs.flatMap id) 0 512
  else srcs.flatMap id

/-- The requests by which piece `p` reads what does not lie in its Wagon's own Cellar. A REMOTE_GET reads at its peer. -/
def State.pieceReads (s : State) (v : Nat) (b : List Byte) (p : Nat) : List (Nat × Nat) :=
  if dKind b = dkGet then
    granuleCuts (stride (dSrc b % 2 ^ 48) (p / perBlock b) (dSstr b) + 512 * (p % perBlock b)) (pieceLen b p)
  else match dSources b p with
  | [(a, n)] => match s.place (s.part v) a n with
    | .hbm => granuleCuts a n
    | .cellar w _ => if w = v then [] else [(a, n)]
    | .none => []
  | _ => []

/-- The stop that serves a read of a piece. -/
def State.readStop (s : State) (v a n : Nat) : Nat :=
  match s.place (s.part v) a n with
  | .cellar w _ => s.stopOf w
  | _ => hbmStop a

/-- The requests by which piece `p` writes `data` outside its Wagon's own Cellar; a REMOTE_PUT's leaves by the fabric. -/
def State.pieceWrites (s : State) (v : Nat) (b : List Byte) (p : Nat) (data : List Byte) : List (DTo × Load) :=
  match dDest b p with
  | none => []
  | some (a, n) => match s.place (s.part v) a n with
    | .hbm => (granuleCuts a n).map fun x => (.stop (hbmStop x.1), .bytes x.1 ((data.drop (x.1 - a)).take x.2))
    | .cellar w r =>
      if dMcast b then if dMask b % 2 ^ 16 = 0 then [] else [(.mask (s.physMask (dMask b)), .row r data)]
      else if w = v then [] else [(.stop (s.stopOf w), .row r data)]
    | .none => []

/-- The tags a piece needs: one for each read, and for each write, which follow the reads. -/
def State.pieceTags (s : State) (v : Nat) (b : List Byte) (p : Nat) : Nat :=
  max (s.pieceReads v b p).length (if dKind b = dkPut then 1 else (s.pieceWrites v b p []).length)

/-- Words of PROG into the program buffer. -/
def State.writeProg (s : State) (v a : Nat) (data : List Byte) : State :=
  (List.range (data.length / 16)).foldl (fun s k =>
    { s with prog := Tab.set zero128 s.prog (v * 0x4000 + (a + k) % 16384) (BitVec.ofNat 128 (fieldN data (16 * k) 16)) }) s

/-- What a piece's own row in its own Cellar, or its words, meet, and their store. -/
def State.writeOwn (s : State) (v : Nat) (b : List Byte) (p : Nat) (data : List Byte) : State × Nat :=
  if dKind b = dkProg then
    (s.writeProg v (dDst b + 32 * p) data, 0)
  else match dDest b p with
  | none => (s, 0)
  | some (a, _) => match s.place (s.part v) a data.length with
    | .cellar w r =>
      if dMcast b || w ≠ v then (s, 0)
      else if s.gs v (bankOf r / 32) = gsOff then (s.lateDrop v r (s.stopOf v), eWindowClosed)
      else if s.heldErr v (bankOf r) ≠ 0 then (s, eBankUnclaimed)
      else ((s.setRow v r data).perf (puCellar v) 0x02 [0, portWagon] 1, 0)
    | .hbm => (s, 0)
    | .none => (s, eLayoutInvalid)

/-- The bytes of piece `p` of descriptor `d` are there: it writes, under the tags of the piece. -/
def State.pieceEnd (s : State) (v i : Nat) (d : Desc) (p : Nat) (srcs : List (List Byte)) : State :=
  let b := d.bytes
  let o := some (v, i, d.idx)
  let data := pieceData b p srcs
  let s := if dDest b p |>.isSome then s.perf (puVat v) 0x1A [0] data.length else s
  let uses := s.pieceUses o p
  if dKind b = dkPut then
    match uses with
    | [] => s
    | t :: rest =>
      let k := s.pkt pkWinWrite 3 (if p + 1 = dPieces b then pfLast else 0) (putModule b)
        (putVat b * 2 ^ 40 + putWindow b * 2 ^ 32 + putRow b p) t.id 0 0 0 data
      (rest.foldl (fun s x => s.tagFree x.id) (s.setTag { t with req := .put k, left := [] })).send k
  else
    let (s, e) := s.writeOwn v b p data
    let ws := s.pieceWrites v b p data
    let s := (uses.zip ws).foldl (fun s x => s.tagSend v x.1 x.2.1 x.2.2) s
    let s := (uses.drop ws.length).foldl (fun s x => s.tagFree x.id) s
    if e ≠ 0 then s.descFail v i d.idx e else s

/-- A read of a piece is back under tag `t` (R265, R267): with the last of them the piece goes on. Where its descriptor has
failed, or has gone with a kill or a RESET, the bytes are discarded. -/
def State.readBack (s : State) (t : TagUse) (data : List Byte) (bad : Bool) : State :=
  if bad then s.tagFail t eUncorrectable else
  match t.owner, s.ownerDesc t.owner with
  | some (v, i, _), some d =>
    if d.err ≠ 0 then s.dropPiece t else
    let s := s.setTag { t with req := .held data, left := [] }
    let uses := s.pieceUses t.owner t.piece
    if uses.all fun x => x.req.isHeld then s.pieceEnd v i d t.piece [uses.flatMap fun x => x.req.bytes] else s
  | _, _ => s.dropPiece t

/-- The sources of a piece in its Wagon's own Cellar, read under its claims: the bytes, and the error they meet. -/
def State.readOwn (s : State) (v : Nat) (b : List Byte) (p : Nat) : List (List Byte) × Nat :=
  (dSources b p).foldl (fun (acc : List (List Byte) × Nat) x =>
    if acc.2 ≠ 0 then acc
    else match s.place (s.part v) x.1 x.2 with
    | .cellar _ r =>
      if s.heldErr v (bankOf r) ≠ 0 then ([], eBankUnclaimed)
      else if s.poisoned x.1 x.2 then ([], eUncorrectable)
      else (acc.1 ++ [s.bytes x.1 x.2], 0)
    | _ => ([], eLayoutInvalid)) ([], 0)

/-- A read of a piece goes out under tag `t`. -/
def State.readSend (s : State) (v : Nat) (b : List Byte) (t : TagUse) (x : Nat × Nat) : State :=
  if dKind b = dkGet then
    let k := s.pkt pkGetReq 0 0 (dSrc b / 2 ^ 48) x.1 t.id 0 x.2 0 []
    (s.setTag { t with req := .get k, left := [] }).send k
  else s.tagSend v t (.stop (s.readStop v x.1 x.2)) (.read x.1 x.2)

/-- Issue piece `p` of a descriptor: it takes its tags, and reads. -/
def State.pieceIssue (s : State) (v i : Nat) (d : Desc) (p : Nat) : State :=
  let b := d.bytes
  let o := (v, i, d.idx)
  let n := s.pieceTags v b p
  let s := s.setDesc v i { d with moved := p + 1 }
  let s := (List.range n).foldl (fun s _ => s.tagNew o p) s
  let s := if n = 0 then s else { s with tagWait := s.tagWait.filter fun w => w ≠ v, tagTurn := v }
  let s := if dKind b = dkGet then s else
    s.perf (puVat v) 0x19 [0] (((dSources b p).map Prod.snd).foldl (· + ·) 0)
  match s.pieceReads v b p with
  | [] =>
    let (srcs, e) := s.readOwn v b p
    if e ≠ 0 then ((s.pieceUses (some o) p).foldl (fun s x => s.tagFree x.id) s).descFail v i d.idx e
    else s.pieceEnd v i { d with moved := p + 1 } p srcs
  | rs => ((s.pieceUses (some o) p).zip rs).foldl (fun s x => s.readSend v b x.1 x.2) s

/-- The descriptor of a stream that has a piece to move: of several in flight the first (log 152). -/
def State.readyDesc (s : State) (v i : Nat) : Option Desc :=
  (s.stream v i).descs.find? fun d => d.started && d.err = 0 && d.moved < dPieces d.bytes

/-- The deadline of a stream (R258). -/
def State.deadline (s : State) (v i : Nat) : Nat :=
  let cfg := Reg.WAGON_STREAM_CFG v i
  let rate := s.get cfg WAGON_STREAM_CFG.RATE
  if rate = 0 then 2 ^ 64 - 1 else
  let fill := s.sem v (s.get cfg WAGON_STREAM_CFG.FILLSRC) (s.get cfg WAGON_STREAM_CFG.PAIR) *
    max 1 (s.get cfg WAGON_STREAM_CFG.ROWS_PER_COUNT)
  s.now.toNat + fill * 1000 / rate

/-- Whether a Wagon has a piece ready that needs tags. -/
def State.wantsTags (s : State) (v : Nat) : Bool :=
  !(s.vat v).killed && (List.range 64).any fun i => match s.readyDesc v i with
    | some d => s.pieceTags v d.bytes d.moved ≠ 0
    | none => false

/-- The Wagon whose turn it is among those that wait for a shared tag: the next after the one served last (R264). -/
def State.tagNext (s : State) : Option Nat :=
  (List.range 16).map (fun k => (s.tagTurn + 1 + k) % 16) |>.find? fun w => s.tagWait.contains w && s.wantsTags w

/-- Whether the tags a piece needs are free: at most 512 a Wagon, 7,296 in all, waiting Wagons in turn. -/
def State.tagsFor (s : State) (v : Nat) (b : List Byte) (p : Nat) : Bool :=
  let n := s.pieceTags v b p
  n = 0 || (s.wagonTags v + n ≤ 512 && s.sharedTags + n ≤ 7296 && (s.tagNext.isNone || s.tagNext = some v))

/-- A Wagon that finds no shared tag waits for one (R264). -/
def State.tagQueue (s : State) (v : Nat) : State :=
  if s.wantsTags v && (List.range 64).any fun i => match s.readyDesc v i with
    | some d => !s.tagsFor v d.bytes d.moved && s.wagonTags v + s.pieceTags v d.bytes d.moved ≤ 512
    | none => false
  then { s with tagWait := addOnce v s.tagWait } else s

/-- The stream the arbiter grants: the earliest deadline, then the lower number. -/
def State.grantee (s : State) (v : Nat) : Option Nat :=
  (List.range 64).foldl (fun best i =>
    match s.readyDesc v i with
    | none => best
    | some d =>
      if !s.tagsFor v d.bytes d.moved then best else
      match best with
      | none => some i
      | some j => if s.deadline v i < s.deadline v j then some i else best) none

/-- Issue up to `n` pieces of a descriptor. -/
def State.movePieces (s : State) (v i idx : Nat) : Nat → State
  | 0 => s
  | n + 1 =>
    match (s.stream v i).descs.find? fun d => d.idx = idx && d.err = 0 with
    | none => s
    | some d =>
      if dPieces d.bytes ≤ d.moved || !s.tagsFor v d.bytes d.moved then s
      else State.movePieces (s.pieceIssue v i d d.moved) v i idx n

def State.chunkGrant (s : State) (v : Nat) : State :=
  if (s.vat v).killed then s else
  match s.grantee v with
  | none => s.tagQueue v
  | some i =>
    match s.readyDesc v i with
    | none => s
    | some d =>
      let s := s.setStream v i { s.stream v i with deadline := s.deadline v i }
      ((s.perf (puVat v) 0x18 [i, 0xFF] 1).movePieces v i d.idx 16).tagQueue v

def execChunkGrant (v : VatId) (s : State) : Host.Outcome State Fault Refusal :=
  .next (s.chunkGrant v)

/-! DESCRIPTOR_COMPLETE (R252, R254). -/

/-- The post of a completed descriptor. -/
def State.descPost (s : State) (v : Nat) (b : List Byte) : State :=
  if dPkind b = 0 then s
  else if dPtgt b / 16 % 2 = 1 then
    s.dnetSend (s.vatPkt v (.stop (s.stopOf (dPtgt b % 16))) (.post (dPkind b - 1) (dPidx b) (dPval b) false))
  else s.addSem v (dPkind b - 1) (dPidx b) (dPval b)

/-- The completed descriptors at the front post in order and leave the stream. -/
def State.descPosts (s : State) (v i : Nat) : Nat → State
  | 0 => s
  | n + 1 =>
    let t := s.stream v i
    match t.descs with
    | [] => s
    | d :: ds =>
      if d.complete then State.descPosts ((s.setStream v i { t with descs := ds }).descPost v d.bytes) v i n else s

/-- The batch ends with its last descriptor: its record, its interrupt, its chained successor or the next entry. -/
def State.batchEnd (s : State) (v i : Nat) : State :=
  let t := s.stream v i
  match t.queue with
  | [] => s
  | b :: q =>
    if !b.fetched || t.stopped || t.nextIdx ≠ b.count || !t.descs.isEmpty then s else
    let s := s.batchRecord b.hdr 1 0 0
    let s := if b.irq then s.emit (.reeveIrq clsWagon (s.phys v)) else s
    if b.next = 0 then (s.setStream v i { t with queue := q, nextIdx := 0 }).settle v
    else s.setStream v i { t with queue := { hdr := b.next, ctx := b.ctx } :: q, nextIdx := 0 }

def State.descComplete (s : State) (v i : Nat) : State :=
  match (s.stream v i).descs.find? fun d => d.started && !d.complete && d.err = 0 && d.moved = dPieces d.bytes &&
      s.tags.all fun t => t.owner ≠ some (v, i, d.idx) with
  | none => s
  | some d =>
    let s := (s.setDesc v i { d with complete := true }).release (.desc v i d.idx)
    let s := if dIrq d.bytes then s.emit (.reeveIrq clsWagon (s.phys v)) else s
    (s.descPosts v i (s.stream v i).descs.length).batchEnd v i

def execDescriptorComplete (v : VatId) (i : StreamId) (s : State) : Host.Outcome State Fault Refusal :=
  .next (s.descComplete v i)

/-! Expiry of a tag (R265). -/

/-- The request of a tag goes out again with its sequence bit inverted, to the stops that have not answered. -/
def State.tagReissue (s : State) (t : TagUse) : State :=
  let flip := fun (k : Pkt) => { k with flags := k.flags ^^^ 4 }
  let t := { t with again := true, seq := !t.seq }
  match t.req with
  | .dnet p =>
    let dest := match p.dest with
      | .stop n => DTo.stop n
      | .mask _ => .mask ((t.left.filterMap physOfStop).foldl (fun w q => w ||| BitVec.ofNat 18 (2 ^ q)) 0)
    let p := { p with dest := dest, seq := t.seq }
    (s.setTag { t with req := .dnet p }).dnetSend p
  | .held _ => s
  | .put k => (s.setTag { t with req := .put (flip k) }).send (flip k)
  | .get k => (s.setTag { t with req := .get (flip k) }).send (flip k)
  | .page d ks =>
    (s.setTag { t with req := .page d (ks.map flip) }).sendNative (s.get (.KVX_DEST_CFG d) KVX_DEST_CFG.MODULE) (ks.map flip)

/-! DNET_PACKET_ARRIVAL and REMOTE_POST (R16, R20, R22, R28, R142, R255). -/

/-- An answer reaches its Wagon. A poisoned one fails the request (R28; log 150); the completion of a write carries its
error. -/
def State.answerArrives (s : State) (p : DPkt) (poison : Bool) : State :=
  match s.dnetTag p with
  | none => s
  | some t => match p.load with
    | .got data bad =>
      match t.req with
      | .dnet q => (match q.load with
        | .read _ _ => s.readBack t data (bad || poison)
        | _ => s.tagFail t eUncorrectable)
      | _ => s
    | .done e =>
      if poison then s.tagFail t eUncorrectable
      else if e ≠ 0 then s.tagFail t e
      else s.tagLess t p.src
    | _ => s

/-- A Vat-position stop delivers to its logical Vat, provided the packet's partition is its own (R16): packets from the
other stops are exempt. A position that serves no logical Vat has no partition (log 154); a poisoned post has no effect
(log 150). -/
def State.vatArrives (s : State) (stop : Nat) (p : DPkt) (poison : Bool) : State :=
  let ph := stop - 6
  if !s.domOn (.periphery ph) then (if p.load.cls = .rsp then s else s.dnetReply stop 0 p (.got [] true))
  else match (s.logical ph).filter fun w => (physOfStop p.src).isNone || s.part w = p.part with
  | none =>
    (s.bump .GLB_DNET_ERR GLB_DNET_ERR.PART_DROP).log
      { code := eLayoutInvalid, cls := clsDnet, verdict := 0, part := p.part, unit := ph, sub := p.src }
  | some w => match p.load with
    | .row r data => s.rowArrives w p r data poison
    | .read a n => if poison then s.dnetReply stop (s.part w) p (.got [] true) else s.readArrives w p a n
    | .post kind i n set => if poison then s else if set then s.setSem w kind i n else s.addSem w kind i n
    | .got _ _ => s.answerArrives p poison
    | .done _ => s.answerArrives p poison
    | .bytes _ _ => s

/-- A stop delivers a packet. -/
def State.dnetDeliver (s : State) (stop : Nat) (p : DPkt) (poison : Bool) : State :=
  let cls := match p.load.cls with
    | .data => 0
    | .req => 1
    | .rsp => 2
  let s := s.perfs puGlb 0x03 [cls, 3] 1
  if stop < 6 then
    if s.domOn (.hbmCtl stop) then s.hbmArrives stop p poison
    else if p.load.cls = .rsp then s else s.dnetReply stop 0 p (.got [] true)
  else if stop < 24 then s.vatArrives stop p poison
  else match p.load, p.get with
    | .got data bad, some id => s.getPart id p.src data (bad || poison)
    | _, _ => s

/-- A copy of a packet arrives, with what its stop finds in it (R22). A lost part of a remote read takes its entry with it:
the reader's own timeout reissues it. -/
def State.dnetArrive (s : State) (n : Nat) (e : FlitErr) : State :=
  match s.copyAt n with
  | none => s
  | some (k, p, stop) =>
    if !s.dnetFirst k p stop then s else
    let s := s.dnetTake k p stop
    match e with
    | .none => s.dnetDeliver stop p false
    | .single => (s.bump .GLB_DNET_ERR GLB_DNET_ERR.CORR).dnetDeliver stop p false
    | .double => (s.bump .GLB_DNET_ERR GLB_DNET_ERR.POISON).dnetDeliver stop p true
    | .header =>
      let s := { s with gets := s.gets.filter fun g => p.get ≠ some g.id }
      s.log { code := eUncorrectable, cls := clsDnet, verdict := 1, part := p.part, unit := (physOfStop stop).getD stop, sub := p.src }

def execDnetPacketArrival (n : Nat) (e : FlitErr) (s : State) : Host.Outcome State Fault Refusal :=
  .next (s.dnetArrive n e)

/-- Whether copy `n` in flight is a post. -/
def State.isPost (s : State) (n : Nat) : Bool :=
  match s.copyAt n with
  | some (_, p, _) => match p.load with
    | .post _ _ _ _ => true
    | _ => false
  | none => false

def execRemotePost (n : Nat) (s : State) : Host.Outcome State Fault Refusal :=
  .next (if s.isPost n then s.dnetArrive n .none else s)

/-! GROUP_CLOSE_DONE (R228). -/

/-- A tag targets a group (R228): a descriptor, or an instruction that waits, with a claim in it; a row on its way to it. -/
def State.groupTags (s : State) (v g : Nat) : Bool :=
  (s.claims.any fun c => c.v = v && c.bank / 32 = g && match c.holder with
    | .desc _ _ _ => true
    | .insn _ _ => true
    | _ => false) ||
  s.tags.any fun t => t.left.contains (s.stopOf v) && match t.req with
    | .dnet p => match p.load with
      | .row r _ => bankOf r / 32 = g
      | .read a _ => bankOf (a % 2 ^ 32 / 512) / 32 = g
      | _ => false
    | _ => false

def execGroupCloseDone (v : VatId) (g : Fin 4) (late : Bool) (s : State) : Host.Outcome State Fault Refusal :=
  .next (if s.gs v g = gsClosing && (late || !s.groupTags v g) then s.groupOff v g else s)

/-! RESET of a stream (R253, R268). -/

/-- A stopped stream discards its batches; what its descriptors still have in flight returns to no one. It accepts batches
again, so a WAGON that waited for it goes on. -/
def State.streamReset (s : State) (v i : Nat) : State :=
  let t := s.stream v i
  let gone := fun (o : Option (Nat × Nat × Nat)) => match o with
    | some (w, j, k) => if w = v && j = i && k < 65536 then some (w, j, k + 65536) else o
    | none => none
  let regone := fun (p : DPkt) => { p with owner := gone p.owner }
  let s := (List.range t.nextIdx).foldl (fun s k => s.release (.desc v i k)) s
  let s := { s with
    dnet := s.dnet.map regone
    tags := s.tags.map fun (x : TagUse) => { x with
      owner := gone x.owner
      req := match x.req with
        | .dnet p => .dnet (regone p)
        | r => r } }
  (s.setStream v i { deadline := t.deadline }).settle v

end Sys2Proof.Machine
end

