-- ==== Sys2Proof/Machine/Page.lean ====
section
/-! DEFINITION. The KV page (R317-R323): the conversion of rows and the bytes of a record. -/

namespace Sys2Proof.Machine

/-- How a page's conversion has gone: the generator, the flags raised, a NaN or infinity seen. -/
structure PageAcc where
  gen : Gen
  flags : Flags := 0
  nonfinite : Bool := false
  deriving DecidableEq, Repr

/-- The rounding of one element; SR16 takes a step of the generator (R322). -/
def PageAcc.rnd (a : PageAcc) (rm : Nat) : Rnd × PageAcc :=
  if rm = 2 then
    let (r, g) := genRand a.gen
    (.sr16 r, { a with gen := g })
  else (if rm = 1 then .rtz else .rne, a)

/-- The grid of C8 (R45), with exponents to spare above 480. -/
def fmtC8 : FpFmt := { prec := 4, emin := -9, ebits := 6, qnan := 0 }

/-- Whether ±m × 2^e exceeds 480 in magnitude. -/
def above480 (m : Nat) (e : Int) : Bool :=
  if 0 ≤ e then decide (480 < m * 2 ^ e.toNat) else decide (480 * 2 ^ (-e).toNat < m)

/-- `to_c8` (R321): the code and the flags. -/
def toC8 (md : Rnd) (z : W32) : Byte × Flags :=
  let top := fun (neg : Bool) => (BitVec.ofNat 8 (if neg then 255 else 127), flagOF ||| flagIX)
  match f32 z with
  | .nan => (0, 0)
  | .inf neg => top neg
  | .fin neg m e =>
    if above480 m e then top neg else
    let (w, fl) := fmtC8.round md false m e
    if w = 0 then (0, fl) else (BitVec.ofNat 8 (w + if neg then 128 else 0), fl)

/-- A fine scale (R47) as an exact value. -/
def fineValue (f : Nat) : FpV :=
  let e := f / 8
  let m := f % 8
  if e = 0 then .fin false m (-17) else .fin false (8 + m) ((e : Int) - 18)

/-- 480 × a fine scale. -/
def fine480 (f : Nat) : FpV :=
  match fineValue f with
  | .fin _ m e => .fin false (480 * m) e
  | v => v

/-- The smallest fine scale that reaches `amax`, else 0xFF (R321). -/
def fineFor (amax : FpV) : Nat := ((List.range 256).find? fun f => !(fine480 f).lt amax).getD 0xFF

/-- Whether the exact quotient of `x` by the coarse scale and fine scale `f` is nonzero and below C8's smallest normal, 2^-6 (R60);
fine scale 0 leaves no quotient but what underflows. -/
def c8Tiny (coarse x : W32) (f : Nat) : Bool :=
  let lim := (((f32 coarse).mul (fineValue f)).1.mul (.fin false 1 (-6))).1
  !(f32 x).isZero && (f = 0 || (f32 x).abs.lt lim)

/-- One block of 32 elements of a C8 row (R321): its fine scale and its codes. Its flags judge the codes against the exact
quotients (R60). -/
def c8Block (coarse : W32) (rm : Nat) (xs : List W32) (a : PageAcc) : Byte × List Byte × PageAcc :=
  let ys := xs.map fun x => (fDiv x coarse, x)
  let amax := (ys.map Prod.fst).foldl (fun m y => let v := (f32 y.1).abs; if v.isFin && m.lt v then v else m) (.fin false 0 0)
  let fine := fineFor amax
  let fv := (toF32 (fineValue fine)).1
  let (qs, a) := ys.foldl (fun (r : List Byte × PageAcc) p =>
    let y := p.1
    let (md, a) := r.2.rnd rm
    let v := f32 y.1
    let (z, fz) := if v.isNan then ((0 : W32), (0 : Flags)) else if fine = 0 then (0, 0) else fDiv y.1 fv
    let (q, fq) := toC8 md z
    let fl := if v.isFin then (y.2 &&& flagIX) ||| (fz &&& flagIX) ||| fq else fq
    let fl := if v.isFin && fl &&& flagIX ≠ 0 && c8Tiny coarse p.2 fine then fl ||| flagUF else fl
    (r.1 ++ [q], { a with flags := a.flags ||| fl, nonfinite := a.nonfinite || !v.isFin })) ([], a)
  (BitVec.ofNat 8 fine, qs, a)

/-- One row of a C8 page (R319): the fine scales, then the elements. -/
def c8Row (coarse : W32) (rm : Nat) (xs : List W32) (a : PageAcc) : List Byte × PageAcc :=
  let (fs, qs, a) := (chunks 32 (xs.length / 32) xs).foldl (fun (r : List Byte × List Byte × PageAcc) b =>
    let (f, q, a) := c8Block coarse rm b r.2.2
    (r.1 ++ [f], r.2.1 ++ q, a)) ([], [], a)
  (fs ++ qs, a)

/-- The number format of a code of R35. -/
def fmtOf (n : Nat) : FpFmt := if n = 0 then fmtBF16 else fmtFP16

/-- One row in BF16 or FP16 (R320): the same format copies the bits, which leave by R58. -/
def fpRow (src dst rm : Nat) (xs : List W16) (a : PageAcc) : List Byte × PageAcc :=
  xs.foldl (fun (r : List Byte × PageAcc) x =>
    let (md, a) := r.2.rnd rm
    if src = dst then (r.1 ++ leBytes 2 ((fmtOf dst).leave x.toNat), a) else
    let (y, fl) := cvt (fmtOf dst) md (widen (fmtOf src) x)
    (r.1 ++ leBytes 2 y.toNat, { a with flags := a.flags ||| fl })) ([], a)

/-- One cache row in the destination's format. -/
def pageRow (src dst rm : Nat) (coarse : W32) (xs : List W16) (a : PageAcc) : List Byte × PageAcc :=
  if dst = 4 then c8Row coarse rm (xs.map (widen (fmtOf src))) a else fpRow src dst rm xs a

/-- Bytes of one row of a page (R317). -/
def rowBytes (fmt hd : Nat) : Nat := if fmt = 4 then hd / 32 + hd else 2 * hd
def pageBytes (fmt hd : Nat) : Nat := 64 + 128 * rowBytes fmt hd

/-- A list at length `n`, padded with `d`. -/
def fit {α : Type} (d : α) (n : Nat) (xs : List α) : List α := xs.take n ++ List.replicate (n - xs.length) d

/-- The rows of one region: tokens 0 to COUNT − 1 converted, the rest zero (R319). -/
def pageRegion (g : Geom) (dst rm count : Nat) (coarse : W32) (rows : List (List W16)) (a : PageAcc) : List Byte × PageAcc :=
  let n := rowBytes dst g.hd
  let (bs, a) := (fit [] count rows).foldl (fun (r : List Byte × PageAcc) xs =>
    let (b, a) := pageRow g.fmt dst rm coarse (fit 0 g.hd xs) r.2
    (r.1 ++ b, a)) ([], a)
  (fit 0 (64 * n) bs, a)

/-- HDCODE (R318). -/
def hdCode (hd : Nat) : Nat := if hd = 64 then 0 else if hd = 128 then 1 else 2

/-- The 60 header bytes before the CRC (R318). -/
def recHead (r : Rec) (g : Geom) (fmt flags total seq me time : Nat) (coarse : W32) : List Byte :=
  leBytes 4 0x4C564B50 ++ leBytes 1 r.kind ++ leBytes 1 fmt ++ leBytes 1 (hdCode g.hd) ++ leBytes 1 flags ++
  leBytes 4 r.handle ++ leBytes 4 r.tag ++ leBytes 2 r.layer ++ leBytes 2 r.head ++ leBytes 4 r.first ++
  leBytes 2 r.count ++ leBytes 2 r.variant ++ leBytes 4 coarse.toNat ++ leBytes 8 seq ++ leBytes 4 total ++
  leBytes 2 me ++ leBytes 2 0 ++ leBytes 8 time ++ leBytes 4 0

/-- A record with its CRC (R323). -/
def withCrc (head payload : List Byte) : List Byte := head ++ leBytes 4 (crc32c (head ++ payload)).toNat ++ payload

/-- The payload of a page and what its header's FLAGS hold (R318, R320-R322). -/
def pagePayload (r : Rec) (g : Geom) (dst rm : Nat) (coarse : W32) (krows vrows : List (List W16)) : List Byte × Nat :=
  let seed := r.seed + BitVec.ofNat 64 (r.layer * 2 ^ 32)
  let a : PageAcc := { gen := genSeed seed (r.head * 2 ^ 16 + r.first / 64) }
  let (k, a) := pageRegion g dst rm r.count coarse krows a
  let (v, a) := pageRegion g dst rm r.count coarse vrows a
  (k ++ v, a.flags.toNat + if a.nonfinite then 16 else 0)

end Sys2Proof.Machine
end

