-- ==== Sys2Proof/Machine/Kvx.lean ====
section
/-! DEFINITION. KVX at work: destinations, credit, the native and the RoCEv2 path, DOWN (R324-R342, R354-R366), and
the expiry of tags (R265, R334). -/

namespace Sys2Proof.Machine

/-- Whether any record of the request stands queued or unacknowledged at a destination. -/
def State.kvxOwes (s : State) (d h : Nat) : Bool :=
  (s.dest d).queue.any (fun (r : Rec) => r.handle = h) || (s.dest d).flight.any (fun (f : Flight) => f.item.handle = h)

/-- The last page, its END marker, is acknowledged: an EXPORTING request is DONE, its ERR unchanged (R288, R328). -/
def State.exportDone (s : State) (i : Nat) : State :=
  let x := s.req i
  match x.dest with
  | some d => if x.used && x.st = qsExporting && !s.kvxOwes d (handleOf i x) then s.reqEnd i qsDone x.err else s
  | none => s

/-- A record is acknowledged (R334, R336): a page counts in PAGES_ACKED of its request, while that is live. -/
def State.recAcked (s : State) (r : Rec) : State :=
  let x := s.req r.req
  if !x.live || handleOf r.req x ≠ r.handle then s else
  let s := if r.kind = 0 then (s.setReq r.req { x with acked := x.acked + 1 }).writeCounts r.req else s
  s.exportDone r.req

/-- A destination goes DOWN (R339): cause, log entry; its live requests with records queued or unacknowledged fail; what
stays queued are the markers it holds. -/
def State.destDown (s : State) (d cause err : Nat) : State :=
  let cfg := Reg.KVX_DEST_CFG d
  if s.get cfg KVX_DEST_CFG.DOWN = 1 then s else
  let s := s.put cfg KVX_DEST_CFG.DOWN 1
  let s := (s.put (.KVX_DEST_STAT d) KVX_DEST_STAT.ERR err).put (.KVX_DEST_STAT d) KVX_DEST_STAT.CAUSE cause
  let s := (s.log { code := eExportNak, cls := clsKvx, verdict := 0, unit := d, sub := cause }).emit (.reeveIrq clsKvx d)
  let hit := s.liveReqs.filter fun i => s.kvxOwes d (handleOf i (s.req i))
  let s := { s with tags := s.tags.filter fun t => match t.req with
    | .page e _ => e ≠ d
    | _ => true }
  let s := hit.foldl (fun s i => s.reqFail i eExportNak) s
  s.setDest d { s.dest d with flight := [], waiting := false, rnrWait := false }

/-! Credit (R331, R333). -/

/-- A write of CREDIT and its result. -/
def State.creditSet (s : State) (d : Nat) (n : Nat) : State × Nat :=
  let old := (s.rd (.KVX_DEST_CREDIT d)).toNat
  if n < old then (s, eOk)
  else if (s.rd (.KVX_DEST_SEQ d)).toNat < n then
    (s.log { code := eLayoutInvalid, cls := clsKvx, verdict := 0, sub := d }, eLayoutInvalid)
  else
    let s := s.wr (.KVX_DEST_CREDIT d) (BitVec.ofNat 64 n)
    let s := if old < n then s.setDest d { s.dest d with since := s.now.toNat } else s
    (s.kvxWait d, eOk)

/-- CREDIT_TIMEOUT: the interval has run out with records waiting. -/
def State.creditTimeout (s : State) (d : Nat) : State :=
  let ms := s.get (.KVX_DEST_CFG d) KVX_DEST_CFG.CREDIT_TIMEOUT_MS
  let x := s.dest d
  if x.waiting && s.needsCredit d && ms ≠ 0 && x.since + ms * 1000000 ≤ s.now.toNat then s.destDown d 4 eExportNak else s

def execCreditTimeout (d : DestId) (s : State) : Host.Outcome State Fault Refusal :=
  .next (s.creditTimeout d)

/-! Starting a record (R330-R336). -/

/-- The tags KVX holds (R264). -/
def State.kvxTags (s : State) : Nat := (s.tags.filter fun (t : TagUse) => t.owner.isNone).length

/-- The export port of a RoCEv2 path. -/
def ethPort (path : Nat) : Nat := 14 + path

/-- Whether the head record of a destination may start. -/
def State.mayStart (s : State) (d : Nat) : Bool :=
  let cfg := Reg.KVX_DEST_CFG d
  let path := s.get cfg KVX_DEST_CFG.PATH
  s.get cfg KVX_DEST_CFG.ENABLE = 1 && s.get cfg KVX_DEST_CFG.DOWN = 0 && !(s.dest d).queue.isEmpty && !s.needsCredit d &&
    !s.isOut 1 && if path = 0 then decide (s.kvxTags < 512) else !(s.dest d).rnrWait && !s.pfcPaused.contains (path - 1)

/-- The packets of a record: MEM_WRITE on VC2, at most 512 bytes each, LAST on the last (R334, R409). -/
def State.recPkts (s : State) (m addr tag : Nat) (bs : List Byte) : List Pkt :=
  let n := (bs.length + 511) / 512
  (List.range n).map fun k =>
    s.pkt pkMemWrite 2 (if k + 1 = n then pfLast else 0) m (addr + 512 * k) tag 0 0 0 ((bs.drop (512 * k)).take 512)

/-- Path MTU of an export port (R357). -/
def State.mtu (s : State) (x : Nat) : Nat := 1024 * 2 ^ s.get (.KVX_PORT_NET x) KVX_PORT_NET.MTU

/-- The bytes of the record that takes sequence `seq`. -/
def State.recBytes (s : State) (d seq : Nat) (r : Rec) (krows vrows : List (List W16)) : List Byte :=
  let cfg := Reg.KVX_DEST_CFG d
  let fmt := s.get cfg KVX_DEST_CFG.FMT
  let rm := s.get cfg KVX_DEST_CFG.RM
  let coarse : W32 := if fmt = 4 then BitVec.ofNat 32 (s.get (.KVX_DEST_KEY d) KVX_DEST_KEY.COARSE) else f32One
  let total := if r.kind = 1 then (s.req r.req).sent else r.total
  let (pay, flags) := if r.kind = 0 then pagePayload r s.geom fmt rm coarse krows vrows else ([], 0)
  withCrc (recHead r s.geom fmt flags total seq s.me s.now.toNat coarse) pay

/-- Packet `k` of a RoCEv2 record of `n` (R335, R336): one RDMA WRITE with immediate, whose RETH goes with the first packet
and whose immediate goes with the last (log 160). ECT(0) is 2. -/
def State.roceFrame (s : State) (d : Nat) (f : Flight) (n k : Nat) : RoceFrame :=
  let cfg := Reg.KVX_DEST_CFG d
  let x := s.get cfg KVX_DEST_CFG.PATH - 1
  let peer := s.get cfg KVX_DEST_CFG.PEER
  let v6 := s.get (.KVX_PORT_NET x) KVX_PORT_NET.IPV6 = 1
  let ip := fun (hi lo : Reg) => if v6 then (s.rd hi).toNat * 2 ^ 64 + (s.rd lo).toNat else (s.rd lo).toNat % 2 ^ 32
  let slot := s.get (.KVX_DEST_BASE d) KVX_DEST_BASE.BASE +
    f.seq % 2 ^ s.get cfg KVX_DEST_CFG.SLOTS_LOG2 * s.get cfg KVX_DEST_CFG.SLOT_KIB * 1024
  let r : RoceFrame := {
    dest := d, port := x, srcMac := s.get (.KVX_PORT_CFG x) KVX_PORT_CFG.MAC, dstMac := s.get (.KVX_PEER_MAC peer) KVX_PEER_MAC.MAC
    vlan := if s.get (.KVX_PORT_CFG x) KVX_PORT_CFG.VLAN_EN = 1
      then some (s.get (.KVX_PORT_CFG x) KVX_PORT_CFG.PFC_PRIO, s.get (.KVX_PORT_CFG x) KVX_PORT_CFG.VLAN_ID) else none
    v6 := v6, srcIp := ip (.KVX_PORT_IP_HI x) (.KVX_PORT_IP_LO x), dstIp := ip (.KVX_PEER_IP_HI peer) (.KVX_PEER_IP_LO peer)
    dscp := s.get (.KVX_PORT_NET x) KVX_PORT_NET.DSCP, ecn := 2, udp := 4791
    dqpn := s.get (.KVX_DEST_QP d) KVX_DEST_QP.DQPN, psn := (f.psn0 + k) % 2 ^ 24
    reth := if k = 0 then some (slot, s.get (.KVX_DEST_KEY d) KVX_DEST_KEY.RKEY, f.bytes.length) else none
    imm := if k + 1 = n then some (f.seq % 2 ^ 32) else none
    data := (f.bytes.drop (s.mtu x * k)).take (s.mtu x), icrc := 0 }
  { r with icrc := Config.icrc [r.srcIp, r.dstIp, r.udp, r.dqpn, r.psn] r.data }

/-- The packets of a record in flight. -/
def State.roceFrames (s : State) (d : Nat) (f : Flight) : List RoceFrame :=
  let n := (f.psn1 + 2 ^ 24 - f.psn0) % 2 ^ 24 + 1
  (List.range n).map (s.roceFrame d f n)

/-- Packets leave by an export port. -/
def State.emitAll (s : State) (l : List Sent) : State := { s with sent := s.sent ++ l }

/-- Transmit a record and hold it until it is acknowledged. -/
def State.recOut (s : State) (d : Nat) (r : Rec) (bs : List Byte) : State :=
  let cfg := Reg.KVX_DEST_CFG d
  let seq := (s.rd (.KVX_DEST_SEQ d)).toNat
  let path := s.get cfg KVX_DEST_CFG.PATH
  let x := s.dest d
  if path = 0 then
    let slot := s.get (.KVX_DEST_BASE d) KVX_DEST_BASE.BASE +
      seq % 2 ^ s.get cfg KVX_DEST_CFG.SLOTS_LOG2 * s.get cfg KVX_DEST_CFG.SLOT_KIB * 1024
    let m := s.get cfg KVX_DEST_CFG.MODULE
    let t := s.newTag
    let ks := s.recPkts m slot t bs
    let use : TagUse := { id := t, owner := none, req := .page d ks }
    let fl : Flight := { item := r, seq := seq, tag := t }
    let s := { s with tags := s.tags ++ [use] }
    (s.setDest d { x with flight := x.flight ++ [fl] }).sendNative m ks
  else
    let n := (bs.length + s.mtu (path - 1) - 1) / s.mtu (path - 1)
    let fl : Flight := { item := r, seq := seq, psn0 := x.psn, psn1 := (x.psn + n - 1) % 2 ^ 24, bytes := bs }
    let s := s.setDest d { x with psn := (x.psn + n) % 2 ^ 24, flight := x.flight ++ [fl] }
    s.emitAll ((s.roceFrames d fl).map .roce)

/-- A record counts as sent (R332, R287, R355). -/
def State.recSent (s : State) (r : Rec) : State :=
  let x := s.req r.req
  let mine := x.live && handleOf r.req x = r.handle
  if r.kind = 0 then
    let s := (s.bump .KVX_STAT KVX_STAT.PAGES).perfs puGlb 0x04 [0] 1
    if mine then (s.setReq r.req { x with sent := x.sent + 1, out := (r.layer, r.head, r.first) :: x.out }).writeCounts r.req
    else s
  else if r.kind = 1 then (if mine then s.setReq r.req { x with endSent := true } else s)
  else s.bump .KVX_STAT KVX_STAT.MARKERS

/-- KVX_RECORD_SEND: the head record starts; a page with a row read poisoned is not built, and stays queued until the
request's re-run has rewritten the row (R304, R515). -/
def State.recordSend (s : State) (d : Nat) (krows vrows : List (List W16)) (poison : Bool) : State :=
  if !s.mayStart d then s.kvxWait d else
  match (s.dest d).queue with
  | [] => s
  | r :: rs =>
    if r.kind = 0 && poison then
      s.log { code := eUncorrectable, cls := clsKvx, verdict := 0, unit := d, sub := r.layer, handle := r.handle }
    else
      let bs := s.recBytes d (s.rd (.KVX_DEST_SEQ d)).toNat r krows vrows
      let s := s.setDest d { s.dest d with queue := rs, waiting := false }
      let s := (s.recOut d r bs).recSent r
      (s.wr (.KVX_DEST_SEQ d) (s.rd (.KVX_DEST_SEQ d) + 1)).kvxWait d

def execKvxRecordSend (d : DestId) (krows vrows : List (List W16)) (poison : Bool) (s : State) :
    Host.Outcome State Fault Refusal :=
  .next (s.recordSend d krows vrows poison)

/-! ENABLE of a destination (R330, R340, R361). -/

/-- Whether a live request names the destination. -/
def State.destNamed (s : State) (d : Nat) : Bool := s.liveReqs.any fun i => (s.req i).dest = some d

/-- Why setting ENABLE under the configuration `w` is refused; 0 where it is not. -/
def State.destEnableErr (s : State) (w : W64) : Nat :=
  let path := KVX_DEST_CFG.PATH.get w
  if KVX_DEST_CFG.SLOT_KIB.get w * 1024 < pageBytes (KVX_DEST_CFG.FMT.get w) s.geom.hd then eLayoutInvalid
  else if path ≠ 0 && (path = 3 || s.get (.THR_PORT_CFG (ethPort path)) THR_PORT_CFG.MODE ≠ 2) then eLayoutInvalid
  else 0

/-- ENABLE goes from 0 to 1: DOWN clears, held markers go before any page, a queue pair starts again at SPSN. -/
def State.destStart (s : State) (d : Nat) : State :=
  let x := s.dest d
  let s := s.put (.KVX_DEST_CFG d) KVX_DEST_CFG.DOWN 0
  let marks := x.queue.filter fun (r : Rec) => r.kind = 2
  let rest := x.queue.filter fun (r : Rec) => r.kind ≠ 2
  (s.setDest d { x with
    queue := marks ++ rest, flight := [], waiting := false, since := s.now.toNat, rate := 1024, lastCut := none, cnp := false
    psn := s.get (.KVX_DEST_QP d) KVX_DEST_QP.SPSN, una := s.get (.KVX_DEST_QP d) KVX_DEST_QP.SPSN
    retry := 0, rnr := 0, rnrWait := false }).kvxWait d

/-! The RoCEv2 path (R335-R338). -/

/-- Whether PSN `a` is at or before `b`, in the 24-bit circle. -/
def psnLe (a b : Nat) : Bool := (b + 2 ^ 24 - a) % 2 ^ 24 < 2 ^ 23

def State.isRoce (s : State) (d : Nat) : Bool :=
  s.get (.KVX_DEST_CFG d) KVX_DEST_CFG.PATH ≠ 0 && s.get (.KVX_DEST_CFG d) KVX_DEST_CFG.ENABLE = 1 &&
    s.get (.KVX_DEST_CFG d) KVX_DEST_CFG.DOWN = 0

/-- An ACK of `psn`: the oldest unacknowledged PSN moves behind it where it lies among those sent, which is progress and
clears the retry counts (log 160); records whose last PSN lies at or before it are acknowledged. -/
def State.psnAcked (s : State) (d psn : Nat) : State :=
  let x := s.dest d
  if (x.psn + 2 ^ 24 - x.una) % 2 ^ 24 ≤ (psn + 2 ^ 24 - x.una) % 2 ^ 24 then s else
  let done := x.flight.filter fun (f : Flight) => psnLe f.psn1 psn
  let rest := x.flight.filter fun (f : Flight) => !psnLe f.psn1 psn
  let s := s.setDest d { x with flight := rest, una := (psn + 1) % 2 ^ 24, retry := 0, rnr := 0 }
  done.foldl (fun s (f : Flight) => s.recAcked f.item) s

/-- Go back to the oldest unacknowledged PSN: every packet from it on goes out again (R335). -/
def State.goBack (s : State) (d : Nat) : State :=
  s.emitAll (((s.dest d).flight.flatMap (s.roceFrames d)).filter (fun (f : RoceFrame) => psnLe (s.dest d).una f.psn) |>.map .roce)

/-- A retry (R335): the eighth without progress sends the destination DOWN. -/
def State.roceRetry (s : State) (d : Nat) : State :=
  let x := s.dest d
  if x.flight.isEmpty then s
  else if 7 ≤ x.retry then s.destDown d 2 eExportNak
  else (s.setDest d { x with retry := x.retry + 1 }).goBack d

def execRoceAck (d : DestId) (psn : BitVec 24) (s : State) : Host.Outcome State Fault Refusal :=
  .next (if s.isRoce d then s.psnAcked d psn.toNat else s)

/-- A NAK names the first PSN not taken; everything before it is acknowledged. -/
def State.roceNak (s : State) (d : Nat) (k : RoceNak) (psn : Nat) : State :=
  if !s.isRoce d || (s.dest d).flight.isEmpty then s else
  let s := s.psnAcked d ((psn + 2 ^ 24 - 1) % 2 ^ 24)
  match k with
  | .sequence => s.roceRetry d
  | .rnr _ => if (s.dest d).flight.isEmpty then s else s.setDest d { s.dest d with rnrWait := true }
  | _ => s.destDown d 1 eExportNak

def execRoceNak (d : DestId) (k : RoceNak) (psn : BitVec 24) (s : State) : Host.Outcome State Fault Refusal :=
  .next (s.roceNak d k psn.toNat)

def execRoceAckTimeout (d : DestId) (s : State) : Host.Outcome State Fault Refusal :=
  .next (if s.isRoce d then s.roceRetry d else s)

/-- RNR_TIMER_EXPIRY: retransmit, or DOWN once seven RNR retries are spent. -/
def State.rnrExpiry (s : State) (d : Nat) : State :=
  let x := s.dest d
  if !s.isRoce d || !x.rnrWait then s
  else if 7 ≤ x.rnr then s.destDown d 2 eExportNak
  else (s.setDest d { x with rnr := x.rnr + 1, rnrWait := false }).goBack d

def execRnrTimerExpiry (d : DestId) (s : State) : Host.Outcome State Fault Refusal :=
  .next (s.rnrExpiry d)

/-- The port whose congestion parameters a destination uses. -/
def State.ccPort (s : State) (d : Nat) : Reg := .KVX_PORT_CC (s.get (.KVX_DEST_CFG d) KVX_DEST_CFG.PATH - 1)

/-- CNP_RECEIVE (R337). -/
def State.cnp (s : State) (d : Nat) : State :=
  if !s.isRoce d then s else
  let cc := s.ccPort d
  let x := { s.dest d with cnp := true }
  let now := s.now.toNat
  let gap := s.getLive cc KVX_PORT_CC.CUT_GAP_US * 1000
  if x.lastCut.all (fun t => t + gap ≤ now) then
    s.setDest d { x with
      rate := max (x.rate - x.rate * s.getLive cc KVX_PORT_CC.CUT / 256) (max 1 (s.getLive cc KVX_PORT_CC.MIN_RATE))
      lastCut := some now }
  else s.setDest d x

def execCnpReceive (d : DestId) (s : State) : Host.Outcome State Fault Refusal :=
  .next (s.cnp d)

/-- RATE_STEP: the end of one STEP_US; the rate rises where it saw no CNP (R337). -/
def State.rateStep (s : State) (d : Nat) : State :=
  if !s.isRoce d then s else
  let x := s.dest d
  if x.cnp then s.setDest d { x with cnp := false }
  else s.setDest d { x with rate := min (x.rate + s.getLive (s.ccPort d) KVX_PORT_CC.STEP) 1024 }

def execRateStep (d : DestId) (s : State) : Host.Outcome State Fault Refusal :=
  .next (s.rateStep d)

/-- An export port in IEEE 802.3 mode (R419). -/
def State.isEth (s : State) (x : Nat) : Bool := s.get (.THR_PORT_CFG (15 + x)) THR_PORT_CFG.MODE = 2

def execRoceRequestIn (x : Fin 2) (s : State) : Host.Outcome State Fault Refusal :=
  .next (if s.isEth x then s.bump .KVX_STAT KVX_STAT.DROPPED_IN else s)

/-- A PFC frame of the port's priority pauses sending, or resumes it (R335). -/
def State.pfc (s : State) (x prio : Nat) (pause : Bool) : State :=
  if !s.isEth x || s.get (.KVX_PORT_CFG x) KVX_PORT_CFG.PFC_PRIO ≠ prio then s
  else if pause then { s with pfcPaused := addOnce x s.pfcPaused }
  else { s with pfcPaused := s.pfcPaused.filter fun y => y ≠ x }

def execPfcPauseFrame (x : Fin 2) (prio : BitVec 3) (pause : Bool) (s : State) : Host.Outcome State Fault Refusal :=
  .next (s.pfc x prio.toNat pause)

/-! The native path: acknowledgements, refusals, expiries (R265, R334). -/

/-- The record under a tag is acknowledged. -/
def State.pageAcked (s : State) (d id : Nat) : State :=
  let x := s.dest d
  let s := { s with tags := s.tags.filter fun t => t.id ≠ id }
  match x.flight.find? fun (f : Flight) => f.tag = id with
  | some f => (s.setDest d { x with flight := x.flight.filter fun (g : Flight) => g.tag ≠ id }).recAcked f.item
  | none => s

/-- TAG_TIMEOUT: the first expiry reissues, the second fails the request and is logged (R265, R334); a killed partition
issues nothing again, so its tags are back with the first (R269). -/
def State.tagTimeout (s : State) (n : Nat) : State :=
  match s.tags[n]? with
  | none => s
  | some t =>
    if t.owner.any fun o => (s.vat o.1).killed then s.tagFree t.id
    else if t.req.isHeld then s
    else if !t.again then s.tagReissue t
    else match t.req, t.owner with
      | .page d _, _ => s.destDown d 3 eUncorrectable
      | _, some (v, i, _) =>
        (s.log { code := eUncorrectable, cls := clsWagon, verdict := 0, part := s.part v, unit := s.phys v, sub := i }).tagFail
          t eUncorrectable
      | _, none => s.tagFail t eUncorrectable

def execTagTimeout (n : Nat) (s : State) : Host.Outcome State Fault Refusal :=
  .next (s.tagTimeout n)

end Sys2Proof.Machine
end

