-- ==== Sys2Proof/WellFormed.lean ====
section
/-! DEFINITION. Well-formed commands: payloads have the lengths and shapes their formats give. `exec` faults on the
others and on nothing else. -/

namespace Sys2Proof

/-- A BAR2 request: 1 to `most` bytes that do not cross a 4 KiB boundary (R568, R574). -/
def bar2Shape (off : BitVec 38) (n most : Nat) : Bool := 1 ≤ n && n ≤ most && off.toNat % 4096 + n ≤ 4096

/-- The port number of a register-bus master (R581). -/
def Master.port : Master → Nat
  | .host _ => 0
  | .mgmt => 1
  | .tap => 2
  | .thrA => 3
  | .thrB => 4
  | .reeve => 5

/-- A port carries at most one access per cycle (R581). -/
def onePerPort : List Master → Bool
  | [] => true
  | m :: ms => !(ms.map Master.port).contains m.port && onePerPort ms

/-- A native packet has at most 512 payload bytes (R409). -/
def Pkt.wf (k : Pkt) : Bool := k.data.length ≤ 512

/-- A frame has seven data flits, of packets (R411). -/
def Frame.wf (f : Frame) : Bool := f.flits.length = 7 && f.flits.all fun o => o.all fun x => x.1.wf

/-- The commands that can be sent. -/
def Instr.wf : Instr → Bool
  | .powerEvaluation raw _ _ _ _ _ => raw.length = 5
  | .calibration a _ _ => a.length = 5
  | .thermalSample t => t.length = 52
  | .bar2Read _ off len => bar2Shape off len 4096
  | .bar2Write _ off data => bar2Shape off data.length 512
  | .tapUnlock block => block.length = 448
  | .memWrite k | .winWrite k | .getReq k | .getData k | .fabricAck k | .fabricNak k | .regPacket k _ _ _ => k.wf
  | .frameReceive _ f => f.wf
  | .registerWrite ws => onePerPort (ws.writes.map RegWrite.master)
  | _ => true

end Sys2Proof
end

