-- ==== Sys2Proof/Machine/Fabric.lean ====
section
/-! DEFINITION. Packets that arrive (R410, R420-R425): memory writes, window writes, remote reads, acknowledgements
and refusals, ring-break notices. -/

namespace Sys2Proof.Machine

/-! Inbound regions (R420, R437). -/

/-- Region `i` admits `n` bytes at `a` from module `m`. -/
def State.inbound (s : State) (i m a n : Nat) : Bool :=
  let ra := s.rd (.THR_INBOUND_A i)
  let rb := s.rd (.THR_INBOUND_B i)
  THR_INBOUND_A.VALID.get ra = 1 && THR_INBOUND_A.SRC_LO.get ra ≤ m && m ≤ THR_INBOUND_B.SRC_HI.get rb &&
    THR_INBOUND_A.BASE.get ra * 4096 ≤ a && a + n ≤ (THR_INBOUND_B.LIMIT.get rb + 1) * 4096

/-- A write on a channel, or a read, that some region admits. -/
def State.mayWrite (s : State) (m vc a n : Nat) : Bool :=
  (List.range 16).any fun i => s.inbound i m a n &&
    ((vc = 2 && s.get (.THR_INBOUND_A i) THR_INBOUND_A.VC2 = 1) || (vc = 4 && s.get (.THR_INBOUND_A i) THR_INBOUND_A.VC4 = 1))
def State.mayRead (s : State) (m a n : Nat) : Bool :=
  (List.range 16).any fun i => s.inbound i m a n && s.get (.THR_INBOUND_A i) THR_INBOUND_A.READ = 1

/-- Refuse a packet: NAK and log (R410, R420). -/
def State.refuse (s : State) (k : Pkt) (code : Nat) : State := (s.answer k pkNak code).logPkt k code

/-- Whether a packet is for this module and travels as its kind may. -/
def State.forMe (s : State) (k : Pkt) (kind : Nat) : Bool :=
  k.dst.toNat = s.me && k.kind.toNat = kind && (pkVcs kind).contains k.vc.toNat

def pktPoison (k : Pkt) : Bool := k.flags.toNat / pfPoison % 2 = 1
def pktLast (k : Pkt) : Bool := k.flags.toNat / pfLast % 2 = 1
def pktSeq (k : Pkt) : Bool := k.flags.toNat / pfSeqb % 2 = 1

/-- MEM_WRITE (R420): stored inside an inbound region, else refused; the last packet of a record is acknowledged. -/
def State.memWrite (s : State) (k : Pkt) : State :=
  if !s.forMe k pkMemWrite then s else
  let a := k.addr.toNat
  if !(a + k.data.length ≤ memTop && s.mayWrite k.src.toNat k.vc.toNat a k.data.length) then s.refuse k eLayoutInvalid
  else
    let s := s.store a k.data
    let s := if pktPoison k then s.setPoison a k.data.length true else s
    let s := s.perfs puGlb 0x01 [a / 2048 % 6, 6] k.data.length
    if pktLast k then s.answer k pkAck 1 else s

def execMemWrite (pkt : Pkt) (s : State) : Host.Outcome State Fault Refusal :=
  if pkt.wf then .next (s.memWrite pkt) else .fault .illFormed

/-! Remote windows (R423-R425). -/

def winVat (k : Pkt) : Nat := k.addr.toNat / 2 ^ 40 % 16
def winIdx (k : Pkt) : Nat := k.addr.toNat / 2 ^ 32 % 256
def winRow (k : Pkt) : Nat := k.addr.toNat % 2 ^ 17

/-- What a WIN_WRITE meets; 0 where it is accepted (R423). -/
def State.winErr (s : State) (k : Pkt) : Nat :=
  let v := winVat k
  let a := s.rd (.THR_WIN_A v (winIdx k))
  let b := s.rd (.THR_WIN_B v (winIdx k))
  if k.data.length ≠ 512 then eLayoutInvalid
  else if THR_WIN_A.STATE.get a = 1 && THR_WIN_B.SRC_LO.get b ≤ k.src.toNat && k.src.toNat ≤ THR_WIN_B.SRC_HI.get b &&
      winRow k < THR_WIN_A.LEN.get a then 0
  else eWindowClosed

/-- The row a WIN_WRITE names, and whether its bank's group is OFF. -/
def State.winTo (s : State) (k : Pkt) : Nat := s.get (.THR_WIN_A (winVat k) (winIdx k)) THR_WIN_A.BASE + winRow k
def State.winOff (s : State) (k : Pkt) : Bool :=
  winRow k < s.get (.THR_WIN_A (winVat k) (winIdx k)) THR_WIN_A.LEN && s.gs (winVat k) (bankOf (s.winTo k) / 32) = gsOff

/-- WIN_WRITE: the row is written, then its arrival counted and acknowledged; or refused, counted and logged. One for an
OFF group is a late write too (R229); one for a withdrawn bank meets BANK_UNCLAIMED (R212, R233). -/
def State.winWrite (s : State) (k : Pkt) : State :=
  if !s.forMe k pkWinWrite then s else
  let v := winVat k
  let w := winIdx k
  let r := s.winTo k
  let e := s.winErr k
  if e = eWindowClosed && s.winOff k then
    ((s.bump (.THR_WIN_B v w) THR_WIN_B.REFUSED).lateDrop v r (stopThr k.port.val)).answer k pkNak eWindowClosed
  else if e ≠ 0 then (s.bump (.THR_WIN_B v w) THR_WIN_B.REFUSED).refuse k e
  else if s.heldErr v (bankOf r) ≠ 0 then (s.bump (.THR_WIN_B v w) THR_WIN_B.REFUSED).refuse k eBankUnclaimed
  else
    let s := (s.setRow v r k.data (pktPoison k)).perf (puCellar v) 0x02 [0, portRemote] 1
    (s.addSem v 2 (s.get (.THR_WIN_A v w) THR_WIN_A.CTR) 1).answer k pkAck 1

def execWinWrite (pkt : Pkt) (s : State) : Host.Outcome State Fault Refusal :=
  if pkt.wf then .next (s.winWrite pkt) else .fault .illFormed

/-- WINDOW_CLOSE_DONE: the accepted rows have finished; the claims go and the window is CLOSED (R424). -/
def execWindowCloseDone (v : VatId) (w : Fin 256) (s : State) : Host.Outcome State Fault Refusal :=
  .next (if s.get (.THR_WIN_A v w) THR_WIN_A.STATE = 2 then s.closeWindow v w else s)

/-! REMOTE_GET (R410, R420). -/

/-- GET_REQ: the read joins the GET queue and the Thresher reads the AUX bytes at ADDR, to send them as GET_DATA, at once where there are none; a full
queue, or no region that admits it, refuses it. -/
def State.getReq (s : State) (k : Pkt) : State :=
  if !s.forMe k pkGetReq then s else
  let a := k.addr.toNat
  let n := k.aux.toNat
  if !(n ≤ 512 && a + n ≤ memTop && s.mayRead k.src.toNat a n) then s.refuse k eLayoutInvalid
  else if 1024 ≤ s.gets.length then s.answer k pkNak eQueueFull
  else if n = 0 then s.getAnswer k [] false
  else
    let id := ((List.range (s.gets.length + 1)).find? fun i => s.gets.all fun g => g.id ≠ i).getD 0
    let cuts := granuleCuts a n
    let s := { s with gets := s.gets ++ [{ id := id, pkt := k, parts := cuts.map fun x => (hbmStop x.1, none) }] }
    cuts.foldl (fun s x => s.dnetSend
      { src := stopThr k.port.val, part := 0, dest := .stop (hbmStop x.1), load := .read x.1 x.2, get := some id }) s

def execGetReq (pkt : Pkt) (s : State) : Host.Outcome State Fault Refusal :=
  if pkt.wf then .next (s.getReq pkt) else .fault .illFormed

/-- The tag an answer names, where it carries the tag's current sequence bit (R265). -/
def State.answered (s : State) (k : Pkt) : Option TagUse :=
  s.tags.find? fun t => t.id = k.tag.toNat && t.seq = pktSeq k

/-- GET_DATA: the bytes of a piece are back; poison fails the descriptor (R267). -/
def State.getData (s : State) (k : Pkt) : State :=
  if !s.forMe k pkGetData then s else
  match s.answered k with
  | none => s
  | some t => match t.req with
    | .get _ => s.readBack t k.data (pktPoison k)
    | _ => s

def execGetData (pkt : Pkt) (s : State) : Host.Outcome State Fault Refusal :=
  if pkt.wf then .next (s.getData pkt) else .fault .illFormed

/-! Acknowledgements and refusals. -/

/-- The REMOTE_PUT rows an ACK of `n` rows covers: the one its tag names and the next ones sent to that module. -/
def State.putsAcked (s : State) (id m n : Nat) : List Nat :=
  let ps := (s.tags.filter fun t => match t.req with
    | .put p => p.dst.toNat = m
    | _ => false).map TagUse.id
  ((ps.dropWhile fun x => x ≠ id).take (max 1 n))

/-- FABRIC_ACK (R252, R334, R423). -/
def State.fabricAck (s : State) (k : Pkt) : State :=
  if !s.forMe k pkAck then s else
  match s.answered k with
  | none => s
  | some t => match t.req with
    | .put _ => (s.putsAcked t.id k.src.toNat k.aux.toNat).foldl (fun s id => s.tagFree id) s
    | .page d _ => s.pageAcked d t.id
    | _ => s

def execFabricAck (pkt : Pkt) (s : State) : Host.Outcome State Fault Refusal :=
  if pkt.wf then .next (s.fabricAck pkt) else .fault .illFormed

/-- The packets of a tag's request. -/
def TagReq.pkts : TagReq → List Pkt
  | .put k => [k]
  | .get k => [k]
  | .page _ ks => ks
  | .dnet _ => []
  | .held _ => []

/-- A request goes out again as it was, by the route of now. -/
def State.resend (s : State) (t : TagUse) : State :=
  match t.req with
  | .page d ks => s.sendNative (s.get (.KVX_DEST_CFG d) KVX_DEST_CFG.MODULE) ks
  | r => r.pkts.foldl (fun s k => s.send k) s

/-- FABRIC_NAK (R410, R418, R334, R253). A killed partition sends nothing again: its tag is back (R269). -/
def State.fabricNak (s : State) (k : Pkt) : State :=
  if !s.forMe k pkNak then s else
  let code := k.aux.toNat % 256
  match s.answered k with
  | none => s
  | some t =>
    if t.owner.any fun o => (s.vat o.1).killed then s.tagFree t.id
    else if code = eCapacityDegraded then s.resend t
    else match t.req with
      | .get _ => if code = eQueueFull then { s with getRetry := addOnce t.id s.getRetry } else s.tagFail t code
      | .page d _ => s.destDown d 1 code
      | _ => s.tagFail t code

/-- GET_REISSUE: the Wagon's refused requests go out again. -/
def State.getReissue (s : State) (v : Nat) : State :=
  if (s.vat v).killed then s else
  let mine := s.tags.filter fun (t : TagUse) => s.getRetry.contains t.id && match t.owner with
    | some (w, _, _) => w = v
    | none => false
  mine.foldl (fun s t => s.resend t) { s with getRetry := s.getRetry.filter fun id => !mine.any fun (t : TagUse) => t.id = id }

def execGetReissue (v : VatId) (s : State) : Host.Outcome State Fault Refusal :=
  .next (s.getReissue v)

/-! Ring breaks (R418). -/
def State.ringBreak (s : State) (dim pos : Nat) (withdraw : Bool) : State :=
  let rest := s.breaks.filter fun b => b ≠ (dim, pos)
  { s with breaks := if withdraw then rest else rest ++ [(dim, pos)] }

def execCtrlRingBreak (dim : Fin 4) (pos : Fin 32) (withdraw : Bool) (s : State) : Host.Outcome State Fault Refusal :=
  .next (s.ringBreak dim pos withdraw)

end Sys2Proof.Machine
end

