-- ==== Sys2Proof/Machine/Frames.lean ====
section
/-! DEFINITION. What a port sends (R409, R411-R414): the bytes of packets and frames, the arbitration between channels, credit,
the replay buffer. -/

namespace Sys2Proof.Machine

/-! Bytes. -/

/-- The 32 header bytes of a packet (R409). -/
def pktHeader (k : Pkt) : List Byte :=
  [BitVec.ofNat 8 (k.kind.toNat + 16 * k.vc.toNat + 128 * k.dl.toNat), k.flags.zeroExtend 8] ++
    leBytes 2 k.dst.toNat ++ leBytes 2 k.src.toNat ++ leBytes 2 k.data.length ++ leBytes 8 k.addr.toNat ++
    leBytes 2 k.tag.toNat ++ leBytes 2 k.ctx.toNat ++ leBytes 4 k.aux.toNat ++ leBytes 8 k.aux2.toNat

/-- A data flit: 64 bytes of its packet, zero past its end; an idle one is zero. -/
def flitBytes : Option (Pkt × Nat) → List Byte
  | some (k, j) => sliceD 0 (pktHeader k ++ k.data) (64 * j) 64
  | none => List.replicate 64 0

/-- The bytes a frame's CRC covers: its data flits and what its control flit holds before the CRC, whose layout the spec does not
give (log 132). -/
def frameBytes (f : Frame) : List Byte :=
  f.flits.flatMap flitBytes ++ sliceD 0 (leBytes 2 f.seq.toNat ++ leBytes 2 f.ack.toNat ++ [if f.nak then 1 else 0] ++
    f.credits.flatMap (leBytes 2)) 0 60

/-- The CRC-32C of a frame (R323, R411). -/
def frameCrc (f : Frame) : W32 := crc32c (frameBytes f)

/-- A frame that its receiver takes: CRC and FEC hold (R412). -/
def frameGood (f : Frame) : Bool := f.fec && f.crc = frameCrc f

/-- Sequence number `a` is at or before `b` in the 12-bit circle. -/
def seqLe (a b : Nat) : Bool := (b + 4096 - a) % 4096 < 2048

/-! Credit (R406, R413). -/

/-- The credit class of a packet: its channel and its DL bit. -/
def creditClass (k : Pkt) : Nat := 2 * k.vc.toNat + k.dl.toNat

/-- Flits of a class beyond its reserved half of 128. -/
def PortX.over (x : PortX) (c : Nat) : Nat := x.inFlight.getD c 0 - 64

/-- Whether the sender holds credit for a packet: reserved credit first, the shared pool of 3,072 after it. -/
def PortX.credit (x : PortX) (k : Pkt) : Bool :=
  let others := ((List.range 16).filter fun c => c ≠ creditClass k).foldl (fun n c => n + x.over c) 0
  decide (others + (x.inFlight.getD (creditClass k) 0 + pktFlits k - 64) ≤ 3072)

/-! Arbitration (R414). -/

/-- The packet at the head of a channel. -/
def PortX.head (x : PortX) (c : Nat) : Option Pkt := x.queue.find? fun k => k.vc.toNat = c

/-- A channel with a packet that has credit. -/
def PortX.ready (x : PortX) (c : Nat) : Bool := (x.head c).any x.credit

/-- The turn passes to the next channel, whose deficit grows by its quantum; an idle channel keeps none. -/
def PortX.pass (x : PortX) (w : Nat → Nat) : PortX :=
  let c := (x.turn + 1) % 8
  { x with turn := c, deficit := (if x.ready x.turn then x.deficit else x.deficit.set x.turn 0).set c (x.deficit.getD c 0 + 64 * w c) }

/-- The packet a deficit-weighted round-robin with weights `w` takes next. -/
def PortX.pick (w : Nat → Nat) : Nat → PortX → Option (Pkt × PortX)
  | 0, _ => none
  | n + 1, x =>
    let live := (List.range 8).filter x.ready
    if live.all fun c => w c = 0 then (live.head?.bind x.head).map fun k => (k, x)
    else match x.head x.turn with
      | some k =>
        if x.ready x.turn && w x.turn ≠ 0 && decide (64 * pktFlits k ≤ x.deficit.getD x.turn 0)
        then some (k, { x with deficit := x.deficit.set x.turn (x.deficit.getD x.turn 0 - 64 * pktFlits k) })
        else PortX.pick w n (x.pass w)
      | none => PortX.pick w n (x.pass w)

/-- All packets that credit lets leave, in the order the arbiter takes them. -/
def PortX.drain (w : Nat → Nat) : Nat → PortX → List Pkt × PortX
  | 0, x => ([], x)
  | n + 1, x =>
    match x.pick w 128 with
    | some (k, x) =>
      let c := creditClass k
      let (ks, x) := PortX.drain w n { x with
        queue := x.queue.erase k, inFlight := x.inFlight.set c (x.inFlight.getD c 0 + pktFlits k) }
      (k :: ks, x)
    | none => ([], x)

/-! Frames (R411, R412). -/

/-- A frame goes out: its control flit acknowledges what has come in order and returns the credit of what has been freed. -/
def State.frameOut (s : State) (p : Nat) (u : TxFrame) : State :=
  let x := s.port p
  let f : Frame := { flits := u.flits, seq := BitVec.ofNat 12 u.seq, ack := BitVec.ofNat 12 (x.rxNext + 4095), nak := x.nak
                     credits := x.freed, fec := true, crc := 0 }
  (s.setPort p { x with freed := List.replicate 16 0, owed := false }).emit (.frame p { f with crc := frameCrc f })

/-- A new frame takes the next sequence number and stands in the replay buffer. -/
def State.frameNew (s : State) (p : Nat) (flits : List (Option (Pkt × Nat))) : State :=
  let x := s.port p
  let u : TxFrame := { seq := x.txNext, flits := flits }
  (s.setPort p { x with txNext := (x.txNext + 1) % 4096, unacked := x.unacked ++ [u] }).frameOut p u

/-- Flits in frames of seven, the last filled with idle ones. -/
def framesOf : Nat → List (Pkt × Nat) → List (List (Option (Pkt × Nat)))
  | 0, _ => []
  | n + 1, l => if l.isEmpty then [] else
    ((l.take 7).map some ++ List.replicate (7 - l.length) none) :: framesOf n (l.drop 7)

/-- What counts of a packet sent for the first time: flits, and bytes of its bandwidth window (R610, R616). -/
def State.pktCount (s : State) (p : Nat) (k : Pkt) : State :=
  let s := (s.perfs puThr 0x01 [p + 32 * k.vc.toNat] (pktFlits k)).bwAdd p 0 k
  s.perfs puThr 0x07 (portSels p) (pktFlits k)

/-- The weight of a channel (R432). -/
def State.weight (s : State) (p c : Nat) : Nat :=
  s.getLive (.THR_PORT_VCW p) ([THR_PORT_VCW.W0, THR_PORT_VCW.W1, THR_PORT_VCW.W2, THR_PORT_VCW.W3, THR_PORT_VCW.W4, THR_PORT_VCW.W5,
    THR_PORT_VCW.W6, THR_PORT_VCW.W7].getD c THR_PORT_VCW.W0)

/-- A port that carries traffic, while the Thresher core is in service (R518). -/
def State.carries (s : State) (p : Nat) : Bool := (s.portSt p = psUp || s.portSt p = psRamp) && !s.isOut 0

/-- The staged fields of a port's registers apply at a frame boundary (R359, R411). -/
def State.frameBoundary (s : State) (p : Nat) : State :=
  let s := s.apply (.THR_PORT_VCW p)
  if p = 15 ∨ p = 16 then s.apply (.KVX_PORT_CC (p - 15)) else s

/-- What a port sends in 10 ns (log 132): the packets that have credit, back to back in frames; an idle frame where only a
control flit is owed. -/
def State.portTick (s : State) (p : Nat) : State :=
  if !s.carries p then s else
  let x := s.port p
  let (ks, y) := x.drain (s.weight p) x.queue.length
  let s := ks.foldl (fun s k => s.pktCount p k) (if ks.isEmpty then s else s.setPort p y)
  let fs := ks.flatMap fun k => (List.range (pktFlits k)).map fun j => (k, j)
  let l := if fs.isEmpty && x.owed then [List.replicate 7 none] else framesOf fs.length fs
  (l.foldl (fun s f => s.frameNew p f) s).frameBoundary p

/-- The links at a tick. -/
def State.linkTick (s : State) : State := (List.range 18).foldl (fun s p => s.portTick p) s

end Sys2Proof.Machine
end

