-- ==== Sys2Proof/Machine/Links.lean ====
section
/-! DEFINITION. Ports and links (R402-R418): frames, replays, training, the spare, detours; the board master and the
time base (R426-R428). -/

namespace Sys2Proof.Machine

/-- A port whose link leads to its partner, itself, through the spare or by a relay. -/
def State.linked (s : State) (p : Nat) : Bool := [psUp, psRamp, psSpared, psDetour].contains (s.portEff p)

def State.setPortSt (s : State) (p n : Nat) : State := s.put (.THR_PORT_STATUS p) THR_PORT_STATUS.STATE n

/-! FRAME_RECEIVE (R411-R413). -/

/-- The sender replays every frame not acknowledged, in order (R412). -/
def State.replay (s : State) (p : Nat) : State :=
  let x := s.port p
  if x.unacked.isEmpty then s else
  let s := (s.bump (.THR_PORT_ERR p) THR_PORT_ERR.REPLAYS).perfs puThr 0x04 (portSels p) x.unacked.length
  x.unacked.foldl (fun s u => s.frameOut p u) s

/-- What a control flit tells the sender: frames acknowledged, credits, a NAK. -/
def State.frameCtl (s : State) (p : Nat) (f : Frame) : State :=
  let x := s.port p
  let rest := x.unacked.filter fun (u : TxFrame) => !seqLe u.seq f.ack.toNat
  let credit := (List.range 16).map fun c => x.inFlight.getD c 0 - f.credits.getD c 0
  let moved := rest.length < x.unacked.length
  let s := s.setPort p { x with
    unacked := rest, inFlight := credit
    stuck := if moved then 0 else if f.nak && !rest.isEmpty then x.stuck + 1 else x.stuck }
  if f.nak then s.replay p else s

/-- The dimension a packet that came by port `p` travels along. -/
def portDim (p : Nat) : Nat :=
  if p = 11 ∨ p = 12 then 0 else if p = 13 ∨ p = 14 then 1 else if p = 7 ∨ p = 8 then 2 else if p = 9 ∨ p = 10 then 3 else 4

/-- What an export port carries (R419): records on VC2 and the ACK, NAK and CTRL packets that serve them, none through this module. -/
def State.exportCarries (s : State) (k : Pkt) : Bool :=
  let kind := k.kind.toNat
  k.dst.toNat = s.me && (kind = pkAck || kind = pkNak || kind = pkCtrl || (kind = pkMemWrite && k.vc.toNat = 2))

/-- A packet of an accepted frame: dropped and logged where its kind or channel is wrong (R410, R419); forwarded where it is for
another module, with DL set where this module relays it from slot to slot (R418); else it acts through its own command. -/
def State.arrived (s : State) (p : Nat) (k : Pkt) : State :=
  let k := { k with port := Fin.ofNat 18 p }
  let vc := k.vc.toNat
  let s := (s.perfs puThr 0x02 [p + 32 * vc] (pktFlits k)).bwAdd p 1 k
  let s := s.perfs puThr 0x08 (portSels p) (pktFlits k)
  if !(pkVcs k.kind.toNat).contains vc || ((p = 15 || p = 16) && !s.exportCarries k) then s.logPkt k eIllegalOp
  else match s.route k.dst.toNat (portDim p) k.dl with
    | none => s
    | some (q, dl) => (s.perfs puThr 0x05 (portSels p) 1).sendOut q { k with dl := dl || (p < 7 && q < 7) }

/-- A flit of an accepted frame: the last one of a packet frees its flits and delivers it; one that does not continue the packet
under way is dropped. -/
def State.flitIn (s : State) (p : Nat) (k : Pkt) (j : Nat) : State :=
  let x := s.port p
  if j ≠ 0 && x.rx ≠ some (k, j) then s
  else if j + 1 < pktFlits k then s.setPort p { x with rx := some (k, j + 1) }
  else
    let c := creditClass k
    (s.setPort p { x with rx := none, freed := x.freed.set c (x.freed.getD c 0 + pktFlits k) }).arrived p k

/-- FRAME_RECEIVE: a bad frame is discarded and so is every later one until the replay, with a NAK in the next control flit; a
frame already taken is discarded (R412). -/
def State.frame (s : State) (p : Nat) (f : Frame) : State :=
  if !s.carries p then s
  else if !frameGood f then
    (s.bump (.THR_PORT_ERR p) THR_PORT_ERR.CRC_ERR).setPort p { s.port p with nak := true, owed := true }
  else
    let s := s.frameCtl p f
    let x := s.port p
    if f.seq.toNat = x.rxNext then
      let s := s.setPort p { x with rxNext := (x.rxNext + 1) % 4096, nak := false, owed := x.owed || f.flits.any Option.isSome }
      f.flits.foldl (fun s o => match o with
        | some (k, j) => s.flitIn p k j
        | none => s) s
    else if seqLe f.seq.toNat x.rxNext then s.setPort p { x with owed := true }
    else s.setPort p { x with nak := true, owed := true }

def execFrameReceive (p : PortId) (f : Frame) (s : State) : Host.Outcome State Fault Refusal :=
  if f.wf then .next (s.frame p f) else .fault .illFormed

/-! Losing a port (R412, R415, R416, R418). -/

/-- Whether the spare may stand in for port `p` as far as this module knows. -/
def State.coverable (s : State) (p : Nat) : Bool :=
  p < 17 && s.get .THR_GLB_CFG THR_GLB_CFG.SPARE_COVER / 2 ^ p % 2 = 1 && s.get .THR_SPARE THR_SPARE.ACTIVE = 0

/-- The link a torus port ends, as its dimension and the coordinate it lies after. -/
def State.portBreak (s : State) (p : Nat) : Option (Nat × Nat) :=
  let d := portDim p
  if d = 4 then none else
  let c := coord d s.me
  let n := s.ringSize d
  some (d, if p = (dimPorts d).1 then c else (c + n - 1) % n)

/-- The address of this module with another coordinate. -/
def withCoord (dim m c : Nat) : Nat :=
  let w := match dim with
    | 0 => 2 ^ 7
    | 1 => 2 ^ 11
    | 2 => 2 ^ 3
    | _ => 2 ^ 5
  m - coord dim m * w + c * w

/-- Send a ring-break notice, or its withdrawal, to every other module of the ring (R418, log 21). -/
def State.notices (s : State) (d pos : Nat) (withdraw : Bool) : State :=
  let others := (List.range (s.ringSize d)).filter fun c => c ≠ coord d s.me
  others.foldl (fun s c => s.send (s.pkt pkCtrl 0 0 (withCoord d s.me c) 0 0 0 (d + 4 * withdraw.toNat + 8 * pos) 0 [])) s

/-- A packet caught at a lost port: this module's own goes out again; another's is relayed from an L1 port, and answered
with CAPACITY_DEGRADED at a torus port. -/
def State.caught (s : State) (p : Nat) (k : Pkt) : State :=
  if k.src.toNat = s.me || portDim p = 4 then s.send k else s.answer k pkNak eCapacityDegraded

/-- The packets that a port still owes: those whose last flit is not acknowledged, then those that wait. -/
def PortX.held (x : PortX) : List Pkt :=
  (x.unacked.flatMap fun u => u.flits.filterMap fun o => match o with
    | some (k, j) => if j + 1 = pktFlits k then some k else none
    | none => none) ++ x.queue

/-- The port detours (R418). -/
def State.detour (s : State) (p : Nat) : State :=
  let s := (s.setPortSt p psDetour).put (.THR_PORT_STATUS p) THR_PORT_STATUS.CAUSE eCapacityDegraded
  let s := s.log { code := eCapacityDegraded, cls := clsPort, verdict := 4, unit := p }
  let held := (s.port p).held
  let s := s.setPort p {}
  let s := match s.portBreak p with
    | some (d, pos) => (s.ringBreak d pos false).notices d pos false
    | none => s
  held.foldl (fun s k => s.caught p k) s

/-- A port fails (R416): it waits for the spare, where the spare may stand in, else it detours. -/
def State.portFail (s : State) (p : Nat) : State :=
  let s := (s.setPortSt p psFailed).put (.THR_PORT_STATUS p) THR_PORT_STATUS.CAUSE eUncorrectable
  let s := s.emit (.reeveIrq clsPort p)
  if s.coverable p then s.log { code := eOk, cls := clsPort, verdict := 2, unit := p, done := false } else s.detour p

/-- Credits are at the full share, and what is unacknowledged goes again (R412, R413). -/
def State.portFresh (s : State) (p : Nat) : State :=
  (s.setPort p { s.port p with stuck := 0, inFlight := List.replicate 16 0, nak := false }).replay p

/-- The partner R402 gives a port of levels 1 to 3: module and port; none for an export port or the spare. -/
def State.partner (s : State) (p : Nat) : Option (Nat × Nat) :=
  let me := s.me
  if p < 7 then some (me - me % 8 + (me % 8 + p + 1) % 8, 6 - p)
  else match portDim p with
    | 4 => none
    | d =>
      let n := s.ringSize d
      let c := coord d me
      let plus := p = (dimPorts d).1
      some (withCoord d me (if plus then (c + 1) % n else (c + n - 1) % n), if plus then (dimPorts d).2 else (dimPorts d).1)

/-- Whether module `m`'s port `q` is what R402 has at the other end of port `p`: for the spare, port 17 of the partner of the port
it stands in for. -/
def State.partnerIs (s : State) (p m q : Nat) : Bool :=
  if p = 17 then q = 17 && (s.get .THR_SPARE THR_SPARE.ACTIVE = 0 || (s.partner (s.get .THR_SPARE THR_SPARE.FOR)).all fun e => e.1 = m)
  else (s.partner p).all fun e => e = (m, q)

/-- Training has told a port its partner, module `m`'s port `q`: it goes on by `g`, or stays in TRAINING where the partner differs
from R402 (R404). -/
def State.partnerMet (s : State) (p m q : Nat) (g : State → State) : State :=
  let s := (s.put (.THR_PORT_STATUS p) THR_PORT_STATUS.PARTNER m).put (.THR_PORT_STATUS p) THR_PORT_STATUS.PPORT q
  if s.partnerIs p m q then g s
  else (s.put (.THR_PORT_STATUS p) THR_PORT_STATUS.CAUSE eLayoutInvalid).log
    { code := eLayoutInvalid, cls := clsPort, verdict := 0, unit := p, sub := m }

/-- PORT_RETRAIN: after eight replays with no progress; one that fails, or the third within 1 s, leaves the port FAILED. -/
def State.portRetrain (s : State) (p : Nat) (ok : Bool) (m q : Nat) : State :=
  if !s.carries p || (s.port p).stuck < 8 then s else
  let s := s.bump (.THR_PORT_ERR p) THR_PORT_ERR.RETRAINS
  let late := (s.port p).retrains.filter fun t => s.now.toNat < t + 1000000000
  let s := s.setPort p { s.port p with retrains := s.now.toNat :: late }
  if !ok || 2 ≤ late.length then s.portFail p
  else
    let st := s.portSt p
    (s.setPortSt p psTraining).partnerMet p m q fun s => (s.setPortSt p st).portFresh p

def execPortRetrain (p : PortId) (ok : Bool) (far : W16 × BitVec 5) (s : State) : Host.Outcome State Fault Refusal :=
  .next (s.portRetrain p ok far.1.toNat far.2.toNat)

/-- SPARE_TAKEOVER: port 17 takes the sequence state and replays (R416), or the port detours. -/
def State.takeover (s : State) (p : Nat) (partnerOk : Bool) : State :=
  if s.portSt p ≠ psFailed then s
  else if !(partnerOk && s.coverable p) then s.detour p
  else
    let x := s.port p
    let s := ((s.setPort 17 x).setPort p {}).setPortSt p psSpared
    let s := s.setPortSt 17 psUp
    let s := match s.partner p with
      | some e => (s.put (.THR_PORT_STATUS 17) THR_PORT_STATUS.PARTNER e.1).put (.THR_PORT_STATUS 17) THR_PORT_STATUS.PPORT 17
      | none => s
    let s := s.wr .THR_SPARE (THR_SPARE.FOR.put (THR_SPARE.ACTIVE.put 0 1) p)
    (s.portFresh 17).logDone clsPort p

def execSpareTakeover (p : PortId) (partnerOk : Bool) (s : State) : Host.Outcome State Fault Refusal :=
  .next (s.takeover p partnerOk)

/-! Training (R404, R417). -/

/-- Whether a port leads somewhere: one of a torus whose ring has a single place leads outside the system's sizes (R404). -/
def State.leads (s : State) (p : Nat) : Bool := portDim p = 4 || s.ringSize (portDim p) ≠ 1

/-- PORT_RETRY_TRAIN: a lost port trains again (R417). -/
def State.retryTrain (s : State) (p : Nat) : State :=
  let st := s.portSt p
  if st = psFailed || st = psSpared || st = psDetour then
    (s.setPort p { s.port p with was := st }).setPortSt p psTraining
  else s

def execPortRetryTrain (p : PortId) (s : State) : Host.Outcome State Fault Refusal :=
  .next (s.retryTrain p)

/-- Training has succeeded: a port that was lost comes back through RAMP, its notice withdrawn, the channels of a spared
one still on port 17 (R417, R418). -/
def State.trained (s : State) (p : Nat) : State :=
  let x := s.port p
  let was := x.was
  let s := s.put (.THR_PORT_STATUS p) THR_PORT_STATUS.RAMP 0
  if was = 0 then (s.setPortSt p psUp).portFresh p
  else
    let s := s.setPort p { x with was := 0, returning := if was = psSpared then [0, 1, 2, 3, 4, 5, 6, 7] else [] }
    let s := s.setPortSt p psRamp
    let s := match if was = psDetour then s.portBreak p else none with
      | some (d, pos) => (s.ringBreak d pos true).notices d pos true
      | none => s
    (s.portFresh p).logDone clsPort p

/-- LINK_TRAINING_DONE: the partner is checked against R402. -/
def State.trainDone (s : State) (p : Nat) (ok : Bool) (m q : Nat) : State :=
  if s.portSt p ≠ psTraining then s else
  let was := (s.port p).was
  if !ok then
    if was = 0 then s.portFail p else (s.setPort p { s.port p with was := 0 }).setPortSt p was
  else s.partnerMet p m q fun s => s.trained p

def execLinkTrainingDone (p : PortId) (ok : Bool) (partner : W16) (pport : BitVec 5) (s : State) :
    Host.Outcome State Fault Refusal :=
  .next (s.trainDone p ok partner.toNat pport.toNat)

/-- RAMP_STEP (R417). -/
def State.rampStep (s : State) (p : Nat) : State :=
  if s.portSt p ≠ psRamp then s else
  let r := s.get (.THR_PORT_STATUS p) THR_PORT_STATUS.RAMP
  if r < 7 then s.put (.THR_PORT_STATUS p) THR_PORT_STATUS.RAMP (r + 1)
  else (s.put (.THR_PORT_STATUS p) THR_PORT_STATUS.RAMP 0).setPortSt p psUp

def execRampStep (p : PortId) (s : State) : Host.Outcome State Fault Refusal :=
  .next (s.rampStep p)

/-- SPARE_CHANNEL_RETURN: a channel whose packets on port 17 are all acknowledged moves back; with the last the spare is
released (R417). -/
def State.channelReturn (s : State) (vc : Nat) : State :=
  let p := s.get .THR_SPARE THR_SPARE.FOR
  let x := s.port p
  if s.get .THR_SPARE THR_SPARE.ACTIVE = 0 || !s.carries p || !x.returning.contains vc ||
      (s.port 17).held.any (fun k => k.vc.toNat = vc) then s
  else
    let rest := x.returning.filter fun c => c ≠ vc
    let s := s.setPort p { x with returning := rest }
    if rest.isEmpty then ((s.wr .THR_SPARE 0).setPort 17 {}).setPortSt 17 psOff else s

def execSpareChannelReturn (vc : Fin 8) (s : State) : Host.Outcome State Fault Refusal :=
  .next (s.channelReturn vc)

/-! The board master and the time base (R426-R428). -/

/-- States of THR_TIME (R436). -/
def tsFree : Nat := 0
def tsLocked : Nat := 1
def tsHoldover : Nat := 2

def State.setTimeSt (s : State) (n : Nat) : State := s.put .THR_TIME THR_TIME.STATE n

/-- The lowest slot whose presence pin is driven is the board master (R426). -/
def State.electMaster (s : State) : State :=
  let m := ((List.range 8).find? fun k => !s.bpresLost.contains k).getD 0
  let s := s.put .THR_GLB_ID THR_GLB_ID.MASTER_SLOT m
  s.put .THR_GLB_ID THR_GLB_ID.MASTER (if m = s.get .THR_GLB_ID THR_GLB_ID.SLOT then 1 else 0)

/-- BPRES_LOSS: a slot stops driving its pin; where it was the master, the next one takes over and followers hold over
until its first exchange (R426, R429). -/
def State.bpresLoss (s : State) (slot : Nat) : State :=
  let was := s.get .THR_GLB_ID THR_GLB_ID.MASTER_SLOT
  let s := { s with bpresLost := addOnce slot s.bpresLost }.electMaster
  if was = slot && s.get .THR_TIME THR_TIME.STATE = tsLocked then s.setTimeSt tsHoldover else s

def execBpresLoss (slot : Fin 8) (s : State) : Host.Outcome State Fault Refusal :=
  .next (s.bpresLoss slot)

/-- The board masters this one is the reference for (R428): board (0, 0) of a domain leads the domain's other boards, board (0, 0)
of domain (0, 0) the other domains' boards (0, 0); each is taken to be in this module's slot (log 126). -/
def State.syncBoards (s : State) : List Nat :=
  if coord 2 s.me ≠ 0 || coord 3 s.me ≠ 0 then [] else
  let boards := (List.range (s.ringSize 2)).flatMap fun x => (List.range (s.ringSize 3)).map fun y => withCoord 3 (withCoord 2 s.me x) y
  let domains := if coord 0 s.me ≠ 0 || coord 1 s.me ≠ 0 then [] else
    (List.range (s.ringSize 0)).flatMap fun x => (List.range (s.ringSize 1)).map fun y => withCoord 1 (withCoord 0 s.me x) y
  (boards ++ domains).filter fun m => m ≠ s.me

/-- TSYNC_EXCHANGE: the master sends its time stamp to each module of its board that it has a link to, and to the boards it is
the reference for (R428). -/
def State.tsyncExchange (s : State) : State :=
  if s.get .THR_GLB_ID THR_GLB_ID.MASTER = 0 then s else
  let a := s.me % 8
  let slots := ((List.range 8).filter fun b => b ≠ a && s.linked (slotPort a b)).map fun b => s.me - a + b
  (slots ++ s.syncBoards).foldl (fun s m => s.send (s.pkt pkTsync 0 0 m 0 0 0 0 s.now.toNat [])) s

def execTsyncExchange (s : State) : Host.Outcome State Fault Refusal :=
  .next s.tsyncExchange

/-- The phase of power-up (R502). -/
def State.phase (s : State) : Nat := s.get .RST_STATUS RST_STATUS.PHASE

/-- TSYNC: the offset from the reference, and the correction: once forward before release in P4, else a slew of at most
100 ns per ms, which an exchange every 10 µs makes 1 ns; never back (R428). -/
def State.tsync (s : State) (t1 t2 t3 t4 : Nat) : State :=
  let off : Int := (((t2 : Int) - t1) - ((t4 : Int) - t3)) / 2
  let s := s.put .THR_TIME THR_TIME.OFFSET_NS (off % 2 ^ 32).toNat
  let s := { s.setTimeSt tsLocked with lastSync := s.now.toNat }
  if off < 0 then
    if s.phase = 4 && !s.stepped then { s.wr .GLB_TIME (s.now + BitVec.ofNat 64 (-off).toNat) with stepped := true, slowBy := 0 }
    else { s.wr .GLB_TIME (s.now + 1) with slowBy := 0 }
  else { s with slowBy := if off = 0 then 0 else 1 }

def execTsync (t1 t2 t3 t4 : W64) (s : State) : Host.Outcome State Fault Refusal :=
  .next (s.tsync t1.toNat t2.toNat t3.toNat t4.toNat)

/-- TIME_HOLDOVER: no exchange for 100 µs (R428). -/
def execTimeHoldover (s : State) : Host.Outcome State Fault Refusal :=
  .next (if s.get .THR_TIME THR_TIME.STATE = tsLocked && s.lastSync + 100000 ≤ s.now.toNat then s.setTimeSt tsHoldover else s)

end Sys2Proof.Machine
end

