-- ==== Sys2Proof/Machine/Sheaf.lean ====
section
/-! DEFINITION. Sheafs: definitions, ranks, the tree and the ring, chunks on the wire, what a step does to a member's
elements (R440-R460). -/

namespace Sys2Proof.Machine

/-! Definitions (R440, R441). Axes in their order: 0 SLOT, 1 BX, 2 BY, 3 DX, 4 DY. -/

/-- The coordinate of a module on an axis; LO and CNTM1 share the layout (R403, R470). -/
def axCoord (ax m : Nat) : Nat :=
  match ax with
  | 0 => m % 8
  | 1 => coord 2 m
  | 2 => coord 3 m
  | 3 => coord 0 m
  | _ => coord 1 m

def axWeight (ax : Nat) : Nat :=
  match ax with
  | 0 => 1
  | 1 => 8
  | 2 => 32
  | 3 => 128
  | _ => 2048

def State.axSize (s : State) (ax : Nat) : Nat := 1 + axCoord ax (s.get .THR_GLB_CFG THR_GLB_CFG.DIM)

/-- The range of an axis: its start and COUNT. -/
def State.shAxis (s : State) (w : W64) (ax : Nat) : Nat × Nat :=
  let n := axCoord ax (SHEAF_DEF_A.CNTM1.get w) + 1
  if SHEAF_DEF_A.LOCAL.get w / 2 ^ ax % 2 = 1 then (axCoord ax s.me / n * n, n) else (axCoord ax (SHEAF_DEF_A.LO.get w), n)

def axes : List Nat := [0, 1, 2, 3, 4]

/-- The two conditions of R440 for every axis. -/
def State.shOk (s : State) (w : W64) : Bool :=
  axes.all fun ax =>
    let r := s.shAxis w ax
    r.1 + r.2 ≤ s.axSize ax && (SHEAF_DEF_A.LOCAL.get w / 2 ^ ax % 2 = 0 || s.axSize ax % r.2 = 0)

/-- The COUNTs of definition `d`, and the members' number. -/
def State.shNs (s : State) (d : Nat) : List Nat := axes.map fun ax => (s.shAxis (s.rd (.SHEAF_DEF_A d)) ax).2
def State.shN (s : State) (d : Nat) : Nat := (s.shNs d).foldl (· * ·) 1

/-- Whether a module is a member. -/
def State.shMember (s : State) (d m : Nat) : Bool :=
  axes.all fun ax =>
    let r := s.shAxis (s.rd (.SHEAF_DEF_A d)) ax
    r.1 ≤ axCoord ax m && axCoord ax m < r.1 + r.2

/-- The digits of a member. -/
def State.shDigits (s : State) (d m : Nat) : List Nat :=
  axes.map fun ax => axCoord ax m - (s.shAxis (s.rd (.SHEAF_DEF_A d)) ax).1

/-- Digits to rank and back (R441), SLOT least significant. -/
def rankOf : List Nat → List Nat → Nat
  | n :: ns, d :: ds => d + n * rankOf ns ds
  | _, _ => 0
def digitsOf : List Nat → Nat → List Nat
  | [], _ => []
  | n :: ns, r => r % n :: digitsOf ns (r / n)

def State.shRank (s : State) (d m : Nat) : Nat := rankOf (s.shNs d) (s.shDigits d m)

/-- The address of the member of rank `r`. -/
def State.shAddr (s : State) (d r : Nat) : Nat :=
  (axes.zip (digitsOf (s.shNs d) r)).foldl (fun a x => a + ((s.shAxis (s.rd (.SHEAF_DEF_A d)) x.1).1 + x.2) * axWeight x.1) 0

/-- The rank of the lead (R442): 0, or the board master of a Sheaf that lies on its board. -/
def State.shLead (s : State) (d : Nat) : Nat :=
  let master := s.me - s.me % 8 + s.get .THR_GLB_ID THR_GLB_ID.MASTER_SLOT
  if (s.shNs d).drop 1 = [1, 1, 1, 1] && s.shMember d master then s.shRank d master else 0

/-- What SHEAF_DEF_B shows (R471). -/
def State.shDefB (s : State) (d : Nat) : W64 :=
  let w := SHEAF_DEF_B.LEAD.put 0 (s.shAddr d (s.shLead d))
  let w := SHEAF_DEF_B.RANK.put w (if s.shMember d s.me then s.shRank d s.me else 0)
  let w := SHEAF_DEF_B.MEMBER.put w (s.shMember d s.me).toNat
  SHEAF_DEF_B.MEMBERS.put w (s.shN d)

/-! The tree (R455). -/

def lowbit (x : Nat) : Nat := Nat.gcd x 65536

/-- The parent of a rank in the whole tree, none for the root. -/
def treeParent (ns : List Nat) (r : Nat) : Option Nat :=
  let ds := digitsOf ns r
  match ds.findIdx? fun d => d ≠ 0 with
  | none => none
  | some a => some (rankOf ns (ds.set a (ds.getD a 0 - lowbit (ds.getD a 0))))

/-- The children of a rank along axis `a`, in the order they are added. -/
def childrenOn (ns : List Nat) (r a : Nat) : List Nat :=
  let ds := digitsOf ns r
  let d := ds.getD a 0
  let n := ns.getD a 1
  if (ds.take a).all (fun x => x = 0) then
    ((List.range 16).filter fun j => d % 2 ^ (j + 1) = 0 && d + 2 ^ j < n).map fun j => rankOf ns (ds.set a (d + 2 ^ j))
  else []

def treeChildren (ns : List Nat) (r : Nat) : List Nat := axes.flatMap fun a => childrenOn ns r a

/-- The ranks of a member's subtree run from its own up to this many. -/
def subtree (ns : List Nat) (r : Nat) : Nat :=
  let ds := digitsOf ns r
  match ds.findIdx? fun d => d ≠ 0 with
  | none => ns.foldl (· * ·) 1
  | some a => (ns.take a).foldl (· * ·) 1 * min (lowbit (ds.getD a 0)) (ns.getD a 1 - ds.getD a 0)

/-! The launch descriptor (R443). -/
def lOp (b : List Byte) : Nat := dfield b 0 1
def lRed (b : List Byte) : Nat := dfield b 1 1
def lSrcFmt (b : List Byte) : Nat := dfield b 2 1 % 16
def lDstFmt (b : List Byte) : Nat := dfield b 2 1 / 16
def lRm (b : List Byte) : Nat := dfield b 3 1 % 4
def lSheaf (b : List Byte) : Nat := dfield b 4 2
def lVat (b : List Byte) : Nat := dfield b 6 2 % 16
def lRow (b : List Byte) : Nat := dfield b 8 4 % 2 ^ 17
def lCount (b : List Byte) : Nat := dfield b 16 8
def lTotal (b : List Byte) : Nat := dfield b 24 8
def lSrc (b : List Byte) : Nat := dfield b 32 8
def lDst (b : List Byte) : Nat := dfield b 40 8
def lCpl (b : List Byte) : Nat := dfield b 48 8
def lSeed (b : List Byte) : W64 := BitVec.ofNat 64 (dfield b 56 8)

def opAllReduce : Nat := 0
def opScatter : Nat := 1
def opGather : Nat := 2
def opBroadcast : Nat := 3
def opReduce : Nat := 4
def opBarrier : Nat := 5

def lReduces (b : List Byte) : Bool := lOp b = opAllReduce || lOp b = opScatter || lOp b = opReduce
/-- Operations whose rank blocks follow the COUNTs. -/
def lCounted (b : List Byte) : Bool := lOp b = opScatter || lOp b = opGather

/-- Bytes of an element of a format. -/
def fmtBytes (f : Nat) : Nat := if f = fFP32 then 4 else 2

/-- Elements that SRC holds and DST receives at rank `r` (R444). -/
def lSrcLen (b : List Byte) (r : Nat) : Nat :=
  if lOp b = opGather then lCount b else if lOp b = opBroadcast && r ≠ 0 then 0 else lTotal b
def lDstLen (b : List Byte) (r : Nat) : Nat :=
  if lOp b = opScatter then lCount b else if lOp b = opReduce && r ≠ 0 then 0 else lTotal b

/-- Whether the ring is used (R453). -/
def lRing (b : List Byte) (n : Nat) : Bool :=
  lOp b ≠ opBarrier &&
    decide (262144 ≤ (if lCounted b then (lTotal b + n - 1) / n else lTotal b) * fmtBytes (lSrcFmt b))

/-! The parts of the steps (R455-R460). A range is a first element and a length. -/

/-- A part of a step: what comes from which rank, what goes to which rank; how it joins (0 reduced, 1 joined to zeros,
2 taken as it is); its form on the wire (0 FP32, 1 S16, 2 the target format, 3 counts); whether the sends wait for what
comes; the ranges finalised at its end. -/
structure ShPart where
  step : Nat
  recvs : List (Nat × List (Nat × Nat)) := []
  sends : List (Nat × List (Nat × Nat)) := []
  mode : Nat := 0
  wire : Nat := 2
  after : Bool := true
  fin : List (Nat × Nat) := []
  deriving DecidableEq, Repr

/-- The rank block of rank `r` (R444). -/
def shBlock (b : List Byte) (counts : List Nat) (n r : Nat) : Nat × Nat :=
  if lCounted b then ((counts.take r).foldl (· + ·) 0, counts.getD r 0)
  else
    let q := ((lTotal b + n - 1) / n + 255) / 256 * 256
    (min (r * q) (lTotal b), min ((r + 1) * q) (lTotal b) - min (r * q) (lTotal b))

/-- The blocks of the ranks of a subtree, which follow each other. -/
def subBlock (b : List Byte) (ns counts : List Nat) (r : Nat) : Nat × Nat :=
  let n := ns.foldl (· * ·) 1
  let bs := (List.range (subtree ns r)).map fun i => shBlock b counts n (r + i)
  ((shBlock b counts n r).1, (bs.map Prod.snd).foldl (· + ·) 0)

/-- The count exchange (R449): up the whole tree, then down. -/
def countParts (ns : List Nat) (r : Nat) : List ShPart :=
  let sub := fun c => (c, [(c, subtree ns c)])
  let all := [(0, ns.foldl (· * ·) 1)]
  [{ step := 1, recvs := (treeChildren ns r).map sub, sends := (treeParent ns r).toList.map (fun p => (p, [(r, subtree ns r)])),
     mode := 1, wire := 3 },
   { step := 1, recvs := (treeParent ns r).toList.map (fun p => (p, all)), sends := (treeChildren ns r).map (fun c => (c, all)),
     mode := 2, wire := 3 }]

/-- The tree (R455, R457): up along each active axis, finalisation at the root, down in reverse order. -/
def treeParts (b : List Byte) (ns counts : List Nat) (r : Nat) : List ShPart :=
  let act := axes.filter fun a => 1 < ns.getD a 1
  let na := act.length
  let ds := digitsOf ns r
  let on := fun a => (ds.take a).all (fun x => x = 0)
  let up := fun a => on a && ds.getD a 0 ≠ 0
  let parent := (treeParent ns r).getD 0
  let total := lTotal b
  let upBlock := fun c => if lReduces b then [(0, total)] else [subBlock b ns counts c]
  let downBlock := fun c => if lOp b = opScatter then [subBlock b ns counts c] else [(0, total)]
  let hasUp := lReduces b || lOp b = opGather
  let hasDown := lOp b ≠ opReduce && lOp b ≠ opBarrier
  let ups := (List.range na).map fun u =>
    let a := act.getD u 0
    let p : ShPart := { step := 2 + u, mode := if lReduces b then 0 else 1
                        wire := if lReduces b then (if a = 0 then 0 else 1) else 2 }
    if hasUp then { p with recvs := (childrenOn ns r a).map (fun c => (c, upBlock c))
                           sends := if up a then [(parent, upBlock r)] else [] } else p
  let fin : ShPart := { step := 1 + na, fin := if lReduces b && r = 0 then [(0, total)] else [] }
  let downs := (List.range na).map fun u =>
    let a := act.getD (na - 1 - u) 0
    let p : ShPart := { step := 2 + na + u, mode := 2 }
    if hasDown then { p with recvs := if up a then [(parent, downBlock r)] else []
                             sends := (childrenOn ns r a).map (fun c => (c, downBlock c)) } else p
  ups ++ [fin] ++ downs

/-- The ranks whose digits before axis `a` equal those of `r` and whose digit on `a` is `x`. -/
def ringRanks (ns : List Nat) (r a x : Nat) : List Nat :=
  (List.range (ns.foldl (· * ·) 1)).filter fun q =>
    let ds := digitsOf ns q
    ds.take a = (digitsOf ns r).take a && ds.getD a 0 = x

/-- The ring (R456, R457): a reduce-scatter stage per active axis, finalisation by the owners, gather stages in reverse; in
REDUCE a block moves on only until it reaches digit 0 of each axis, and so the root. -/
def ringParts (b : List Byte) (ns counts : List Nat) (r : Nat) : List ShPart :=
  let act := axes.filter fun a => 1 < ns.getD a 1
  let n := ns.foldl (· * ·) 1
  let ds := digitsOf ns r
  let hop := fun a k => rankOf ns (ds.set a ((ds.getD a 0 + k) % ns.getD a 1))
  let blocks := fun a x => ((ringRanks ns r a (x % ns.getD a 1)).map (shBlock b counts n)).filter fun p => 0 < p.2
  let steps := act.flatMap fun a => (List.range (ns.getD a 1 - 1)).map fun k => (a, k + 1)
  let gsteps := act.reverse.flatMap fun a => (List.range (ns.getD a 1 - 1)).map fun k => (a, k + 1)
  let hasRs := lOp b ≠ opGather
  let rs := (List.range steps.length).map fun i =>
    let (a, k) := steps.getD i (0, 1)
    let m := ns.getD a 1
    let d := ds.getD a 0
    let p : ShPart := { step := 2 + i, mode := if lReduces b then 0 else 1
                        wire := if lReduces b then (if a = 0 then 0 else 1) else 2, after := false }
    if hasRs then { p with recvs := [(hop a (m - 1), blocks a (d + 2 * m - 1 - k))]
                           sends := [(hop a 1, blocks a (d + m - k))] } else p
  let fin : ShPart := { step := 1 + steps.length, fin := if lReduces b then [shBlock b counts n r] else [] }
  let gs := (List.range gsteps.length).map fun i =>
    let (a, k) := gsteps.getD i (0, 1)
    let m := ns.getD a 1
    let d := ds.getD a 0
    let p : ShPart := { step := 2 + steps.length + i, mode := 2, after := false }
    if lOp b = opScatter then p
    else if lOp b = opReduce then
      if !(ds.drop (a + 1)).all (fun x => x = 0) then p
      else { p with recvs := if d = 0 || k < d then [(hop a (m - 1), blocks a (d + m - k))] else []
                    sends := if k ≤ d then [(hop a 1, blocks a (d + m + 1 - k))] else [] }
    else { p with recvs := [(hop a (m - 1), blocks a (d + m - k))], sends := [(hop a 1, blocks a (d + m + 1 - k))] }
  rs ++ [fin] ++ gs

/-- The parts of an operation at this member; those that move data once the counts are known. -/
def State.shParts (s : State) (o : ShOp) : List ShPart :=
  let ns := s.shNs o.d
  let r := s.shRank o.d s.me
  let b := o.desc
  let data := if lOp b = opBarrier then [] else
    if lRing b (s.shN o.d) then ringParts b ns o.counts r else treeParts b ns o.counts r
  if lCounted b then countParts ns r ++ (if o.counts.isEmpty then [] else data) else data

/-! Elements on the wire (R451, R452). -/

def padTo (k : Nat) (xs : List Nat) : List Nat := xs ++ List.replicate ((k - xs.length % k) % k) 0

/-- `n` elements from `i` on. -/
def slice (xs : List Nat) (r : Nat × Nat) : List Nat := (xs.drop r.1).take r.2

/-- The elements of a stream in order; in S16 each range fills whole blocks. -/
def streamOf (wire : Nat) (vals : List Nat) (rs : List (Nat × Nat)) : List Nat :=
  rs.flatMap fun r => if wire = 1 then padTo 32 (slice vals r) else slice vals r

def streamLen (wire : Nat) (rs : List (Nat × Nat)) : Nat :=
  (rs.map fun r => if wire = 1 then (r.2 + 31) / 32 * 32 else r.2).foldl (· + ·) 0

def chunkLen : Nat := 16384
def chunksOf (wire : Nat) (rs : List (Nat × Nat)) : Nat := (streamLen wire rs + chunkLen - 1) / chunkLen

/-- Bytes of an element outside S16. -/
def wireBytes (b : List Byte) (wire : Nat) : Nat := if wire = 0 then 4 else if wire = 3 then 8 else fmtBytes (lDstFmt b)

/-- Lists of `k` elements each. -/
def groupsOf {α : Type} (k : Nat) : Nat → List α → List (List α)
  | 0, _ => []
  | n + 1, xs => if xs.isEmpty then [] else xs.take k :: groupsOf k n (xs.drop k)

/-- Encoding of a block and whether it is exact (R63, R459). -/
def shEncode (xs : List W32) : Nat × List W16 × Flags :=
  let (eb, qs, fl) := s16Pack xs
  let inexact := (xs.zip qs).any fun p => (f32 p.1).isFin && !(f32 p.1).eqv (f32 (s16Elem eb p.2))
  (eb, qs, fl ||| if inexact then flagIX else 0)

/-- A chunk's elements as exponent bytes, payload and the flags its encoding raises. -/
def chunkBytes (b : List Byte) (wire : Nat) (xs : List Nat) : List Byte × List Byte × Flags :=
  if wire = 1 then
    (groupsOf 32 xs.length (xs.map (BitVec.ofNat 32))).foldl (fun (r : List Byte × List Byte × Flags) blk =>
      let (eb, qs, fl) := shEncode blk
      (r.1 ++ [BitVec.ofNat 8 eb], r.2.1 ++ qs.flatMap (fun q => leBytes 2 q.toNat), r.2.2 ||| fl)) ([], [], 0)
  else ([], xs.flatMap (leBytes (wireBytes b wire)), 0)

/-- The elements of a received chunk. -/
def chunkVals (b : List Byte) (wire : Nat) (ebs data : List Byte) : List Nat :=
  if wire = 1 then
    ((groupsOf 64 data.length data).zip ebs).flatMap fun p =>
      (groupsOf 2 64 p.1).map fun q => (s16Elem p.2.toNat (BitVec.ofNat 16 (leNat q))).toNat
  else (groupsOf (wireBytes b wire) data.length data).map leNat

/-- Payload bytes of a chunk of `n` elements. -/
def chunkSize (b : List Byte) (wire n : Nat) : Nat := if wire = 1 then 2 * n else wireBytes b wire * n

/-- Sub-kinds of a SHEAF packet (R452). -/
def skData : Nat := 0
def skAck : Nat := 1
def skNak : Nat := 2
def skHello : Nat := 3
def skGo : Nat := 4
def skMismatch : Nat := 5
def skDone : Nat := 6
def skCommit : Nat := 7
def skAbort : Nat := 8
def skPause : Nat := 9
def skResume : Nat := 10
def skPauseReq : Nat := 11
def skResumeReq : Nat := 12

/-- The TAG of a SHEAF packet: none of the pool's (log 22). -/
def shTag : Nat := 0xFFFF

/-- Send a SHEAF packet of operation `(d, k)` to the member of rank `r`. -/
def State.shSend (s : State) (d k r sub step chunk : Nat) (data : List Byte := []) : State :=
  s.send (s.pkt pkSheaf 1 0 (s.shAddr d r) 0 shTag d (chunk * 65536 + sub) (k * 2 ^ 48 + step * 2 ^ 32) data)

/-- Send it to every other member: how the lead broadcasts. -/
def State.shCast (s : State) (d k sub : Nat) (data : List Byte := []) : State :=
  ((List.range (s.shN d)).filter fun r => r ≠ s.shRank d s.me).foldl (fun s r => s.shSend d k r sub 0 0 data) s

/-- Send one chunk as its packets, eight exponent bytes to a packet, the CRC on the LAST: its complement where the chunk
rests on one that failed (R451). -/
def State.shChunk (s : State) (d k r step chunk : Nat) (ebs data : List Byte) (spoilt : Bool := false) : State :=
  let pks := groupsOf 512 data.length data
  let crc := (if spoilt then ~~~crc32c data else crc32c data).toNat
  (List.range pks.length).foldl (fun s i =>
    let last := i + 1 = pks.length
    let addr := leNat (ebs.drop (8 * i) |>.take 8)
    s.send (s.pkt pkSheaf 1 (if last then pfLast else 0) (s.shAddr d r) addr shTag d (chunk * 65536 + i * 256)
      (k * 2 ^ 48 + step * 2 ^ 32 + if last then crc else 0) (pks.getD i []))) s

/-! The arithmetic (R454, R457). -/

/-- The FP32 value of a source element; a NaN is the canonical one. -/
def shSource (fmt x : Nat) : Nat :=
  if fmt = fFP32 then (if (f32 (BitVec.ofNat 32 x)).isNan then f32Nan.toNat else x)
  else (widen (fmtOf fmt) (BitVec.ofNat 16 x)).toNat

/-- `op`: FP32 addition, MAX or MIN. -/
def shCombine (red : Nat) (a b : W32) : W32 × Flags :=
  if red = 0 then fAdd a b else if red = 1 then (fMax a b, 0) else (fMin a b, 0)

/-- Two streams of one range joined. -/
def joinVals (mode red : Nat) (xs ys : List Nat) : List Nat × Flags :=
  if mode = 2 then (ys, 0)
  else if mode = 1 then (List.zipWith (· ||| ·) xs ys, 0)
  else
    let rs := List.zipWith (fun x y => shCombine red (BitVec.ofNat 32 x) (BitVec.ofNat 32 y)) xs ys
    (rs.map (fun r => r.1.toNat), rs.foldl (fun f r => f ||| r.2) 0)

/-- Put `ys` at position `i`. -/
def overlay (xs : List Nat) (i : Nat) (ys : List Nat) : List Nat := xs.take i ++ ys ++ xs.drop (i + ys.length)

/-- Join a stream's elements into a member's at its ranges. -/
def joinStream (mode red wire : Nat) (vals : List Nat) (rs : List (Nat × Nat)) (ys : List Nat) : List Nat × Flags :=
  let r := rs.foldl (fun (a : List Nat × Flags × List Nat) rg =>
    let (zs, fl) := joinVals mode red (slice a.1 rg) (a.2.2.take rg.2)
    (overlay a.1 rg.1 zs, a.2.1 ||| fl, a.2.2.drop (if wire = 1 then (rg.2 + 31) / 32 * 32 else rg.2))) (vals, 0, ys)
  (r.1, r.2.1)

/-- The generator of element `e` before its step (R457). -/
def genAt (seed : W64) (e : Nat) : Gen := (List.range (e % 256)).foldl (fun g _ => (genNext g).2) (genSeed seed (e / 256))

/-- Finalisation of one element. -/
def finOne (fmt rm : Nat) (g : Gen) (x : Nat) : Nat × Flags × Gen :=
  let w := BitVec.ofNat 32 x
  let a : PageAcc := { gen := g }
  if fmt = fFP32 then ((leave32 w).toNat, 0, g)
  else
    let (md, a) := a.rnd rm
    let (h, fl) := cvt (fmtOf fmt) md w
    (h.toNat, fl, a.gen)

/-- Finalisation of the elements from `e` on. -/
def finVals (fmt rm : Nat) (seed : W64) : Gen → Nat → List Nat → List Nat × Flags
  | _, _, [] => ([], 0)
  | g, e, x :: xs =>
    let g := if e % 256 = 0 then genSeed seed (e / 256) else g
    let (y, f1, g) := finOne fmt rm g x
    let (ys, f2) := finVals fmt rm seed g (e + 1) xs
    (y :: ys, f1 ||| f2)

/-- The ranges finalised. -/
def finRanges (b : List Byte) (vals : List Nat) (rs : List (Nat × Nat)) : List Nat × Flags :=
  rs.foldl (fun (a : List Nat × Flags) rg =>
    let (ys, fl) := finVals (lDstFmt b) (lRm b) (lSeed b) (genAt (lSeed b) rg.1) rg.1 (slice a.1 rg)
    (overlay a.1 rg.1 ys, a.2 ||| fl)) (vals, 0)

end Sys2Proof.Machine
end

