-- ==== Sys2Proof/Machine/SheafOps.lean ====
section
/-! DEFINITION. Sheaf operations at a member (R443-R469): launch, handshake, the steps, DONE and COMMIT, aborts, pauses. -/

namespace Sys2Proof.Machine

/-! The table of active operations. -/

def State.shFind (s : State) (d k : Nat) : Option ShOp := s.ops.find? fun o => o.d = d && o.k = k
def State.shOf (s : State) (h : ShHead) : Option ShOp := s.shFind h.defn.val h.opseq.toNat
def State.shSet (s : State) (o : ShOp) : State :=
  { s with ops := s.ops.map fun p => if p.d = o.d ∧ p.k = o.k then o else p }
def State.shMy (s : State) (d : Nat) : Nat := s.shRank d s.me
def State.isLead (s : State) (d : Nat) : Bool := s.shMy d = s.shLead d

/-- The completion word (R447), and vector 1 of the function (R577). -/
def State.shWord (s : State) (f cpl err flags : Nat) : State :=
  (s.hostOut cpl (leBytes 8 (2 ^ 63 + err * 2 ^ 48 + flags * 2 ^ 44 + s.now.toNat % 2 ^ 44))).raiseMsi f 1

/-- Why an operation did not commit (R475). -/
def State.shLast (s : State) (o : ShOp) (code reason : Nat) : State :=
  let w := SHEAF_LAST.CAUSE.put 0 code
  let w := SHEAF_LAST.REASON.put w reason
  let w := SHEAF_LAST.STEP.put w o.step
  let w := SHEAF_LAST.OPSEQ.put w o.k
  let w := SHEAF_LAST.DEF.put w o.d
  s.wr .SHEAF_LAST (SHEAF_LAST.VALID.put w 1)

/-- The operation leaves the table and releases its staging claim (R450). -/
def State.shDrop (s : State) (o : ShOp) : State :=
  let s := s.release (.stage o.d o.k)
  { s with ops := s.ops.filter fun p => !(p.d = o.d && p.k = o.k) }

/-- An operation ends at this member with a code: completion word or request, counts and record. -/
def State.shEnd (s : State) (o : ShOp) (code reason flags : Nat) : State :=
  let s := s.shDrop o
  let s := if code = eOk then s.bump .SHEAF_STAT SHEAF_STAT.COMPLETED
    else if code = eMismatch then (s.bump .SHEAF_STAT SHEAF_STAT.MISMATCHES).shLast o code reason
    else (s.bump .SHEAF_STAT SHEAF_STAT.ABORTS).shLast o code reason
  match o.req with
  | some i => if code = eOk then s else s.reqFail i code
  | none => s.shWord o.f (lCpl o.desc) code flags

/-- A member stops on its own: ABORT to the lead, or from the lead to every member (R461). -/
def State.shStop (s : State) (o : ShOp) (code reason : Nat) : State :=
  let data := leBytes 1 code ++ leBytes 1 reason
  let s := if s.isLead o.d then s.shCast o.d o.k skAbort data else s.shSend o.d o.k (s.shLead o.d) skAbort 0 0 data
  let s := if code = eUncorrectable then
      s.log { code := eUncorrectable, cls := clsSheaf, verdict := 0, unit := o.d, sub := o.step } else s
  s.shEnd o code reason 0

/-! Launching (R443-R447, R450). -/

/-- Bytes of the launch window of function `f`. -/
def State.shWindow (s : State) (f : Nat) : List Byte :=
  (List.range 8).flatMap fun i => leBytes 8 (Tab.get (fun _ => 0) s.shWin (8 * f + i)).toNat

/-- ILLEGAL_OP: reserved values and reserved bits. -/
def lIllegal (b : List Byte) : Bool :=
  5 < lOp b || 2 < lRed b || (!lReduces b && lRed b ≠ 0) || 4 ≤ dfield b 3 1 || 16 ≤ dfield b 6 2 || 2 ^ 17 ≤ dfield b 8 4 ||
    dfield b 12 4 ≠ 0

/-- FORMAT_INVALID (R445). -/
def lFormat (b : List Byte) : Bool :=
  lRm b = 3 || (lOp b ≠ opBarrier && (2 < lSrcFmt b || 2 < lDstFmt b || (!lReduces b && lSrcFmt b ≠ lDstFmt b)))

/-- `n` bytes at `a` lie in the partition's HBM regions or in the rows of one of its Cellars. -/
def State.shPlace (s : State) (p a n : Nat) : Bool :=
  n = 0 || match s.place p a n with
    | .hbm => true
    | .cellar _ r => decide (r * 512 + a % 512 + n ≤ rowsPerCellar * 512)
    | .none => false

/-- LAYOUT_INVALID: definition, membership, places, counts. -/
def State.lLayout (s : State) (b : List Byte) : Bool :=
  let d := lSheaf b
  if 1024 ≤ d then true
  else if s.get (.SHEAF_DEF_A d) SHEAF_DEF_A.VALID = 0 || !s.shMember d s.me then true
  else
    let r := s.shMy d
    let p := s.part (lVat b)
    let countOk := if lOp b = opBarrier then lCount b = 0 && lTotal b = 0
      else (1 ≤ lTotal b && lTotal b ≤ 2 ^ 30) && (if lCounted b then lCount b ≤ lTotal b else lCount b = lTotal b)
    let placeOk := lOp b = opBarrier ||
      (s.shPlace p (lSrc b) (lSrcLen b r * fmtBytes (lSrcFmt b)) && s.shPlace p (lDst b) (lDstLen b r * fmtBytes (lDstFmt b)))
    !countOk || !placeOk || !s.valid (lVat b) || lRow b % 512 ≠ 0

/-- The staging rows lie in one bank; what its claim meets (R211, R469). -/
def State.lClaim (s : State) (b : List Byte) : Bool :=
  let v := lVat b
  let k := bankOf (lRow b)
  s.claimErr v k portRemote ≠ 0 || (s.claimsOn v k).any fun c => match c.holder with
    | .stage _ _ => true
    | _ => false

/-- The first failing check (R446). -/
def State.lErr (s : State) (f : Nat) (b : List Byte) : Nat :=
  if lIllegal b then eIllegalOp
  else if lFormat b then eFormatInvalid
  else if s.lLayout b then eLayoutInvalid
  else if 16 ≤ (s.launches.filter fun (l : Launch) => l.f = f && l.req.isNone).length then eQueueFull
  else if s.lClaim b then eBankClaimConflict
  else eOk

/-- SHEAF_LAUNCH: the write of the word at 0x138. -/
def State.shLaunch (s : State) (f : Nat) (val : W64) : State :=
  let s := { s with shWin := Tab.set (fun _ => 0) s.shWin (8 * f + 7) val }
  let b := s.shWindow f
  if lCpl b % 8 ≠ 0 then s.log { code := eLayoutInvalid, cls := clsSheaf, verdict := 0, unit := lSheaf b, sub := f } else
  let e := s.lErr f b
  if e ≠ eOk then s.shWord f (lCpl b) e 0
  else
    let d := lSheaf b
    let k := s.get (.SHEAF_SEQ d) SHEAF_SEQ.NEXT
    let s := s.put (.SHEAF_SEQ d) SHEAF_SEQ.NEXT ((k + 1) % 2 ^ 15)
    let s := s.claim (lVat b) portRemote (.stage d k) [bankOf (lRow b)]
    { s with launches := s.launches ++ [{ f := f, d := d, k := k, desc := b }] }

def execSheafLaunch (f : FuncId) (val : W64) (s : State) : Host.Outcome State Fault Refusal :=
  .next (s.shLaunch f val)

/-! The handshake (R448). -/

/-- The 24-byte record hashed (R448, R465). -/
def State.shRecord (s : State) (o : ShOp) : List Byte :=
  let head := match o.req with
    | some i => leBytes 4 (s.req i).promptLen ++ leBytes 2 (s.req i).variant
    | none => o.desc.take 4 ++ leBytes 2 o.d
  head ++ leBytes 2 o.k ++ leBytes 8 (if o.req.isSome then 0 else lTotal o.desc) ++
    leBytes 8 ((s.rd (.SHEAF_DEF_A o.d)).toNat % 2 ^ 53)

def State.shHash (s : State) (o : ShOp) : Nat := leNat (sipHash128 (List.replicate 16 0) (s.shRecord o))

/-- The elements a member begins with (R444, R454, R458). -/
def State.shLoad (s : State) (o : ShOp) : List Nat :=
  let b := o.desc
  let r := s.shMy o.d
  let n := lSrcLen b r
  let e := fmtBytes (lSrcFmt b)
  let xs := (groupsOf e n (s.bytes (lSrc b) (n * e))).map leNat
  if lReduces b then xs.map (shSource (lSrcFmt b))
  else overlay (List.replicate (lTotal b) 0) (if lOp b = opGather then (shBlock b o.counts (s.shN o.d) r).1 else 0) xs

/-- Write bytes to a local address; Cellar rows are written whole. -/
def State.shWrite (s : State) (a : Nat) (bs : List Byte) : State :=
  if !cellarAddr a then s.store a bs
  else
    let v := a / 0x100000000 % 16
    let base := a % 0x100000000
    if bs.isEmpty then s else
    (List.range ((base + bs.length - 1) / 512 - base / 512 + 1)).foldl (fun s i =>
      let r := base / 512 + i
      let old := s.row v r
      let lo := base - r * 512
      let part := (bs.drop (r * 512 - base)).take (512 - lo)
      s.setRow v r (old.take lo ++ part ++ old.drop (lo + part.length))) s

/-- DST receives its elements. -/
def State.shDeliver (s : State) (o : ShOp) : State :=
  let b := o.desc
  let r := s.shMy o.d
  let rg := if lOp b = opScatter then shBlock b o.counts (s.shN o.d) r else (0, lDstLen b r)
  s.shWrite (lDst b) ((slice o.vals rg).flatMap (leBytes (fmtBytes (lDstFmt b))))

/-! DONE (R459, R460, R462). -/

/-- DONE moves up the tree once this member and its subtree are done; the lead commits when all are. The wait for the outcome
runs from the sending of DONE. -/
def State.shDone (s : State) (o : ShOp) : State :=
  let r := s.shMy o.d
  let ns := s.shNs o.d
  let cover := 1 + (o.dones.map Prod.snd).foldl (· + ·) 0
  if o.phase ≠ 2 || cover < subtree ns r then s.shSet o else
  let data := leBytes 4 o.flags.toNat ++ leBytes 4 cover
  let t := s.shSet { o with phase := 3, since := s.now.toNat }
  match treeParent ns r with
  | some p => t.shSend o.d o.k p skDone o.step 0 data
  | none =>
    if s.isLead o.d then (s.shCast o.d o.k skCommit (leBytes 1 o.flags.toNat)).shEnd o eOk 0 o.flags.toNat
    else t.shSend o.d o.k (s.shLead o.d) skDone o.step 0 data

/-- The member's last step has ended (R460). -/
def State.shFinish (s : State) (o : ShOp) : State :=
  let s := if o.req.isNone && lOp o.desc ≠ opBarrier then s.shDeliver o else s
  s.shDone { o with phase := 2, since := s.now.toNat }

/-! The steps (R449, R451, R460). -/

/-- The chunks of a stream that have come. -/
def ShOp.got (o : ShOp) (step rank : Nat) : List (Nat × List Nat) :=
  (o.inbox.filter fun (c : Nat × Nat × Nat × List Nat) => c.1 = step && c.2.1 = rank).map fun c => c.2.2

/-- Every chunk this part expects has come. -/
def ShOp.full (o : ShOp) (p : ShPart) : Bool := p.recvs.all fun x => (o.got p.step x.1).length = chunksOf p.wire x.2

/-- A stream's elements from its chunks. -/
def ShOp.stream (o : ShOp) (step rank n : Nat) : List Nat :=
  (List.range n).flatMap fun i => match (o.got step rank).find? fun c => c.1 = i with
    | some c => c.2
    | none => []

/-- Join what has come, in order, counting additions at the port it came by (R606). -/
def State.shMerge (s : State) (o : ShOp) (p : ShPart) : State × ShOp :=
  let r := p.recvs.foldl (fun (a : State × ShOp) x =>
    let ys := o.stream p.step x.1 (chunksOf p.wire x.2)
    let (vals, fl) := joinStream p.mode (lRed o.desc) p.wire a.2.vals x.2 ys
    let port := ((a.1.route (a.1.shAddr o.d x.1) 4 false).map Prod.fst).getD 0
    let s := if p.mode = 0 && lRed o.desc = 0 then
        a.1.perfs puThr 0x06 (portSels port) ((x.2.map Prod.snd).foldl (· + ·) 0) else a.1
    (s, { a.2 with vals := vals, flags := a.2.flags ||| fl })) (s, o)
  let from_ := p.recvs.map Prod.fst
  (r.1, { r.2 with merged := true
                   inbox := r.2.inbox.filter fun (c : Nat × Nat × Nat × List Nat) => !(c.1 = p.step && from_.contains c.2.1) })

/-- What has come with the chunks that failed among it, as they were read. -/
def ShOp.asRead (o : ShOp) : ShOp := { o with inbox := o.inbox ++ o.bad }

/-- The elements a part sends from. Before all its inputs have passed their checks, failed ones are joined as they were
read, and the second list has 1 at each element that rests on one (R451). -/
def ShOp.outVals (o : ShOp) (p : ShPart) : List Nat × List Nat :=
  if o.merged || !p.after then (o.vals, []) else
  let mark := fun (v : Nat) (c : Nat × Nat × Nat × List Nat) => (c.1, c.2.1, c.2.2.1, c.2.2.2.map fun _ => v)
  let marks := { o with inbox := o.inbox.map (mark 0) ++ o.bad.map (mark 1) }
  p.recvs.foldl (fun (a : List Nat × List Nat) x =>
    let n := chunksOf p.wire x.2
    ((joinStream p.mode (lRed o.desc) p.wire a.1 x.2 (o.asRead.stream p.step x.1 n)).1,
      (joinStream 1 0 p.wire a.2 x.2 (marks.stream p.step x.1 n)).1)) (o.vals, List.replicate o.vals.length 0)

/-- The elements of chunk `c` of the stream to rank `r`. -/
def ShPart.chunk (p : ShPart) (vals : List Nat) (r c : Nat) : List Nat :=
  match p.sends.find? fun x => x.1 = r with
  | some x => ((streamOf p.wire vals x.2).drop (c * chunkLen)).take chunkLen
  | none => []

/-- Whether chunk `c` to rank `r` would rest on an input that failed. -/
def ShOp.spoilt (o : ShOp) (p : ShPart) (r c : Nat) : Bool := (p.chunk (o.outVals p).2 r c).any fun x => x ≠ 0

/-- Send chunk `c` to rank `r`; the flags of one that its receiver is to refuse do not count (log 71). -/
def State.shSendChunk (s : State) (o : ShOp) (p : ShPart) (r c : Nat) : State × Flags :=
  let (ebs, data, fl) := chunkBytes o.desc p.wire (p.chunk (o.outVals p).1 r c)
  (s.shChunk o.d o.k r p.step c ebs data (o.spoilt p r c), if o.spoilt p r c then 0 else fl)

/-- Chunk `c` to rank `r` has gone a second time. -/
def ShOp.resent (o : ShOp) (r c : Nat) : ShOp :=
  { o with outs := o.outs.map fun t =>
    if t.rank = r then { t with unacked := t.unacked.map fun (u : Nat × Bool) => if u.1 = c then (c, true) else u } else t }

/-- Outputs that rested on failed inputs go again once those have come (R451). -/
def State.shMend (s : State) (o : ShOp) (p : ShPart) : State × ShOp :=
  (o.early.filter fun x => !o.spoilt p x.1 x.2).foldl (fun (a : State × ShOp) x =>
    let (s, fl) := a.1.shSendChunk o p x.1 x.2
    (s.bump .SHEAF_STAT SHEAF_STAT.RESENDS,
      { a.2.resent x.1 x.2 with flags := a.2.flags ||| fl, early := a.2.early.filter fun y => y ≠ x })) (s, o)

/-- A stream sends while fewer than 4 chunks are unacknowledged (R451). -/
def State.shFeedOne (s : State) (o : ShOp) (p : ShPart) (t : ShOut) : State × ShOp × ShOut :=
  let total := chunksOf p.wire (((p.sends.find? fun x => x.1 = t.rank).map Prod.snd).getD [])
  (List.range (min (4 - t.unacked.length) (total - t.next))).foldl (fun (a : State × ShOp × ShOut) _ =>
    let (s, o, t) := a
    let (s, fl) := s.shSendChunk o p t.rank t.next
    let bad := if o.spoilt p t.rank t.next then [(t.rank, t.next)] else []
    (s, { o with flags := o.flags ||| fl, early := o.early ++ bad, naks := o.naks ++ bad }, { t with next := t.next + 1, unacked := t.unacked ++ [(t.next, false)] })) (s, o, t)

def State.shFeed (s : State) (o : ShOp) (p : ShPart) : State × ShOp :=
  let r := o.outs.foldl (fun (a : State × ShOp × List ShOut) t =>
    let (s, o, t) := a.1.shFeedOne a.2.1 p t
    (s, o, a.2.2 ++ [t])) (s, o, [])
  (r.1, { r.2.1 with outs := r.2.2 })

/-- Every chunk of every stream has been sent and acknowledged. -/
def ShOp.sentAll (o : ShOp) (p : ShPart) : Bool :=
  o.outs.all fun t => t.unacked.isEmpty &&
    t.next = chunksOf p.wire (((p.sends.find? fun x => x.1 = t.rank).map Prod.snd).getD [])

/-- The part as far as it goes now: what came is joined, what may go is sent, from inputs that failed too once every one
has come (log 71); whether it has ended. -/
def State.shPart (s : State) (o : ShOp) (p : ShPart) : State × ShOp × Bool :=
  let (s, o) := if !o.merged && o.full p then s.shMerge o p else (s, o)
  let o := if !o.sending && (!p.after || o.merged || o.asRead.full p) then
      { o with sending := true, outs := p.sends.map fun x => { rank := x.1 } } else o
  let (s, o) := if o.sending then s.shMend o p else (s, o)
  let (s, o) := if o.sending then s.shFeed o p else (s, o)
  (s, o, o.merged && o.sending && o.early.isEmpty && o.sentAll p)

/-- A part has ended: finalisation, and the next one begins with a deadline of its own where its step is another. -/
def State.shNext (s : State) (o : ShOp) (p : ShPart) (next : Nat) : ShOp :=
  let (vals, fl) := finRanges o.desc o.vals p.fin
  { o with vals := vals, flags := o.flags ||| fl, stage := o.stage + 1, merged := false, sending := false, outs := []
           early := [], naks := []
           step := max o.step next, since := if next ≤ o.step then o.since else s.now.toNat }

/-- The count exchange has ended (R449): the sum decides. -/
def ShOp.counting (o : ShOp) : Bool := o.req.isNone && lCounted o.desc && o.counts.isEmpty && o.stage = 2

/-- The steps as far as they go now. A paused member ends its step and starts no other (R463). -/
def State.shGo (s : State) (o : ShOp) : Nat → State
  | 0 => s.shSet o
  | n + 1 =>
    if o.counting then
      if o.vals.foldl (· + ·) 0 ≠ lTotal o.desc then s.shEnd o eMismatch 4 0
      else
        let o := { o with counts := o.vals }
        State.shGo s { o with vals := s.shLoad o } n
    else match (s.shParts o)[o.stage]? with
    | none => s.shFinish o
    | some p =>
      if o.paused && o.step < p.step then s.shSet o else
      let o := if o.step < p.step then { o with step := p.step, since := s.now.toNat } else o
      let (s, o, ended) := s.shPart o p
      if ended then State.shGo s (s.shNext o p p.step) n else s.shSet o

/-- Run the steps. -/
def State.shRun (s : State) (o : ShOp) : State := s.shGo o (2 * (s.shParts o).length + 2 * (s.shN o.d) + 80)

/-- GO: the steps start (R448, R460); a poisoned source aborts (R515). A request's steps are those of its pass (R467). -/
def State.shStart (s : State) (o : ShOp) : State :=
  let o := { o with phase := 1, since := s.now.toNat }
  if o.req.isSome then s.shSet o
  else
    let r := s.shMy o.d
    let src := lSrcLen o.desc r * fmtBytes (lSrcFmt o.desc)
    if lOp o.desc ≠ opBarrier && s.poisoned (lSrc o.desc) src then s.shStop o eUncorrectable 2
    else if lCounted o.desc then
      s.shRun { o with vals := (List.replicate (s.shN o.d) 0).set r (lCount o.desc) }
    else s.shRun { o with vals := if lOp o.desc = opBarrier then [] else s.shLoad o }

/-- The lead holds a HELLO for every member (R448): GO, or MISMATCH. -/
def State.shDecide (s : State) (o : ShOp) (bad : Bool) : State :=
  if bad then (s.shCast o.d o.k skMismatch).shEnd o eMismatch 3 0 else (s.shCast o.d o.k skGo).shStart o

/-- HELLOs move up the tree once the children's are here; the root hands its to the lead. -/
def State.shHello (s : State) (o : ShOp) : State :=
  let r := s.shMy o.d
  let kids := treeChildren (s.shNs o.d) r
  let bad := (o.hellos.filter fun h => kids.contains h.1).any Prod.snd
  if o.helloSent || !kids.all (fun c => o.hellos.any fun h => h.1 = c) then s.shSet o else
  let data := leBytes 16 (s.shHash o) ++ leBytes 1 bad.toNat
  let o := { o with helloSent := true }
  match treeParent (s.shNs o.d) r with
  | some p => (s.shSet o).shSend o.d o.k p skHello 0 0 data
  | none => if s.isLead o.d then s.shDecide o bad else (s.shSet o).shSend o.d o.k (s.shLead o.d) skHello 0 0 data

/-- SHEAF_OP_START: the launch at the head of the queue starts when its definition is free and fewer than 16 operations
are active (R447). -/
def State.shOpStart (s : State) (d : Nat) : State :=
  match s.launches with
  | [] => s
  | l :: rest =>
    if l.d ≠ d || 16 ≤ s.ops.length || s.ops.any (fun (o : ShOp) => o.d = d) then s
    else
      let o : ShOp := { f := l.f, d := l.d, k := l.k, desc := l.desc, req := l.req, since := s.now.toNat }
      { s with launches := rest, ops := s.ops ++ [o] }.shHello o

def execSheafOpStart (d : SheafId) (s : State) : Host.Outcome State Fault Refusal :=
  .next (s.shOpStart d)

/-- HELLO: its hash is compared with this member's own (R448). -/
def State.shHelloIn (s : State) (h : ShHead) (hash : Nat) (marked : Bool) : State :=
  match s.shOf h with
  | none => s
  | some o =>
    if o.phase ≠ 0 then s else
    let from_ := s.shRank o.d h.src.toNat
    let bad := marked || hash ≠ s.shHash o
    if s.isLead o.d && s.shMy o.d ≠ 0 && from_ = 0 then s.shDecide o bad
    else if !(treeChildren (s.shNs o.d) (s.shMy o.d)).contains from_ || o.hellos.any (fun x => x.1 = from_) then s
    else s.shHello { o with hellos := o.hellos ++ [(from_, bad)] }

def execHello (h : ShHead) (hash : BitVec 128) (mismatched : Bool) (s : State) : Host.Outcome State Fault Refusal :=
  .next (s.shHelloIn h hash.toNat mismatched)

def execGo (h : ShHead) (s : State) : Host.Outcome State Fault Refusal :=
  .next (match s.shOf h with
    | some o => if o.phase = 0 then s.shStart o else s
    | none => s)

def execMismatch (h : ShHead) (s : State) : Host.Outcome State Fault Refusal :=
  .next (match s.shOf h with
    | some o => if o.phase = 0 then s.shEnd o eMismatch 3 0 else s
    | none => s)

/-! Chunks (R451, R452, R62). -/

/-- The part at or after the present one whose stream from rank `r` in this step is expected. -/
def State.shExpects (s : State) (o : ShOp) (step r : Nat) : Option ShPart :=
  ((s.shParts o).drop o.stage).find? fun p => p.step = step && p.recvs.any fun x => x.1 = r

/-- Whether a chunk is whole: its length, its CRC, no block with Eb = 255. -/
def chunkGood (b : List Byte) (p : ShPart) (n : Nat) (k : ShChunk) : Bool :=
  k.data.length = chunkSize b p.wire n && crc32c k.data = k.crc &&
    (p.wire ≠ 1 || (k.ebs.length = n / 32 && k.ebs.all fun e => e ≠ 255))

/-- Whether a chunk is this one. -/
def isChunk (step r c : Nat) (x : Nat × Nat × Nat × List Nat) : Bool := x.1 = step && x.2.1 = r && x.2.2.1 = c

/-- A chunk whose check failed, with its elements as they were read: CHUNK_NAK, or the second time the end of the
operation. -/
def State.shBad (s : State) (o : ShOp) (step r c : Nat) (xs : List Nat) : State :=
  if o.bad.any (isChunk step r c) then s.shStop o eUncorrectable 2
  else
    let o := { o with bad := o.bad ++ [(step, r, c, xs)] }
    let s := s.shSend o.d o.k r skNak step c
    if o.req.isSome then s.shSet o else s.shRun o

/-- A chunk of a request's keys and values (R467): acknowledged and forwarded round the ring. -/
def State.shKv (s : State) (o : ShOp) (k : ShChunk) : State :=
  let n := s.shN o.d
  let r := s.shMy o.d
  let from_ := s.shRank o.d k.head.src.toNat
  let step := k.step.toNat
  let c := k.chunk.toNat
  if crc32c k.data ≠ k.crc then s.shBad o step from_ c []
  else
    let q := step % (2 * n)
    let owner := if q < n then q else 2 * n - 1 - q
    let s := s.shSend o.d o.k from_ skAck step c
    let s := if (r + 1) % n = owner then s else s.shChunk o.d o.k ((r + 1) % n) step c k.ebs k.data
    s.shSet { o with bad := o.bad.filter (fun x => !isChunk step from_ c x), step := max o.step step
                     since := if o.step < step then s.now.toNat else o.since }

/-- SHEAF_DATA. -/
def State.shData (s : State) (k : ShChunk) : State :=
  match s.shOf k.head with
  | none => s
  | some o =>
    if o.phase ≠ 1 then s
    else if o.req.isSome then s.shKv o k else
    let from_ := s.shRank o.d k.head.src.toNat
    let step := k.step.toNat
    let c := k.chunk.toNat
    match s.shExpects o step from_ with
    | none => s
    | some p =>
      let rs := ((p.recvs.find? fun x => x.1 = from_).map Prod.snd).getD []
      let n := min chunkLen (streamLen p.wire rs - c * chunkLen)
      if chunksOf p.wire rs ≤ c then s
      else if !chunkGood o.desc p n k then
        s.shBad o step from_ c ((chunkVals o.desc p.wire k.ebs k.data ++ List.replicate n 0).take n)
      else
        let s := s.shSend o.d o.k from_ skAck step c
        if (o.got step from_).any (fun x => x.1 = c) then s
        else s.shRun { o with bad := o.bad.filter (fun x => !isChunk step from_ c x)
                              inbox := o.inbox ++ [(step, from_, c, chunkVals o.desc p.wire k.ebs k.data)] }

def execSheafData (k : ShChunk) (s : State) : Host.Outcome State Fault Refusal :=
  .next (s.shData k)

/-- CHUNK_ACK: the chunk leaves staging; its step may end (R460). -/
def State.shAck (s : State) (h : ShHead) (step c : Nat) : State :=
  match s.shOf h with
  | none => s
  | some o =>
    let from_ := s.shRank o.d h.src.toNat
    if o.phase ≠ 1 || o.req.isSome || o.step ≠ step then s
    else s.shRun { o with outs := o.outs.map fun t =>
      if t.rank = from_ then { t with unacked := t.unacked.filter fun (u : Nat × Bool) => u.1 ≠ c } else t }

def execChunkAck (h : ShHead) (step chunk : W16) (s : State) : Host.Outcome State Fault Refusal :=
  .next (s.shAck h step.toNat chunk.toNat)

/-- CHUNK_NAK: the chunk goes once more, or the operation ends; one that refuses an output sent with the complement of its
CRC was expected, and that output goes again with its input (R451). -/
def State.shNak (s : State) (h : ShHead) (step c : Nat) : State :=
  match s.shOf h with
  | none => s
  | some o =>
    let from_ := s.shRank o.d h.src.toNat
    if o.phase ≠ 1 || o.req.isSome || o.step ≠ step then s
    else if o.naks.contains (from_, c) then s.shSet { o with naks := o.naks.erase (from_, c) } else
    match (o.outs.find? fun t => t.rank = from_).bind fun t => t.unacked.find? fun u => u.1 = c, (s.shParts o)[o.stage]? with
    | some (_, true), _ => s.shStop o eUncorrectable 2
    | some (_, false), some p =>
      let (s, _) := s.shSendChunk o p from_ c
      (s.bump .SHEAF_STAT SHEAF_STAT.RESENDS).shSet (o.resent from_ c)
    | _, _ => s

def execChunkNak (h : ShHead) (step chunk : W16) (s : State) : Host.Outcome State Fault Refusal :=
  .next (s.shNak h step.toNat chunk.toNat)

/-- Chunks refused with CAPACITY_DEGRADED go again from staging, on the route of now (R464). -/
def State.shReissue (s : State) (o : ShOp) : State :=
  match (s.shParts o)[o.stage]? with
  | some p => o.outs.foldl (fun s (t : ShOut) =>
      t.unacked.foldl (fun s (u : Nat × Bool) => (s.shSendChunk o p t.rank u.1).1) s) s
  | none => s

/-- FABRIC_NAK: of a SHEAF packet, or of a tagged request. -/
def State.nakIn (s : State) (k : Pkt) : State :=
  if k.tag.toNat = shTag && s.forMe k pkNak then
    match s.ops.find? fun (o : ShOp) => o.d = k.ctx.toNat with
    | some o => if k.aux.toNat % 256 = eCapacityDegraded && o.req.isNone then s.shReissue o else s
    | none => s
  else s.fabricNak k

def execFabricNak (pkt : Pkt) (s : State) : Host.Outcome State Fault Refusal :=
  if pkt.wf then .next (s.nakIn pkt) else .fault .illFormed

/-! The outcome (R461, R462). -/

/-- SHEAF_DONE: the subtree's flags and members join. -/
def State.shDoneIn (s : State) (h : ShHead) (flags : Flags) (n : Nat) : State :=
  match s.shOf h with
  | none => s
  | some o =>
    let from_ := s.shRank o.d h.src.toNat
    let fl := o.flags ||| flags
    if s.isLead o.d && s.shMy o.d ≠ 0 && from_ = 0 then
      if n < s.shN o.d then s else (s.shCast o.d o.k skCommit (leBytes 1 fl.toNat)).shEnd o eOk 0 fl.toNat
    else if o.dones.any fun x => x.1 = from_ then s
    else s.shDone { o with flags := fl, dones := o.dones ++ [(from_, n)] }

def execSheafDone (h : ShHead) (flags : BitVec 4) (members : Nat) (s : State) : Host.Outcome State Fault Refusal :=
  .next (s.shDoneIn h flags members)

def execSheafCommit (h : ShHead) (flags : BitVec 4) (s : State) : Host.Outcome State Fault Refusal :=
  .next (match s.shOf h with
    | some o => s.shEnd o eOk 0 flags.toNat
    | none => s)

/-- SHEAF_ABORT: at the lead it goes on to every member; here the operation ends with its code. -/
def State.shAbortIn (s : State) (h : ShHead) (code reason : Byte) : State :=
  match s.shOf h with
  | none => s
  | some o =>
    let s := if s.isLead o.d then s.shCast o.d o.k skAbort [code, reason] else s
    s.shEnd o code.toNat 1 0

def execSheafAbort (h : ShHead) (code reason : Byte) (s : State) : Host.Outcome State Fault Refusal :=
  .next (s.shAbortIn h code reason)

/-- The time a step, and the wait after DONE, may take (R461, R462): 100 ms. -/
def shLimit : Nat := 100000000

/-- STEP_DEADLINE. -/
def execStepDeadline (d : SheafId) (s : State) : Host.Outcome State Fault Refusal :=
  .next (match s.ops.find? fun (o : ShOp) => o.d = d.val with
    | some o => if o.phase < 2 && !o.paused && o.since + shLimit ≤ s.now.toNat then s.shStop o eSheafAbort 0 else s
    | none => s)

/-- DONE_TIMEOUT: no outcome within 100 ms of sending DONE; like a deadline it does not run while paused (R462, R463). -/
def execDoneTimeout (d : SheafId) (s : State) : Host.Outcome State Fault Refusal :=
  .next (match s.ops.find? fun (o : ShOp) => o.d = d.val with
    | some o => if o.phase = 3 && !o.paused && o.since + shLimit ≤ s.now.toNat then s.shEnd o eSheafAbort 0 0 else s
    | none => s)

/-! Pauses (R463). -/

/-- A member asks the lead to pause: the lead broadcasts PAUSE on the first request. -/
def State.shPauseBy (s : State) (o : ShOp) (r : Nat) : State :=
  let first := o.pausers.isEmpty
  let s := s.shSet { o with pausers := addOnce r o.pausers, paused := true }
  if first then s.shCast o.d o.k skPause else s

def execPauseReq (h : ShHead) (s : State) : Host.Outcome State Fault Refusal :=
  .next (match s.shOf h with
    | some o => if s.isLead o.d then s.shPauseBy o (s.shRank o.d h.src.toNat) else s
    | none => s)

def execSheafPause (h : ShHead) (s : State) : Host.Outcome State Fault Refusal :=
  .next (match s.shOf h with
    | some o => s.shSet { o with paused := true }
    | none => s)

/-- RESUME: the next step's deadline starts here. -/
def State.shResume (s : State) (o : ShOp) : State :=
  let o := { o with paused := false, pausers := [], resumers := [], since := s.now.toNat }
  if o.phase = 1 && o.req.isNone then s.shRun o else s.shSet o

/-- A member that asked for the pause asks to resume: the lead broadcasts RESUME when every such member has. -/
def State.shResumeBy (s : State) (o : ShOp) (r : Nat) : State :=
  if !o.pausers.contains r then s else
  let o := { o with resumers := addOnce r o.resumers }
  if o.pausers.all fun q => o.resumers.contains q then (s.shCast o.d o.k skResume).shResume o else s.shSet o

def execResumeReq (h : ShHead) (s : State) : Host.Outcome State Fault Refusal :=
  .next (match s.shOf h with
    | some o => if s.isLead o.d then s.shResumeBy o (s.shRank o.d h.src.toNat) else s
    | none => s)

def execSheafResume (h : ShHead) (s : State) : Host.Outcome State Fault Refusal :=
  .next (match s.shOf h with
    | some o => if o.paused then s.shResume o else s
    | none => s)

/-! What requests, kills and function resets do to operations. -/

/-- The operation of the request in entry `i`. -/
def State.shReq (s : State) (i : Nat) : Option ShOp := s.ops.find? fun (o : ShOp) => o.req = some i

/-- Reeve asks for the pause, and later for the resume, of a member's operation. -/
def State.shReqPause (s : State) (i : Nat) : State :=
  match s.shReq i with
  | some o => if s.isLead o.d then s.shPauseBy o (s.shMy o.d) else s.shSend o.d o.k (s.shLead o.d) skPauseReq 0 0
  | none => s
def State.shReqResume (s : State) (i : Nat) : State :=
  match s.shReq i with
  | some o => if s.isLead o.d then s.shResumeBy o (s.shMy o.d) else s.shSend o.d o.k (s.shLead o.d) skResumeReq 0 0
  | none => s

/-- A member's request ends while its operation is paused: ABORT to the lead (R469). -/
def State.shReqEnd (s : State) (i : Nat) : State :=
  match s.shReq i with
  | some o => if o.paused then
      let data := leBytes 1 eSheafAbort ++ leBytes 1 5
      let s := if s.isLead o.d then s.shCast o.d o.k skAbort data else s.shSend o.d o.k (s.shLead o.d) skAbort 0 0 data
      ((s.bump .SHEAF_STAT SHEAF_STAT.ABORTS).shLast o eSheafAbort 5).shDrop o
    else s
  | none => s

/-- A request's pass has ended: the member is done (R467). -/
def State.shReqDone (s : State) (i : Nat) : State :=
  match s.shReq i with
  | some o => s.shDone { o with phase := 2, since := s.now.toNat }
  | none => s

/-- Whether a request's operation lets its pass start (R465). -/
def State.shReady (s : State) (i : Nat) : Bool :=
  match s.shReq i with
  | some o => o.phase = 1 && !o.paused
  | none => false

/-- A kill of the Vats of partition `p` (R464, R469): its operations stop without a message, queued launches complete. -/
def State.shKill (s : State) (p : Nat) : State :=
  let mine := fun (b : List Byte) (r : Option Nat) => r.isNone && s.part (lVat b) = p
  let s := (s.ops.filter fun (o : ShOp) => mine o.desc o.req).foldl (fun s o => s.shDrop o) s
  let ls := s.launches.filter fun (l : Launch) => mine l.desc l.req
  let s := { s with launches := s.launches.filter fun (l : Launch) => !mine l.desc l.req }
  ls.foldl (fun s l => (s.release (.stage l.d l.k)).shWord l.f (lCpl l.desc) eSheafAbort 0) s

/-- A reset of function `f` (R578): queued launches are dropped, active operations end as those of a paused member. -/
def State.shReset (s : State) (f : Nat) : State :=
  let s := (s.launches.filter fun (l : Launch) => l.f = f && l.req.isNone).foldl (fun s l => s.release (.stage l.d l.k)) s
  let s := { s with launches := s.launches.filter fun (l : Launch) => !(l.f = f && l.req.isNone)
                    shWin := Tab.clear (8 * f) (8 * f + 8) s.shWin }
  (s.ops.filter fun (o : ShOp) => o.f = f && o.req.isNone).foldl (fun s o =>
    let data := leBytes 1 eSheafAbort ++ leBytes 1 5
    let s := if s.isLead o.d then s.shCast o.d o.k skAbort data else s.shSend o.d o.k (s.shLead o.d) skAbort 0 0 data
    ((s.bump .SHEAF_STAT SHEAF_STAT.ABORTS).shLast o eSheafAbort 5).shDrop o) s

end Sys2Proof.Machine
end

