-- ==== Sys2Proof/Machine/Rings.lean ====
section
/-! DEFINITION. Submission rings and doorbells (R278-R281), admission (R282, R283, R301, R379, R465), cancel, pause and
resume (R294-R299), the host tier (R351-R353). -/

namespace Sys2Proof.Machine

/-! Rings (R278-R281). -/

def State.ring (s : State) (f : Nat) : Ring := Tab.get (fun _ => {}) s.rings f

/-- Set a ring's indices; REEVE_RING_PTR shows them modulo 2^16 (R315). -/
def State.setRing (s : State) (f : Nat) (r : Ring) : State :=
  let s := { s with rings := Tab.set (fun _ => {}) s.rings f r }
  (s.put (.REEVE_RING_PTR f) REEVE_RING_PTR.PROD r.bell).put (.REEVE_RING_PTR f) REEVE_RING_PTR.CONS r.cons

/-- Function `f` exists (R569), and the host island serves it (R518). -/
def State.funcOn (s : State) (f : Nat) : Bool := (f = 0 || (s.vfEnable && f ≤ s.numVfs)) && !s.isOut 3

/-- Whether a request needs a unit without spares (R518, log 135): a destination or a Sheaf needs the Thresher core, a destination
KVX, PREFIX the prefix store; every request needs the host, the register bus and the always-on island. -/
def ReqX.needs (x : ReqX) : Nat → Bool
  | 0 => x.dest.isSome || x.sheaf.isSome
  | 1 => x.dest.isSome
  | 2 => x.prefix_
  | _ => true

/-- Whether a request needs a unit that is out of service. -/
def State.lacks (s : State) (x : ReqX) : Bool := (List.range 6).any fun u => s.isOut u && x.needs u

def State.ringOn (s : State) (f : Nat) : Bool :=
  s.funcOn f && s.get (.REEVE_RING_CFG f) REEVE_RING_CFG.ENABLE = 1 && s.get (.REEVE_RING_PTR f) REEVE_RING_PTR.FAULT = 0

def State.ringSizeOf (s : State) (f : Nat) : Nat := 2 ^ s.get (.REEVE_RING_CFG f) REEVE_RING_CFG.SIZE_LOG2

/-- The function whose turn it is: the next after the one served last whose ring has an entry (R280). -/
def State.ringNext (s : State) : Option Nat :=
  ((List.range 64).map fun k => (s.ringTurn + 1 + k) % 64).find? fun f => s.ringOn f && (s.ring f).cons ≠ (s.ring f).prod

/-- The ring doorbell (R279), which interrupts Reeve (R305): PROD shows its value whatever becomes of it (R315), unless the ring is off or stopped. -/
def State.ringBell (s : State) (f val : Nat) : State :=
  if !s.ringOn f then s else
  let s := s.emit (.reeveIrq clsHost f)
  let r : Ring := { s.ring f with bell := val }
  let ahead := (val + 2 ^ 32 - r.cons) % 2 ^ 32
  if ahead = 0 || 2 ^ 31 ≤ ahead then s.setRing f r
  else if s.ringSizeOf f < ahead then
    ((s.setRing f r).put (.REEVE_RING_PTR f) REEVE_RING_PTR.FAULT 1).log
      { code := eQueueFull, cls := clsHost, verdict := 0, unit := f, sub := val }
  else s.setRing f { r with prod := val }

/-- DOORBELL: a write to the function's BAR4 page (R575, R443); during a core reset it is discarded (R495). -/
def State.doorbell (s : State) (f off size : Nat) (val : W32) : State :=
  if !s.funcOn f || s.phase = 7 then s
  else if off < 4 then
    if off = 0 && size = 4 then s.ringBell f val.toNat
    else s.log { code := eIllegalOp, cls := clsHost, verdict := 0, unit := f, sub := off }
  else if 0x100 ≤ off && off < 0x140 && size = 4 && off % 4 = 0 then
    let k := 8 * f + (off - 0x100) / 8
    let w := Tab.get (fun _ => 0) s.shWin k
    let w : W64 := if off % 8 = 0 then (w &&& 0xFFFFFFFF00000000) ||| val.zeroExtend 64
      else (w &&& 0xFFFFFFFF) ||| (val.zeroExtend 64 <<< 32)
    { s with shWin := Tab.set (fun _ => 0) s.shWin k w }
  else if 0x800 ≤ off && off + size ≤ 0x820 then
    { s with msixTab := Tab.setAll zeroByte s.msixTab (32 * f + off - 0x800) ((leBytes 4 val.toNat).take size) }
  else s

def execDoorbell (f : FuncId) (off : BitVec 12) (size : Nat) (val : W32) (s : State) : Host.Outcome State Fault Refusal :=
  .next (s.doorbell f off.toNat size val)

/-- ENABLE of a ring set or cleared: both indices start at 0 with FAULT clear (R279, R314). -/
def State.ringRestart (s : State) (f : Nat) : State :=
  (s.setRing f {}).put (.REEVE_RING_PTR f) REEVE_RING_PTR.FAULT 0

/-- The entry at the head of a ring, where one waits and it is its turn; reading it advances CONS (R280). -/
def State.ringTake (s : State) (f : Nat) : Option (List Byte × State) :=
  let r := s.ring f
  if !s.ringOn f || r.cons = r.prod || s.ringNext ≠ some f then none
  else
    let a := s.get (.REEVE_RING_BASE f) REEVE_RING_BASE.BASE * 4096 + r.cons % s.ringSizeOf f * 128
    let (b, s) := s.hostIn a 128
    some (b, { s with ringTurn := f }.setRing f { r with cons := (r.cons + 1) % 2 ^ 32 })

/-- Take the head entry if it is of this KIND. -/
def State.ringKind (s : State) (f : Nat) (ok : Nat → Bool) (g : State → List Byte → State) : State :=
  match s.ringTake f with
  | some (b, t) => if ok (dfield b 0 1) then g t b else s
  | none => s

def execRingNop (f : FuncId) (s : State) : Host.Outcome State Fault Refusal :=
  .next (s.ringKind f (fun k => k = 0) fun t _ => t)

/-- An entry of any other KIND is skipped and logged (R281). -/
def execRingEntrySkipped (f : FuncId) (s : State) : Host.Outcome State Fault Refusal :=
  .next (s.ringKind f (fun k => 4 < k) fun t b =>
    t.log { code := eIllegalOp, cls := clsReq, verdict := 0, unit := f, sub := dfield b 0 1 })

/-! Admission (R283, R301, R379, R465). -/

/-- The partitions function `f` may name (R314). -/
def State.partsOf (s : State) (f : Nat) : List Nat :=
  (List.range 16).filter fun p => s.get (.REEVE_RING_CFG f) REEVE_RING_CFG.PARTS / 2 ^ p % 2 = 1

def State.groupOf (s : State) (p : Nat) : Nat := s.get (.REEVE_PART_LAYOUT p) REEVE_PART_LAYOUT.GROUP

/-- PART names any partition, or one (R282). -/
def ReqX.any (x : ReqX) : Bool := x.fld 3 1 / 128 = 1
def ReqX.named (x : ReqX) : Nat := x.fld 3 1 % 16

/-- The partitions a request may run on. -/
def State.eligible (s : State) (x : ReqX) : List Nat := if x.any then s.partsOf x.func else [x.named]

/-- Bytes of one position's cache (R317): K and V of every layer and head. -/
def Geom.posBytes (g : Geom) : Nat := g.layers * g.heads * 2 * 2 * g.hd

/-- Bytes of the KV regions of a partition (R488). -/
def State.kvBytes (s : State) (p : Nat) : Nat :=
  ((s.regionsOf p).filter fun (r : Region) => r.kind = 1).foldl (fun n r => n + r.size) 0

/-- C of R466: the chunk of a Sheaf of `n` members. -/
def shareChunk (len n : Nat) : Nat := ((len + 2 * n - 1) / (2 * n) + 255) / 256 * 256

/-- The positions a Sheaf member owns, as ranges in order (R466). -/
def shareOf (len n m : Nat) : List (Nat × Nat) :=
  let c := shareChunk len n
  ([m, 2 * n - 1 - m].map fun q => (min (q * c) len, min ((q + 1) * c) len - min (q * c) len)).filter fun r => 0 < r.2

/-- Prompt positions whose cache this module holds: its share in a Sheaf (R466), else all. -/
def State.shareLen (s : State) (x : ReqX) : Nat :=
  match x.sheaf with
  | some d => ((shareOf x.promptLen (s.shN d) x.member).map Prod.snd).foldl (· + ·) 0
  | none => x.promptLen

/-- TEMP and TOPP (R379). -/
def tempOk (t : W32) : Bool :=
  match f32 t with
  | .fin neg m _ => !neg || m = 0
  | _ => false
def toppOk (t : W32) : Bool := (f32 t).isFin && (FpV.fin false 0 0).lt (f32 t) && !(f32 f32One).lt (f32 t)

/-- FORMAT_INVALID. -/
def State.subFormat (s : State) (x : ReqX) : Bool :=
  let p := x.promptLen
  let reserved := 32 ≤ x.fld 1 1 || 4 ≤ x.fld 2 1 || x.fld 3 1 / 16 % 8 ≠ 0 || x.fld 39 1 ≠ 0 ||
    (x.desc.drop 80).any fun b => b ≠ 0
  let range := p = 0 || 2097152 < p || 127 < x.variant || x.emit = 0 || 256 < x.emit || 4095 < x.budget ||
    x.dest.any (fun d => 4095 < d) || x.sheaf.any (fun d => 1023 < d) || 64 < x.topk || 2 < x.maskKind ||
    (x.maskKind = 2 && 255 < x.grammar)
  let align := x.fld 16 8 % 4 ≠ 0 || x.resultAddr % 64 ≠ 0 || (x.maskKind = 1 && x.fld 72 8 % 64 ≠ 0)
  let taken := s.liveReqs.any fun i => (s.req i).func = x.func && (s.req i).tag = x.tag
  let long := 65535 < p && x.sheaf.isNone
  let there := (s.eligible x).filter fun q => (s.partSec q).isSome
  let fits := there.isEmpty || there.any fun q => s.shareLen x * s.geom.posBytes ≤ s.kvBytes q
  let sampling := !tempOk x.temp || !toppOk x.topp ||
    (x.maskKind = 2 && s.get (.REEVE_GRAM_CFG x.grammar) REEVE_GRAM_CFG.NSTATE ≤ x.fld 60 4)
  let share := match x.sheaf with
    | none => false
    | some d =>
      (s.liveReqs.any fun i => (s.req i).sheaf = some d && (s.req i).tag % 2 ^ 15 = x.tag % 2 ^ 15) ||
        !(s.eligible x).any fun q => 2 * shareChunk p (s.shN d) ≤ s.get (.REEVE_PART_CFG q) REEVE_PART_CFG.PASS_TOKENS
  reserved || range || align || taken || long || !fits || sampling || share

/-- LAYOUT_INVALID. -/
def State.subLayout (s : State) (x : ReqX) : Bool :=
  let f := x.func
  let parts := s.partsOf f
  let part := if x.any then parts.isEmpty else !parts.contains x.named
  let variant := s.get (.REEVE_VARIANT_CFG x.variant) REEVE_VARIANT_CFG.VALID = 0 ||
    s.get (.REEVE_VARIANT_FUNCS x.variant) REEVE_VARIANT_FUNCS.FUNCS / 2 ^ f % 2 = 0 ||
    (x.spec && s.get (.REEVE_VARIANT_CFG x.variant) REEVE_VARIANT_CFG.DRAFT = 0)
  let dest := match x.dest with
    | none => false
    | some d => s.get (.KVX_DEST_CFG d) KVX_DEST_CFG.ENABLE = 0 || s.get (.KVX_DEST_CFG d) KVX_DEST_CFG.OWNER ≠ f
  let gram := x.maskKind = 2 && (s.get (.REEVE_GRAM_CFG x.grammar) REEVE_GRAM_CFG.ENABLE = 0 ||
    (s.get (.REEVE_GRAM_CFG x.grammar) REEVE_GRAM_CFG.SHARED = 0 && s.get (.REEVE_GRAM_CFG x.grammar) REEVE_GRAM_CFG.OWNER ≠ f))
  let sheaf := match x.sheaf with
    | none => false
    | some d => s.get (.SHEAF_DEF_A d) SHEAF_DEF_A.VALID = 0 || !s.shMember d s.me || 64 < s.shN d || x.member ≠ s.shMy d
  let base := s.get (.REEVE_RING_CFG f) REEVE_RING_CFG.BUDGET_BASE
  let budget := x.budget < base || base + s.get (.REEVE_RING_CFG f) REEVE_RING_CFG.BUDGET_COUNT ≤ x.budget
  part || variant || dest || gram || sheaf || budget

/-- The balance of a counter (R300): a signed 48-bit number. -/
def State.balance (s : State) (i : Nat) : Int :=
  let b := s.get (.REEVE_BUDGET_BAL i) REEVE_BUDGET_BAL.BALANCE
  if b < 2 ^ 47 then b else (b : Int) - 2 ^ 48
def State.setBalance (s : State) (i : Nat) (b : Int) : State :=
  s.put (.REEVE_BUDGET_BAL i) REEVE_BUDGET_BAL.BALANCE (b % 2 ^ 48).toNat

/-- Partitions of a group with a Vat in service (R516). -/
def State.groupParts (s : State) (g : Nat) : List Nat :=
  (List.range 16).filter fun p => (s.partSec p).isSome && s.groupOf p = g && !(s.vatsOf p).isEmpty

/-- The first failing check of R283; a group with no partition left refuses with CAPACITY_DEGRADED (R516),
a unit out of service that it needs with UNCORRECTABLE (R518). -/
def State.subErr (s : State) (x : ReqX) : Nat :=
  if s.subFormat x then eFormatInvalid
  else if s.subLayout x then eLayoutInvalid
  else if s.get .ERR_DEGRADED ERR_DEGRADED.MODULE_DOWN = 1 ||
      (s.groupParts (s.groupOf ((s.eligible x).headD 0))).isEmpty then eCapacityDegraded
  else if s.balance x.budget < 0 then eBudgetExhausted
  else if 4096 ≤ s.liveReqs.length then eQueueFull
  else if s.lacks x then eUncorrectable
  else eOk

/-- The entry a new request takes (R284): the final one of its TAG, an unused one, or the one finished longest ago. -/
def State.freeEntry (s : State) (f tag : Nat) : Nat :=
  match s.reqs.find? fun (p : Nat × ReqX) => p.2.final && p.2.func = f && p.2.tag = tag with
  | some p => p.1
  | none =>
    match (List.range 4096).find? fun i => !(s.req i).used with
    | some i => i
    | none =>
      let fs := s.reqs.filter fun (p : Nat × ReqX) => p.2.final
      (fs.foldl (fun (best : Option (Nat × Nat)) p => match best with
        | some b => if p.2.finish < b.2 then some (p.1, p.2.finish) else best
        | none => some (p.1, p.2.finish)) none |>.map Prod.fst).getD 0

/-- At admission PFX looks up the prompt's blocks (R347). -/
def State.admitHits (s : State) (x : ReqX) : List Nat × State :=
  if x.prefix_ then
    s.pfxLookup x.group (s.tenantOf x.func) x.variant x.prompt ((x.promptLen - 1) / 64) 0 (List.replicate 16 0) peNone
  else ([], s)

/-- A checked request enters the table, QUEUED. -/
def State.admitReq (s : State) (x : ReqX) : State :=
  let i := s.freeEntry x.func x.tag
  let old := s.req i
  let (pr, s) := s.hostIn (x.fld 16 8) (4 * x.promptLen)
  let (bitmap, s) := if x.maskKind = 1 then s.hostIn (x.fld 72 8) ((s.get .REEVE_MODEL REEVE_MODEL.VOCAB + 7) / 8) else ([], s)
  let x : ReqX := { x with
    used := true, gen := if old.used then (old.gen + 1) % 2 ^ 14 else old.gen
    prio := min (x.fld 2 1) (s.get (.REEVE_RING_CFG x.func) REEVE_RING_CFG.PRIO_MAX)
    arrive := s.order, queuedAt := s.now.toNat, part := 16, group := s.groupOf ((s.eligible x).headD 0)
    prompt := (groupsOf 4 x.promptLen pr).map leNat, mask := bitmap, gstate := if x.maskKind = 2 then x.fld 60 4 else 0 }
  let (hits, s) := s.admitHits x
  let s : State := { s with order := s.order + 1 }
  let s := s.setReq i { x with hits := hits }
  let s := match x.sheaf with
    | some d =>
      let l : Launch := { f := x.func, d := d, k := 2 ^ 15 + x.tag % 2 ^ 15, req := some i }
      { s with launches := s.launches ++ [l] }
    | none => s
  (s.perfs puGlb 0x08 [0] 1).setSt i qsQueued eOk

/-- SUBMIT (R283): a refused request is written once as FAILED. -/
def State.submit (s : State) (f : Nat) (b : List Byte) : State :=
  let x : ReqX := { func := f, desc := b }
  if x.statusAddr % 8 ≠ 0 then
    s.log { code := eFormatInvalid, cls := clsReq, verdict := 0, unit := f, sub := x.tag }
  else
    let e := s.subErr x
    if e = eOk then s.admitReq x
    else
      let s := s.hostOut x.statusAddr (leBytes 8 ({ x with st := qsFailed, err := e } : ReqX).word)
      if x.notify then s.raiseMsi f 0 else s

def execSubmit (f : FuncId) (s : State) : Host.Outcome State Fault Refusal :=
  .next (s.ringKind f (fun k => k = 1) fun t b => t.submit f b)

/-! Commands on a request (R281, R294-R299). -/

/-- The entry of a function's TAG: the live one, or the final one it still holds. -/
def State.findTag (s : State) (f tag : Nat) : Option Nat :=
  let mine := s.reqs.filter fun (p : Nat × ReqX) => p.2.used && p.2.func = f && p.2.tag = tag
  match mine.find? fun p => p.2.live with
  | some p => some p.1
  | none => (mine.head?).map Prod.fst

/-- A command of a ring entry: found by TAG, answered in its completion word; a misaligned one is logged and dropped. -/
def State.command (s : State) (f : Nat) (b : List Byte) (g : State → Nat → Nat → State) : State :=
  let cpl := dfield b 8 8
  if cpl % 8 ≠ 0 then s.log { code := eFormatInvalid, cls := clsReq, verdict := 0, unit := f, sub := dfield b 4 4 }
  else match s.findTag f (dfield b 4 4) with
    | some i => g s i cpl
    | none => s.complete cpl 15 eFormatInvalid

/-- The pass a request is in. -/
def State.passOf (s : State) (i : Nat) : Option Pass := s.passes.find? fun (p : Pass) => p.members.any fun m => m.1 = i
def State.setPass (s : State) (p : Pass) : State := { s with passes := s.passes.map fun q => if q.seq = p.seq then p else q }

/-- Stop the contexts of a partition's Vats by ABORT (R294), or ask them to pause (R296). -/
def State.abortPart (s : State) (p : Nat) : State :=
  (s.vatsOf p).foldl (fun s v => [0, 1, 2, 3].foldl (fun s c => if ctxMayAbort (s.cst v c) then s.ctxAbort v c else s) s) s
def State.pausePart (s : State) (p : Nat) : State :=
  (s.vatsOf p).foldl (fun s v => [0, 1, 2, 3].foldl (fun s c => if ctxMayPause (s.cst v c) then s.ctxPause v c else s) s) s

/-- The tail step of request `i` is all that its partition runs. -/
def State.stepAlone (s : State) (i p : Nat) : Bool :=
  (s.liveReqs.all fun j => j = i || ((s.req j).step.map TailStep.part) ≠ some p) && s.passes.all fun q => q.part ≠ p || q.paused

/-- CANCEL takes the lock (R294, R295): Vats that compute this request alone stop. -/
def State.cancelReq (s : State) (i : Nat) : State × Nat :=
  let x := s.req i
  let s := if x.live && x.st ≠ qsExporting then
      let s := s.shReqEnd i
      let s := match s.passOf i with
        | some p => if p.members.length = 1 && !p.paused then s.abortPart p.part else s
        | none => s
      match x.step with
      | some t => if s.stepAlone i t.part then s.abortPart t.part else s
      | none => s
    else s
  s.reqCancel i

def execCancel (f : FuncId) (s : State) : Host.Outcome State Fault Refusal :=
  .next (s.ringKind f (fun k => k = 2) fun t b => t.command f b fun t i cpl =>
    let (t, e) := t.cancelReq i
    t.complete cpl (t.req i).st e)

/-! Pauses (R296, R297). -/

/-- A pause of a request is asked for: its Sheaf pauses at the end of its step, which then stops the Vats; its solo pass is
told to stop; the Vats of a tail step of its own give it up (R391). -/
def State.wantPause (s : State) (i : Nat) (w : Want) : State :=
  let s := (s.setReq i { s.req i with want := some w }).shReqPause i
  let s := match s.passOf i with
    | some p => if p.members.length ≠ 1 || p.paused then s
        else if (s.shReq i).isSome then s.setPass { p with want := true }
        else (s.setPass { p with want := true }).pausePart p.part
    | none => s
  match (s.req i).step with
  | some t => if s.stepAlone i t.part then s.abortPart t.part else s
  | none => s

def State.pauseReq (s : State) (i cpl : Nat) : State :=
  let x := s.req i
  if x.st = qsPaused then s.complete cpl x.st ePaused
  else if qsExporting ≤ x.st then s.complete cpl x.st eCfgLocked
  else if x.want.isSome then s.complete cpl x.st ePaused
  else s.wantPause i { cpl := some cpl }

def execPause (f : FuncId) (s : State) : Host.Outcome State Fault Refusal :=
  .next (s.ringKind f (fun k => k = 3) fun t b => t.command f b fun t i cpl => t.pauseReq i cpl)

/-- No context of a partition is at work. -/
def State.partStill (s : State) (p : Nat) : Bool :=
  (s.vatsOf p).all fun v => [0, 1, 2, 3].all fun c => !ctxMayPause (s.cst v c)

/-- The pairs of a table with keys in `[lo, hi)`, keyed from `lo`. -/
def cutTab {α : Type} (lo hi : Nat) (t : Tab α) : Tab α :=
  (t.filter fun p => lo ≤ p.1 && p.1 < hi).map fun p => (p.1 - lo, p.2)

/-- Save a Vat (R296): its contexts' registers and generators, its Curd buffer, its Cellar rows. -/
def State.saveVat (s : State) (v : Nat) : VSave :=
  let lo := rowAddr v 0
  let hi := rowAddr v rowsPerCellar
  { regs := cutTab (Reg.VAT_CTX_CTRL v 0).off (Reg.VAT_SEM_FULL v 0).off s.regs
    curd := cutTab (v * 0x100000) ((v + 1) * 0x100000) s.curd
    rows := cutTab lo hi s.mem
    poison := cutTab (lo / 64) (hi / 64) s.poison }

/-- Put a saved Vat back (R299). -/
def State.loadVat (s : State) (v : Nat) (x : VSave) : State :=
  let lo := rowAddr v 0
  let hi := rowAddr v rowsPerCellar
  let r0 := (Reg.VAT_CTX_CTRL v 0).off
  let r1 := (Reg.VAT_SEM_FULL v 0).off
  let s := s.resetRegs r0 r1
  let s := { s with
    regs := x.regs.foldl (fun t p => Tab.set regReset t (r0 + p.1) p.2) s.regs
    live := x.regs.foldl (fun t p => Tab.set regReset t (r0 + p.1) p.2) s.live
    curd := x.curd.foldl (fun t p => Tab.set zero32 t (v * 0x100000 + p.1) p.2) (Tab.clear (v * 0x100000) ((v + 1) * 0x100000) s.curd)
    mem := x.rows.foldl (fun t p => Tab.set zeroByte t (lo + p.1) p.2) (Tab.clear lo hi s.mem)
    poison := x.poison.foldl (fun t p => Tab.set noBit t (lo / 64 + p.1) p.2) (Tab.clear (lo / 64) (hi / 64) s.poison) }
  let rows := (x.rows.map fun p => p.1 / 512).eraseDups
  let s := rows.foldl (fun s r =>
    let d := s.dirtyOf v (bankOf r)
    if d.all && !d.clean.contains r then s.setDirty v (bankOf r) { d with clean := r :: d.clean } else s) s
  [0, 1, 2, 3].foldl (fun s c => if s.cst v c = csPaused then s.setCst v c csReady else s) s

/-! The save area (R284, R296): the layout of its bytes is the model's own (log 130). -/

/-- A table as bytes: each key in 8, each value by `f`. -/
def tabBytes {α : Type} (f : α → List Byte) (t : Tab α) : List Byte := t.flatMap fun p => leBytes 8 p.1 ++ f p.2

def VSave.bytes (x : VSave) : List Byte :=
  tabBytes (fun w : W64 => leBytes 8 w.toNat) x.regs ++ tabBytes (fun w : W32 => leBytes 4 w.toNat) x.curd ++
    tabBytes (fun b : Byte => [b]) x.rows

/-- The save areas in use, as address and bytes. -/
def State.areas (s : State) : List (Nat × Nat) := (s.reqs.filterMap fun (p : Nat × ReqX) => p.2.save).eraseDups

/-- First fit of `n` bytes in the save-area regions of a partition: their starts, or the ends of areas in use. -/
def State.areaFor (s : State) (p n : Nat) : Option Nat :=
  let rs := (s.regionsOf p).filter fun (r : Region) => r.kind = 2
  ((rs.map fun (r : Region) => r.base) ++ s.areas.map fun (a : Nat × Nat) => (a.1 + a.2 + 63) / 64 * 64).find? fun a =>
    inRegion rs a n && s.areas.all fun b => a + n ≤ b.1 || b.1 + b.2 ≤ a

/-- Save bytes for the members of a pass of partition `p`. -/
def State.saveOut (s : State) (p : Nat) (is : List Nat) (bs : List Byte) : State :=
  match s.areaFor p bs.length with
  | some a => is.foldl (fun (s : State) i => s.setReq i { s.req i with save := some (a, bs.length) }) (s.store a bs)
  | none => s

/-- The request enters PAUSED (R288, R289), its tail step abandoned (R391), and the completion word is written. -/
def State.enterPaused (s : State) (i : Nat) : State :=
  let x := s.req i
  let reeve := x.want = some { cpl := none }
  let s := s.setReq i { x with want := none, from_ := x.st, since := s.now.toNat, step := none }
  let s := s.setSt i qsPaused (if reeve then ePaused else eOk)
  match x.want with
  | some { cpl := some a } => if x.mute then s else s.complete a qsPaused eOk
  | _ => s

/-- Whether the pause of a request can take effect: not while a host pause waits for its pack to commit (R297), nor while
its contexts, or its Sheaf's step, still run. -/
def State.mayPause (s : State) (i : Nat) : Bool :=
  let x := s.req i
  x.want.isSome && x.live && x.st ≤ qsTail &&
    (match s.shReq i with
      | some o => o.paused
      | none => true) &&
    match s.passOf i, x.step with
    | some p, _ => p.paused || (p.want && s.partStill p.part)
    | none, some t => !s.stepAlone i t.part || s.partStill t.part
    | none, none => true

/-- A Sheaf member's operation has paused at the end of its ring step (R297) and its Vats have not been asked to stop. -/
def State.sheafStops (s : State) (i : Nat) : Option Nat :=
  match s.shReq i, s.passOf i with
  | some o, some p => if o.paused && p.want && !p.paused && !s.partStill p.part then some p.part else none
  | _, _ => none

/-- PAUSE_EFFECT: a pass is saved and its members pause as a unit (R296, R298). A Sheaf member's Vats are asked to stop once
its operation has paused. -/
def State.reqPaused (s : State) (i : Nat) : State :=
  if let some p := s.sheafStops i then s.pausePart p else
  if !s.mayPause i then s else
  match s.passOf i with
  | some p =>
    if p.paused then s.enterPaused i else
    let save := (s.vatsOf p.part).map s.saveVat
    let s := s.setPass { p with want := false, paused := true, resumed := false, save := save }
    let s := s.saveOut p.part (p.members.map Prod.fst) (save.flatMap VSave.bytes)
    (p.members.map Prod.fst).foldl (fun s j => s.enterPaused j) s
  | none => s.enterPaused i

def execPauseEffect (r : ReqId) (s : State) : Host.Outcome State Fault Refusal :=
  .next (s.reqPaused r)

/-! Resume (R299, R352). -/

/-- Now is at or after a spilled entry's expiry. -/
def State.expired (s : State) (x : ReqX) : Bool :=
  match x.spill with
  | some r => decide (r.expiry ≤ s.now.toNat)
  | none => false

/-- A request leaves PAUSED for the state it was paused from; a spilled one is restored first. -/
def State.leavePaused (s : State) (i : Nat) : State :=
  let x := s.req i
  let away := x.spill.any fun r => !r.writing
  let s := s.setReq i { x with restoring := away, spill := if away then x.spill else none, readyAt := s.now.toNat }
  s.setSt i x.from_ eOk

/-- A resume that finds the record expired fails the request (R352). -/
def State.resumeLate (s : State) (i : Nat) : State := (s.bump .PFX_SPILL_STAT PFX_SPILL_STAT.EXPIRED).reqFail i eTtlExpired

/-- Reeve's own resume takes the lock: the request goes on, its record restored first, or fails where that has expired
(R299, R352). -/
def State.reeveResume (s : State) (i : Nat) : State :=
  if (s.req i).st ≠ qsPaused then s else if s.expired (s.req i) then s.resumeLate i else s.leavePaused i

def State.resumeReq (s : State) (i cpl : Nat) : State :=
  let x := s.req i
  if x.st ≠ qsPaused then s.complete cpl x.st eCfgLocked
  else if s.expired x then (s.resumeLate i).complete cpl qsFailed eTtlExpired
  else
    let s := match s.passOf i with
      | some p => (p.members.map Prod.fst).foldl (fun (s : State) j => if (s.req j).st = qsPaused then s.leavePaused j else s)
          (s.setPass { p with resumed := true })
      | none => s.leavePaused i
    (s.shReqResume i).complete cpl (s.req i).st eOk

def execResume (f : FuncId) (s : State) : Host.Outcome State Fault Refusal :=
  .next (s.ringKind f (fun k => k = 4) fun t b => t.command f b fun t i cpl => t.resumeReq i cpl)

/-! The host tier (R351-R353). -/

/-- The 4 KiB units of a function's spill area in use. -/
def State.spillUsed (s : State) (f : Nat) : List (Nat × Nat) :=
  (s.reqs.filter fun (p : Nat × ReqX) => p.2.func = f && p.2.spill.any fun r => 0 < r.units).filterMap fun p =>
    p.2.spill.map fun r => ((r.addr / 4096 - s.get (.PFX_SPILL_BASE f) PFX_SPILL_BASE.BASE), r.units)

/-- First fit: the lowest start, 0 or the end of a record, with `n` free units. -/
def State.spillFit (s : State) (f n : Nat) : Option Nat :=
  let used := s.spillUsed f
  let starts := (0 :: used.map fun u => u.1 + u.2).filter fun a =>
    a + n ≤ s.get (.PFX_SPILL_SIZE f) PFX_SPILL_SIZE.SIZE_4K && used.all fun u => a + n ≤ u.1 || u.1 + u.2 ≤ a
  starts.foldl (fun (b : Option Nat) a => match b with
    | some x => some (min x a)
    | none => some a) none

/-- `n` bytes that the spec leaves open: a cache's place in module memory is its programs' (log 2). -/
def State.freshBytes (s : State) (n : Nat) : List Byte × State :=
  ((List.range n).map fun k => (Config.freeWord (s.free + k)).truncate 8, { s with free := s.free + n })

/-- The record behind its header: the save area and the request's cache. -/
def State.spillBody (s : State) (i : Nat) : List Byte × State :=
  let x := s.req i
  let save := match s.passOf i with
    | some p => p.save.flatMap VSave.bytes
    | none => []
  let (cache, s) := s.freshBytes (x.pos * s.geom.posBytes)
  (save ++ cache, s)

/-- SPILL_MS has passed since the request paused, or since the last try. -/
def State.spillDue (s : State) (x : ReqX) : Bool :=
  let ms := s.get .REEVE_SCHED REEVE_SCHED.SPILL_MS
  ms ≠ 0 && x.since + ms * 1000000 ≤ s.now.toNat

/-- A spill that cannot be made now is tried again after a further SPILL_MS. -/
def State.spillRetry (s : State) (i : Nat) : State :=
  (s.setReq i { s.req i with since := s.now.toNat, spill := none }).bump .PFX_SPILL_STAT PFX_SPILL_STAT.DEFERRED

/-- SPILL: space is taken and the record written, its CRC over what follows the header (R351). -/
def State.spillReq (s : State) (i : Nat) : State :=
  let x := s.req i
  let f := x.func
  if !(x.used && x.st = qsPaused) || s.isOut 2 || x.spill.isSome || !s.spillDue x || s.get (.PFX_FUNC_CFG f) PFX_FUNC_CFG.SPILL_EN = 0 then s
  else
    let (body, s) := s.spillBody i
    let len := body.length
    match s.spillFit f ((64 + len + 4095) / 4096) with
    | none => s.spillRetry i
    | some u =>
      let crc := crc32c body
      let addr := (s.get (.PFX_SPILL_BASE f) PFX_SPILL_BASE.BASE + u) * 4096
      let expiry := s.now.toNat + s.get (.PFX_FUNC_CFG f) PFX_FUNC_CFG.TTL_S * 1000000000
      let head := leBytes 4 0x4C565350 ++ leBytes 4 (handleOf i x) ++ leBytes 8 len ++ leBytes 8 expiry ++ leBytes 4 crc.toNat ++
        List.replicate 36 0
      (s.setReq i { x with spill := some { addr := addr, units := (64 + len + 4095) / 4096, expiry := expiry, crc := crc, writing := true } }).hostOut addr (head ++ body)

def execSpill (r : ReqId) (s : State) : Host.Outcome State Fault Refusal :=
  .next (s.spillReq r)

/-- SPILL_WRITE_DONE: the record stands in host memory and the HBM space is free, or the request stays in HBM. -/
def State.spillDone (s : State) (i : Nat) (ok : Bool) : State :=
  let x := s.req i
  match x.spill with
  | some r => if !r.writing then s else if ok then s.setReq i { x with spill := some { r with writing := false }, save := none } else s.spillRetry i
  | none => s

def execSpillWriteDone (r : ReqId) (ok : Bool) (s : State) : Host.Outcome State Fault Refusal :=
  .next (s.spillDone r ok)

/-- SPILL_EXPIRY: the record's space is freed; a resume will find it expired. -/
def execSpillExpiry (r : ReqId) (s : State) : Host.Outcome State Fault Refusal :=
  .next (match (s.req r.val).spill with
    | some y => if y.expiry ≤ s.now.toNat then s.setReq r.val { s.req r.val with spill := some { y with units := 0 } } else s
    | none => s)

/-! Re-runs (R304). -/

/-- One more re-run of a request, or its end: pages of the run that have not started are rebuilt by it (R342), and LAYER
returns to 0 (R286). -/
def State.rerun (s : State) (i : Nat) : State :=
  let x := s.req i
  if !x.live then s
  else if s.get .REEVE_SCHED REEVE_SCHED.RERUN_LIMIT ≤ x.reruns then s.reqFail i eUncorrectable
  else (s.kvxRebuild i x.paged).setReq i { x with reruns := x.reruns + 1, step := none, layer := 0 }

/-- The Vats of a pass start again from what they held at a point of it: their contexts, Curd buffers and rows (R304). -/
def State.restartPass (s : State) (seq : Nat) (whole : Bool) : State :=
  match s.passes.find? fun (q : Pass) => q.seq = seq with
  | none => s
  | some q =>
    let s := ((s.vatsOf q.part).zip (if whole then q.start else q.inputs)).foldl (fun s x => s.loadVat x.1 x.2) s
    s.setPass (if whole then { q with layers := 0, inputs := q.start } else q)

/-- One more deadline miss of a request, or its end. -/
def State.rerunMiss (s : State) (i : Nat) : State :=
  let x := s.req i
  if !x.live then s
  else if s.get .REEVE_SCHED REEVE_SCHED.MISS_LIMIT ≤ x.misses then s.reqFail i eDeadlineMiss
  else s.setReq i { x with misses := x.misses + 1 }

/-- What runs on a partition: the members of its pass, the requests of its tail steps. -/
def State.atWork (s : State) (p : Nat) : List Nat :=
  (s.passes.filter fun (q : Pass) => q.part = p && !q.paused).flatMap (fun q => q.members.map Prod.fst) ++
    s.liveReqs.filter fun i => ((s.req i).step.map TailStep.part) = some p

/-- REQUEST_RERUN: what runs on the partition runs again, a pass from layer 0, or after a deadline miss from the start of its
layer; or it fails with the code. -/
def State.rerunPart (s : State) (p code : Nat) : State :=
  let l := s.atWork p
  let qs := (s.passes.filter fun (q : Pass) => q.part = p && !q.paused).map Pass.seq
  if code = eCapacityDegraded then s
  else if code = eUncorrectable then qs.foldl (fun s q => s.restartPass q true) (l.foldl (fun s i => s.rerun i) s)
  else if code = eDeadlineMiss then qs.foldl (fun s q => s.restartPass q false) (l.foldl (fun s i => s.rerunMiss i) s)
  else l.foldl (fun s i => s.reqFail i code) s

def execRequestRerun (p : PartId) (code : Byte) (s : State) : Host.Outcome State Fault Refusal :=
  .next (s.rerunPart p code.toNat)

/-- A request re-runs from its prompt: its save area and its cache are gone; TOKENS never decreases (R286). Its pages that
have not started are rebuilt. -/
def State.fromPrompt (s : State) (i : Nat) : State :=
  let s := (s.rerun i).leavePass i
  let x := s.req i
  if !x.live then s else
  let n := 64 * x.hits.length
  (s.kvxRebuild i n).setReq i { x with pos := n, paged := n, spill := none, restoring := false, save := none, draftPos := 0 }

/-- RESTORE_DONE: the record is back in HBM and its CRC holds, or the request runs again from its prompt (R352). -/
def State.restored (s : State) (i : Nat) (ok : Bool) : State :=
  let x := s.req i
  match x.spill with
  | some r =>
    if !x.restoring then s else
    let (head, s) := s.hostIn r.addr 64
    let (body, s) := s.hostIn (r.addr + 64) (fieldN head 8 8)
    if ok && fieldN head 24 4 = (crc32c body).toNat then s.setReq i { x with spill := none, restoring := false }
    else (if ok then s.bump .PFX_SPILL_STAT PFX_SPILL_STAT.CRC_FAIL else s).fromPrompt i
  | none => s

def execRestoreDone (r : ReqId) (ok : Bool) (s : State) : Host.Outcome State Fault Refusal :=
  .next (s.restored r ok)

end Sys2Proof.Machine
end

