-- ==== Sys2Proof/Machine/Passes.lean ====
section
/-! DEFINITION. Passes (R291-R293, R298-R304, R373): packing, starting, committing, pre-empting; pages queued (R324-R326);
budgets, duties, the heartbeat and the mailbox (R300-R306). -/

namespace Sys2Proof.Machine

/-! Order of service: PRIO, then arrival (R293). -/

/-- Whether request `i` goes before `j`. -/
def State.before (s : State) (i j : Nat) : Bool :=
  let x := s.req i
  let y := s.req j
  y.prio < x.prio || (x.prio = y.prio && x.arrive ≤ y.arrive)

def State.insertBy (s : State) (i : Nat) : List Nat → List Nat
  | [] => [i]
  | j :: js => if s.before i j then i :: j :: js else j :: State.insertBy s i js

/-- Requests in order of PRIO, then arrival. -/
def State.byPrio (s : State) (l : List Nat) : List Nat := l.foldr (fun i acc => s.insertBy i acc) []

/-! Duties (R302, R303, R373). -/

def dutyPrefill : Nat := 0
def dutyTail : Nat := 1
def dutyMixed : Nat := 2
def State.dutyOf (s : State) (p : Nat) : Nat := s.get (.REEVE_PART_CFG p) REEVE_PART_CFG.DUTY
def State.setDuty (s : State) (p d : Nat) : State := s.put (.REEVE_PART_CFG p) REEVE_PART_CFG.DUTY d

/-- The partition a request's tail steps run on: its own where MIXED, the lowest TAIL, then the lowest MIXED partition of
its group, else its own. -/
def State.tailPart (s : State) (x : ReqX) : Nat :=
  let ps := (s.groupParts x.group).filter fun p => !s.closed.contains p
  if s.dutyOf x.part = dutyMixed then x.part
  else match ps.find? fun p => s.dutyOf p = dutyTail with
    | some p => p
    | none => (ps.find? fun p => s.dutyOf p = dutyMixed).getD x.part

/-- A request whose next tail step is ready. -/
def State.tailReady (s : State) (i : Nat) : Bool :=
  let x := s.req i
  x.live && x.st = qsTail && x.want.isNone && x.step.isNone && !x.restoring && x.pos = s.shareLen x && !x.record

def State.passOn (s : State) (p : Nat) : Option Pass := s.passes.find? fun (q : Pass) => q.part = p && !q.paused
def State.stepsOn (s : State) (p : Nat) : List Nat := s.liveReqs.filter fun i => ((s.req i).step.map TailStep.part) = some p

/-- A duty change waits for the pass to commit, or until no tail step runs there or is queued for it (R303). -/
def State.settleDuty (s : State) (p : Nat) : State :=
  match s.dutyWant.find? fun w => w.1 = p with
  | some w =>
    let ok := if w.2 = dutyTail then (s.passOn p).isNone
      else (s.stepsOn p).isEmpty && !s.liveReqs.any fun i => s.tailReady i && s.tailPart (s.req i) = p
    if ok then { s.setDuty p w.2 with dutyWant := s.dutyWant.filter fun x => x.1 ≠ p } else s
  | none => s

/-! Pages (R324-R326). -/

/-- The layers of the model. -/
def State.layersAll (s : State) : List Nat := List.range s.geom.layers

/-- The pages of positions `[a, b)` of these layers, each in one piece of 64 positions, in layer, head, FIRST order. -/
def State.pagesOf (s : State) (i a b : Nat) (ls : List Nat) : List Rec :=
  let r := s.newRec i 0
  let firsts := (List.range ((b + 63) / 64 - a / 64)).map (a / 64 + ·)
  ls.flatMap fun l => (List.range s.geom.heads).flatMap fun h =>
    firsts.map fun k => { r with layer := l, head := h, first := 64 * k, count := min 64 (b - 64 * k) }

/-- Queue the pages of positions `[a, b)` at the request's destination, but for those that have left before a re-run (R304). -/
def State.queuePages (s : State) (i a b : Nat) (ls : List Nat) : State :=
  match (s.req i).dest with
  | some d =>
    let rs := (s.pagesOf i a b ls).filter fun (r : Rec) => !(s.req i).out.contains (r.layer, r.head, r.first)
    if rs.isEmpty then s else s.kvxQueue d rs
  | none => s

/-- Pages whose 64 positions now all hold committed cache (R325). -/
def State.queueFull (s : State) (i upTo : Nat) : State :=
  let x := s.req i
  let b := upTo / 64 * 64
  if x.paged < b then (s.queuePages i x.paged b s.layersAll).setReq i { x with paged := b } else s

/-- The commit record (R291): the final partial pages, the END marker, and DONE or EXPORTING (R288). `upTo`: positions
that hold cache. -/
def State.commitRecord (s : State) (i upTo : Nat) : State :=
  let s := s.queueFull i upTo
  let s := if (s.req i).paged < upTo then s.queuePages i (s.req i).paged upTo s.layersAll else s
  let x := s.req i
  let s := s.setReq i { x with record := true, paged := max x.paged upTo, step := none }
  match x.dest with
  | none => s.reqEnd i qsDone eOk
  | some d =>
    let s := s.kvxQueue d [s.newRec i 1]
    (s.dropWant i qsExporting eCfgLocked).setSt i qsExporting eOk

/-! PASS_START (R288, R291, R293). -/

/-- Requests waiting for a pass on partition `p`: QUEUED ones, a Sheaf member's with an empty share among them (R466,
R468), and those between their passes. -/
def State.waiting (s : State) (p : Nat) : List Nat :=
  let absent := fun (x : ReqX) => !(s.eligible x).any fun q => !(s.vatsOf q).isEmpty
  let may := fun (x : ReqX) => if x.st = qsQueued || (s.vatsOf x.part).isEmpty
    then (s.eligible x).contains p || (absent x && x.group = s.groupOf p) else x.part = p
  s.byPrio (s.liveReqs.filter fun i =>
    let x := s.req i
    x.st ≤ qsTail && x.want.isNone && !x.restoring && (x.pos < s.shareLen x || x.st = qsQueued) && (s.passOf i).isNone && may x &&
      (x.sheaf.isNone || s.shReady i))

/-- A request that may share a pass (R293); hits of the prefix store start it past position 0. -/
def State.packable (s : State) (t : Nat) (i : Nat) : Bool :=
  let x := s.req i
  x.st = qsQueued && !x.noPack && !x.spec && x.sheaf.isNone && x.promptLen ≤ t && x.hits.isEmpty

/-- Take requests in order for as long as they fit. -/
def State.packUp (s : State) (t : Nat) : List Nat → Nat → List (Nat × Nat) → List (Nat × Nat)
  | [], _, acc => acc
  | i :: is, used, acc =>
    let n := (s.req i).promptLen
    if used + n ≤ t && acc.length < 1024 then State.packUp s t is (used + n) (acc ++ [(i, n)]) else acc

/-- Where the next pass of a request starts: the first one behind its hits (R347). -/
def ReqX.passPos (x : ReqX) : Nat := if x.st = qsQueued then 64 * x.hits.length else x.pos

/-- The members of the next pass of `p`, with their tokens; none while a pack is held (R293). -/
def State.nextPass (s : State) (p : Nat) : List (Nat × Nat) :=
  let t := s.getLive (.REEVE_PART_CFG p) REEVE_PART_CFG.PASS_TOKENS
  match s.waiting p with
  | [] => []
  | i :: is =>
    let x := s.req i
    if s.packable t i then
      let l := s.packUp t ((i :: is).filter fun j => s.packable t j && (s.req j).variant = x.variant) 0 []
      let n := (l.map Prod.snd).foldl (· + ·) 0
      if n < s.getLive (.REEVE_PART_CFG p) REEVE_PART_CFG.PACK_MIN && !s.packDue.contains (p, handleOf i x) then [] else l
    else [(i, if x.sheaf.isSome then s.shareLen x else min t (x.promptLen - x.passPos))]

/-- PACK_WAIT_EXPIRY: the head request has waited PACK_WAIT_US. -/
def State.packWait (s : State) (p : Nat) : State :=
  match s.waiting p with
  | i :: _ => if (s.req i).queuedAt + s.getLive (.REEVE_PART_CFG p) REEVE_PART_CFG.PACK_WAIT_US * 1000 ≤ s.now.toNat
      then { s with packDue := (s.packDue.filter fun d => d.1 ≠ p) ++ [(p, handleOf i (s.req i))] } else s
  | [] => s

def execPackWaitExpiry (p : PartId) (s : State) : Host.Outcome State Fault Refusal :=
  .next (s.packWait p)

/-- A member's first pass (R287, R347): result header, hit tokens and pages, PREFILL. -/
def State.enterPrefill (s : State) (i p : Nat) : State :=
  let x := s.req i
  if x.st ≠ qsQueued then s.setReq i { x with part := p, layer := 0 }
  else
    let n := 64 * x.hits.length
    let s := s.setReq i { x with part := p, tokens := n, pos := n, layer := 0 }
    let s := s.writeResult i 0 (leBytes 4 (handleOf i x) ++ List.replicate 12 0 ++ leBytes 8 s.now.toNat ++ List.replicate 40 0)
    let s := s.writeResult i 1088 (List.replicate 960 0)
    (s.queueFull i n).setSt i qsPrefill eOk

/-- The paused pass that partition `p` resumes next (R298, R299): one asked to resume, or one Reeve paused, of its group
and number of Vats, highest PRIO first. One of spilled requests goes on once they have been restored. -/
def State.prioOf (s : State) (q : Pass) : Nat := q.members.foldl (fun m x => max m (s.req x.1).prio) 0
def State.resumable (s : State) (p : Nat) : Option Pass :=
  let l := s.passes.filter fun (q : Pass) => q.paused && (q.resumed || q.byReeve) && q.vats = (s.vatsOf p).length &&
    s.groupOf q.part = s.groupOf p && q.members.all fun m => !(s.req m.1).restoring
  l.foldl (fun (b : Option Pass) q => match b with
    | some r => if s.prioOf r < s.prioOf q then some q else b
    | none => some q) none

/-- A paused pass continues on partition `p` (R299). -/
def State.resumePass (s : State) (p : Nat) (q : Pass) : State :=
  let s := ((s.vatsOf p).zip q.save).foldl (fun s x => s.loadVat x.1 x.2) s
  let s := s.setPass { q with part := p, paused := false, byReeve := false, resumed := false, save := [] }
  (q.members.map Prod.fst).foldl (fun (s : State) i =>
    let s := if (s.req i).st = qsPaused then s.leavePaused i else s
    s.setReq i { s.req i with part := p, save := none }) s

/-- Reeve takes up a paused pass on partition `p` (R298, R299): at once, or once the records of its spilled members have
been restored; a member whose record has expired fails. -/
def State.takeUp (s : State) (p : Nat) (q : Pass) : State :=
  if q.members.any fun m => (s.req m.1).st = qsPaused && (s.req m.1).spill.any fun r => !r.writing then
    (q.members.map Prod.fst).foldl (fun (s : State) i => s.reeveResume i) (s.setPass { q with resumed := true })
  else s.resumePass p q

/-- Requests that Reeve paused outside a pass go on once a partition of their group is free (R297, R298). -/
def State.takeUpAlone (s : State) (p : Nat) : State :=
  (s.liveReqs.filter fun i => (s.req i).st = qsPaused && (s.req i).err = ePaused && (s.passOf i).isNone &&
    (s.req i).group = s.groupOf p).foldl (fun (s : State) i => s.reeveResume i) s

/-- A new pass begins on partition `p`. -/
def State.beginPass (s : State) (p : Nat) (l : List (Nat × Nat)) : State :=
  let s := l.foldl (fun s x => s.enterPrefill x.1 p) s
  let held := (s.vatsOf p).map s.saveVat
  let q : Pass := { seq := s.order, members := l, part := p, vats := (s.vatsOf p).length, start := held, inputs := held }
  { s with passes := s.passes ++ [q], order := s.order + 1, packDue := s.packDue.filter fun d => d.1 ≠ p }

/-- PASS_START: the partition is free and of a duty that prefills; tail steps go first (R302, R373). -/
def State.passStart (s : State) (p : Nat) : State :=
  let busy := (s.passOn p).isSome || !(s.stepsOn p).isEmpty || s.closed.contains p || (s.vatsOf p).isEmpty
  let tails := s.liveReqs.any fun i => s.tailReady i && s.tailPart (s.req i) = p
  if busy || tails || s.dutyOf p = dutyTail || s.dutyWant.any (fun w => w.1 = p && w.2 = dutyTail) then s
  else
    let t := (s.takeUpAlone p).apply (.REEVE_PART_CFG p)
    let l := t.nextPass p
    let new := l.foldl (fun m x => max m (t.req x.1).prio) 0
    match t.resumable p with
    | some q => if l.isEmpty || new ≤ t.prioOf q then t.takeUp p q else t.beginPass p l
    | none => if l.isEmpty then s.takeUpAlone p else t.beginPass p l

def execPassStart (p : PartId) (s : State) : Host.Outcome State Fault Refusal :=
  .next (s.passStart p)

/-! PASS_COMMIT (R291, R300, R348, R373, R468). -/

/-- The pages that these layers of a pass of `n` tokens complete: of a Sheaf member's share, or of the pass (R325, R326). -/
def State.queueLayers (s : State) (i n : Nat) (ls : List Nat) : State :=
  let x := s.req i
  match x.sheaf with
  | some d => (shareOf x.promptLen (s.shN d) x.member).foldl (fun s r =>
      s.queuePages i (max r.1 x.pos) (if r.1 + r.2 = x.promptLen then (r.1 + r.2) / 64 * 64 else r.1 + r.2) ls) s
  | none => s.queuePages i x.paged ((x.pos + n) / 64 * 64) ls

/-- A pass of `n` tokens commits: the positions whose pages stand behind it. -/
def State.pagedTo (s : State) (i n : Nat) : Nat :=
  let x := s.req i
  match x.sheaf with
  | some d =>
    if (shareOf x.promptLen (s.shN d) x.member).any fun r => r.1 + r.2 = x.promptLen then x.promptLen / 64 * 64 else x.promptLen
  | none => max x.paged ((x.pos + n) / 64 * 64)

/-- Whether this member owns the prompt's last position (R468). -/
def State.ownsLast (s : State) (x : ReqX) : Bool :=
  match x.sheaf with
  | some d => (shareOf x.promptLen (s.shN d) x.member).any fun r => r.1 + r.2 = x.promptLen
  | none => true

/-- The first-token logits of a member (R373): those the command brings for it, one for each vocabulary entry; a value that it
does not bring is free (log 2). -/
def State.firstLogits (s : State) (logits : List (ReqId × List W32)) (i : Nat) : List W32 × State :=
  let l := ((logits.find? fun l => l.1.val = i).map fun l => l.2).getD []
  let n := s.get .REEVE_MODEL REEVE_MODEL.VOCAB
  (l.take n ++ (List.range (n - l.length)).map fun k => (Config.freeWord (s.free + k)).truncate 32, { s with free := s.free + (n - l.length) })

/-- A variant that drafts with the resident model (R386, R388). -/
def State.resident (s : State) (x : ReqX) : Bool :=
  x.spec && s.get (.REEVE_VARIANT_CFG x.variant) REEVE_VARIANT_CFG.DRAFT = 2

/-- One member's share of the commit: pages of the layers that have not queued theirs, prefix insertions, TOKENS, its budget,
and TAIL behind the last token. The draft model's prefill has run over the same tokens (R388). -/
def State.commitMember (s : State) (logits : List (ReqId × List W32)) (ls : List Nat) (i n : Nat) : State :=
  let x := s.req i
  if !x.live then s else
  let s := s.queueLayers i n ls
  let pos := x.pos + n
  let s := s.setReq i { s.req i with paged := s.pagedTo i n, layer := 0, draftPos := if s.resident x then pos else x.draftPos }
  let s := if x.prefix_ then
      s.pfxInserts x.group x.part (s.tenantOf x.func) x.variant (x.pos / 64) x.prompt (pos / 64) 0 (List.replicate 16 0) peNone
    else s
  let tokens := max x.tokens pos
  let s := s.setBalance x.budget (s.balance x.budget - ((tokens - x.tokens : Nat) : Int))
  let s := s.perfs puGlb 0x09 [0] (tokens - x.tokens)
  let s := (s.setReq i { s.req i with pos := pos, tokens := tokens }).shReqDone i
  if pos < s.shareLen x then s.writeStatus i
  else if !s.ownsLast x then s.commitRecord i (s.req i).paged
  else
    let s := if x.logits then
        let (z, s) := s.firstLogits logits i
        s.writeResult i 2048 (z.flatMap fun (w : W32) => leBytes 4 w.toNat)
      else s
    let s := s.setReq i { s.req i with readyAt := s.now.toNat }
    if x.st = qsPrefill then s.setSt i qsTail eOk else s.writeStatus i

/-- The first token's step follows the commit at once, on the partition the request moves to (R302, R373). -/
def State.firstStep (s : State) (i : Nat) : State :=
  let x := s.req i
  if x.live && x.st = qsTail && x.want.isNone && x.ids.isEmpty && x.step.isNone then
    s.setReq i { x with part := s.tailPart x, step := some { part := s.tailPart x, first := true, gstate := x.gstate } }
  else s

def State.passCommit (s : State) (p : Nat) (logits : List (ReqId × List W32)) : State :=
  match s.passOn p with
  | none => s
  | some q =>
    let s := { s with passes := s.passes.filter fun (r : Pass) => r.seq ≠ q.seq }
    let s := q.members.foldl (fun s m => s.commitMember logits (s.layersAll.drop q.layers) m.1 m.2) s
    (q.members.foldl (fun s m => s.firstStep m.1) s).settleDuty p

def execPassCommit (p : PartId) (logits : List (ReqId × List W32)) (s : State) : Host.Outcome State Fault Refusal :=
  .next (s.passCommit p logits)

/-! Pre-emption (R298). -/

/-- The running pass that request `i` pre-empts: lowest PRIO, most recently started. -/
def State.victim (s : State) (i : Nat) : Option Pass :=
  let x := s.req i
  (s.passes.filter fun (q : Pass) => !q.paused && !q.want && s.groupOf q.part = x.group &&
    (s.eligible x).contains q.part && s.prioOf q < x.prio).foldl (fun (b : Option Pass) q => match b with
      | some r => if s.prioOf q < s.prioOf r || (s.prioOf q = s.prioOf r && r.seq < q.seq) then some q else b
      | none => some q) none

/-- PREEMPTION: the request has waited PREEMPT_US and no partition of its group can start it. -/
def State.preempt (s : State) (i : Nat) : State :=
  let x := s.req i
  let free := (s.groupParts x.group).any fun p => (s.eligible x).contains p && (s.passOn p).isNone &&
    (s.stepsOn p).isEmpty && s.dutyOf p ≠ dutyTail && !s.closed.contains p
  if !x.live || x.st ≠ qsQueued || free then s else
  match s.victim i with
  | none => s
  | some q =>
    let us := s.getLive (.REEVE_PART_CFG q.part) REEVE_PART_CFG.PREEMPT_US
    if us = 0 || s.now.toNat < x.queuedAt + us * 1000 then s
    else
      let s := s.setPass { q with want := true, byReeve := true }
      let s := (q.members.map Prod.fst).foldl (fun (s : State) j =>
        let y := s.req j
        (s.setReq j { y with want := some (y.want.getD { cpl := none }) }).shReqPause j) s
      if q.members.any fun m => (s.shReq m.1).isSome then s else s.pausePart q.part

def execPreemption (r : ReqId) (s : State) : Host.Outcome State Fault Refusal :=
  .next (s.preempt r)

/-! Budgets (R300). -/

/-- The counters whose CFG has been written. -/
def State.budgets (s : State) : List Nat :=
  (s.regs.filter fun p => (Reg.REEVE_BUDGET_CFG 0).off ≤ p.1 && p.1 < (Reg.REEVE_BUDGET_CFG 4096).off && p.1 % 16 = 0).map fun p =>
    (p.1 - (Reg.REEVE_BUDGET_CFG 0).off) / 16

/-- One millisecond's refill of a counter, its remainder carried. -/
def State.refill (s : State) (i : Nat) : State :=
  let r := s.get (.REEVE_BUDGET_CFG i) REEVE_BUDGET_CFG.RATE + Tab.get (fun _ => 0) s.budgetRem i
  let ceil : Int := s.get (.REEVE_BUDGET_CFG i) REEVE_BUDGET_CFG.CEIL
  let s := s.setBalance i (min (s.balance i + ((r / 1000 : Nat) : Int)) (max ceil (s.balance i)))
  { s with budgetRem := Tab.set (fun _ => 0) s.budgetRem i (r % 1000) }

def execBudgetRefill (s : State) : Host.Outcome State Fault Refusal :=
  .next (s.budgets.foldl (fun s i => s.refill i) s)

/-! DUTY_EVALUATION (R303). -/

/-- The duty a partition has, or is about to have. -/
def State.dutyNext (s : State) (p : Nat) : Nat := ((s.dutyWant.find? fun w => w.1 = p).map Prod.snd).getD (s.dutyOf p)
def State.tailVats (s : State) (g : Nat) : Nat :=
  ((s.groupParts g).filter fun p => s.dutyNext p = dutyTail).foldl (fun n p => n + (s.vatsOf p).length) 0

/-- The smallest partition of a group in a duty that allows both. -/
def State.smallest (s : State) (g d : Nat) : Option Nat :=
  ((s.groupParts g).filter fun p => s.dutyNext p = d && s.get (.REEVE_PART_CFG p) REEVE_PART_CFG.DUTY_ALLOWED % 4 = 3).foldl
    (fun (b : Option Nat) p => match b with
      | some q => if (s.vatsOf p).length < (s.vatsOf q).length then some p else b
      | none => some p) none

/-- A partition moves, at once or when what it runs has ended. -/
def State.moveDuty (s : State) (p d : Nat) : State :=
  ({ s with dutyWant := (s.dutyWant.filter fun (w : Nat × Nat) => w.1 ≠ p) ++ [(p, d)] }).settleDuty p

def State.evalGroup (s : State) (g wait : Nat) : State :=
  let cfg := s.partSec ((s.groupParts g).headD 16)
  if cfg.isNone then s else
  let grp := (s.groupSec g).getD {}
  let low := if wait < s.get .REEVE_SCHED REEVE_SCHED.TAIL_LO_US then Tab.get (fun _ => 0) s.duty g + 1 else 0
  let s := { s with duty := Tab.set (fun _ => 0) s.duty g low }
  if s.get .REEVE_SCHED REEVE_SCHED.TAIL_HI_US < wait && s.tailVats g < grp.tailMax then
    match s.smallest g dutyPrefill with
    | some p => s.moveDuty p dutyTail
    | none => s
  else if 10 ≤ low && grp.tailMin < s.tailVats g then
    match s.smallest g dutyTail with
    | some p => { s with duty := Tab.set (fun _ => 0) s.duty g 0 }.moveDuty p dutyPrefill
    | none => s
  else s

def execDutyEvaluation (waits : List Nat) (s : State) : Host.Outcome State Fault Refusal :=
  .next ((List.range 16).foldl (fun s g => s.evalGroup g (waits.getD g 0)) s)

/-- HEARTBEAT (R305). -/
def execHeartbeat (s : State) : Host.Outcome State Fault Refusal :=
  .next (if s.get .REEVE_STATUS REEVE_STATUS.STATE = 2 then
    s.put .REEVE_STATUS REEVE_STATUS.HEARTBEAT (s.get .REEVE_STATUS REEVE_STATUS.HEARTBEAT + 1) else s)

/-! The mailbox (R306). -/

def State.arg (s : State) (k : Nat) : Nat := (s.rd (.REEVE_MBOX_ARG k)).toNat
def State.setArg (s : State) (k n : Nat) : State := s.wr (.REEVE_MBOX_ARG k) (BitVec.ofNat 64 n)

/-- The command's result is written and GO cleared. -/
def State.mboxEnd (s : State) (err : Nat) : State :=
  (s.put .REEVE_MBOX_RESULT REEVE_MBOX_RESULT.ERR err).put .REEVE_MBOX_CMD REEVE_MBOX_CMD.GO 0

/-- Run an opcode where GO is set for it. -/
def State.mbox (s : State) (op : Nat) (g : State → State) : State :=
  if s.get .REEVE_MBOX_CMD REEVE_MBOX_CMD.GO = 1 && s.get .REEVE_MBOX_CMD REEVE_MBOX_CMD.OPCODE = op then g s else s

/-- Through a virtual function a command names that function only. -/
def State.mboxMay (s : State) (f : Nat) : Bool := s.mboxFunc = 0 || s.mboxFunc = f

def State.mboxQuery (s : State) : State :=
  if !s.mboxMay (s.arg 1) then s.mboxEnd eCfgLocked
  else match s.findTag (s.arg 1) (s.arg 0) with
    | none => s.mboxEnd eFormatInvalid
    | some i =>
      let x := s.req i
      ((((s.setArg 0 (handleOf i x)).setArg 1 x.word).setArg 2 x.sent).setArg 3 x.acked).setArg 4 (x.misses * 2 ^ 32 + x.reruns)
        |>.mboxEnd eOk

def execMboxQuery (s : State) : Host.Outcome State Fault Refusal := .next (s.mbox 1 State.mboxQuery)

/-- VERSION: both results are free values (log 2). -/
def State.mboxVersion (s : State) : State :=
  let (a, s) := s.fresh
  let (b, s) := s.fresh
  ((s.wr (.REEVE_MBOX_ARG 0) (Config.freeWord a)).wr (.REEVE_MBOX_ARG 1) (Config.freeWord b)).mboxEnd eOk

def execMboxVersion (s : State) : Host.Outcome State Fault Refusal := .next (s.mbox 2 State.mboxVersion)

def State.mboxStats (s : State) : State :=
  let f := s.arg 0
  if !s.mboxMay f then s.mboxEnd eCfgLocked
  else
    let s := (List.range 8).foldl (fun (s : State) st =>
      s.setArg st (s.reqs.filter fun (p : Nat × ReqX) => p.2.used && p.2.func = f && p.2.st = st).length) s
    s.mboxEnd eOk

def execMboxStats (s : State) : Host.Outcome State Fault Refusal := .next (s.mbox 3 State.mboxStats)

def State.mboxBudget (s : State) : State :=
  let i := s.arg 0
  if s.mboxFunc ≠ 0 then s.mboxEnd eCfgLocked
  else if 4096 ≤ i then s.mboxEnd eFormatInvalid
  else
    let d := s.arg 1
    let delta : Int := if d < 2 ^ 63 then d else (d : Int) - 2 ^ 64
    let s := s.setBalance i (s.balance i + delta)
    (s.setArg 0 (s.balance i % 2 ^ 64).toNat).mboxEnd eOk

def execMboxBudgetAdjust (s : State) : Host.Outcome State Fault Refusal := .next (s.mbox 4 State.mboxBudget)

def State.mboxCancel (s : State) : State :=
  let f := s.arg 0
  if s.mboxFunc ≠ 0 then s.mboxEnd eCfgLocked
  else
    let l := s.liveReqs.filter fun i => (s.req i).func = f && (s.req i).st ≠ qsExporting
    let s := l.foldl (fun (s : State) i => (s.cancelReq i).1) s
    (s.setArg 0 l.length).mboxEnd eOk

def execMboxCancelFunction (s : State) : Host.Outcome State Fault Refusal := .next (s.mbox 5 State.mboxCancel)

end Sys2Proof.Machine
end

