-- ==== Sys2Proof/Machine/Tail.lean ====
section
/-! DEFINITION. Tail steps (R373-R391): drafts, the choice of a token, the walk of the tree, the commit; grammar
automata (R381-R384). -/

namespace Sys2Proof.Machine

/-! Grammar automata (R381): a table in module memory. -/

def State.gramAt (s : State) (g : Nat) : Nat := s.get (.REEVE_GRAM_BASE g) REEVE_GRAM_BASE.BASE * 4096
def State.gramStates (s : State) (g : Nat) : Nat := s.num (s.gramAt g + 16) 8
def State.gramMasks (s : State) (g : Nat) : Nat := s.num (s.gramAt g + 24) 8
def State.gramTransAt (s : State) (g : Nat) : Nat := s.num (s.gramAt g + 32) 8

/-- The transitions of a state: token and next state. -/
def State.gramTrans (s : State) (g st : Nat) : List (Nat × Nat) :=
  let a := s.gramAt g + s.gramStates g + 16 * st
  (List.range (s.num (a + 8) 4)).map fun i =>
    let t := s.gramAt g + s.gramTransAt g + 8 * (s.num (a + 4) 4 + i)
    (s.num t 4, s.num (t + 4) 4)

/-- The target of a state's transition on a token. -/
def State.gramNext (s : State) (g st v : Nat) : Option Nat := ((s.gramTrans g st).find? fun t => t.1 = v).map Prod.snd

/-- A state with ACCEPT set and no transitions (R385). -/
def State.gramEnd (s : State) (g st : Nat) : Bool :=
  let a := s.gramAt g + s.gramStates g + 16 * st
  s.num (a + 12) 1 % 2 = 1 && s.num (a + 8) 4 = 0

/-- Strictly ascending. -/
def ascending : List Nat → Bool
  | a :: b :: r => a < b && ascending (b :: r)
  | _ => true

/-- The regions of the serving groups that serve an automaton's functions (R381). -/
def State.gramRegions (s : State) (g : Nat) : List Region :=
  let gs := if s.get (.REEVE_GRAM_CFG g) REEVE_GRAM_CFG.SHARED = 1 then s.layout.groups.map Prod.fst
    else (s.partsOf (s.get (.REEVE_GRAM_CFG g) REEVE_GRAM_CFG.OWNER)).map s.groupOf
  gs.flatMap fun q => ((s.groupSec q).map fun (x : GroupSec) => x.regions).getD []

/-- A state obeys R381: its mask, its transitions, and that the mask has exactly their tokens. -/
def State.gramStateOk (s : State) (g nstate nmask vocab : Nat) (rs : List Region) (st : Nat) : Bool :=
  let a := s.gramAt g + s.gramStates g + 16 * st
  let ts := s.gramTrans g st
  let first := s.gramAt g + s.gramTransAt g + 8 * s.num (a + 4) 4
  let size := (vocab + 511) / 512 * 64
  let mask := s.bytes (s.gramAt g + s.gramMasks g + s.num a 4 * size) size
  s.num a 4 < nmask && s.num (a + 13) 3 = 0 && (ts.isEmpty || inRegion rs first (8 * ts.length)) &&
    ascending (ts.map Prod.fst) && ts.all (fun t => t.1 < vocab && t.2 < nstate) &&
    (List.range (8 * size)).all fun v =>
      ((mask.getD (v / 8) 0).toNat / 2 ^ (v % 8) % 2 = 1) = (ts.any fun t => t.1 = v)

/-- The check of R382. -/
def State.gramOk (s : State) (g : Nat) : Bool :=
  let b := s.gramAt g
  let nstate := s.get (.REEVE_GRAM_CFG g) REEVE_GRAM_CFG.NSTATE
  let nmask := s.get (.REEVE_GRAM_CFG g) REEVE_GRAM_CFG.NMASK
  let vocab := s.get .REEVE_MODEL REEVE_MODEL.VOCAB
  let rs := s.gramRegions g
  inRegion rs b 64 && s.num b 4 = 0x4C564741 && s.num (b + 4) 4 = nstate && s.num (b + 8) 4 = nmask &&
    s.num (b + 12) 4 = vocab && (s.bytes (b + 40) 24).all (fun x => x = 0) &&
    s.gramStates g % 64 = 0 && s.gramMasks g % 64 = 0 && s.gramTransAt g % 64 = 0 &&
    inRegion rs (b + s.gramStates g) (16 * nstate) && inRegion rs (b + s.gramMasks g) (nmask * ((vocab + 511) / 512 * 64)) &&
    (List.range nstate).all fun st => s.gramStateOk g nstate nmask vocab rs st

/-- Whether a live request names automaton `g` (R382). -/
def State.gramNamed (s : State) (g : Nat) : Bool :=
  s.liveReqs.any fun i => (s.req i).maskKind = 2 && (s.req i).grammar = g

/-! Drafts (R386, R387). A node is its token, its parent and the state reached at it. -/

abbrev Node := Nat × Nat × Nat

/-- The state reached from `st` by a token: none where the grammar does not allow it. -/
def State.stepState (s : State) (x : ReqX) (st v : Nat) : Option Nat :=
  if x.maskKind = 2 then s.gramNext x.grammar st v else some st

/-- The depth of a node. -/
def nodeDepth (ns : List Node) : Nat → Nat → Nat
  | 0, _ => 1
  | n + 1, i => if i = 0 then 1 else 1 + nodeDepth ns n (ns.getD i (0, 0, 0)).2.1

/-- The child of a node with a token. -/
def childOf (ns : List Node) (p v : Nat) : Option Nat :=
  (List.range ns.length).find? fun i => i ≠ 0 && (ns.getD i (0, 0, 0)).2.1 = p && (ns.getD i (0, 0, 0)).1 = v

/-- Insert one proposal below node `p`. -/
def State.draftChain (s : State) (x : ReqX) (limit : Nat) : List Nat → Nat → List Node → List Node
  | [], _, ns => ns
  | v :: vs, p, ns =>
    match childOf ns p v with
    | some c => State.draftChain s x limit vs c ns
    | none =>
      match s.stepState x (ns.getD p (0, 0, 0)).2.2 v with
      | some st => if ns.length < limit then State.draftChain s x limit vs ns.length (ns ++ [(v, p, st)]) else ns
      | none => ns

/-- The proposals of the n-gram lookup, most recent first (R387). -/
def ngramProposals (toks : List Nat) (n window more : Nat) : List (List Nat) :=
  let len := toks.length
  let pat := toks.drop (len - n)
  let hits := (List.range (len - n)).reverse.filter fun i => (toks.drop i).take n = pat
  (hits.take window).map fun i => (toks.drop (i + n)).take more

/-! Candidates (R377). -/

/-- Bit `v` of a mask (R380). -/
def maskBit (m : List Byte) (v : Nat) : Bool := (m.getD (v / 8) 0).toNat / 2 ^ (v % 8) % 2 = 1

/-- The mask of an automaton's state (R381). -/
def State.gramMask (s : State) (g st : Nat) : List Byte :=
  let size := (s.get .REEVE_MODEL REEVE_MODEL.VOCAB + 511) / 512 * 64
  s.bytes (s.gramAt g + s.gramMasks g + s.num (s.gramAt g + s.gramStates g + 16 * st) 4 * size) size

/-- The mask rows that stand for a selection in automaton state `st` (R377, R383): none under MASKKIND 0. -/
def State.maskAt (s : State) (x : ReqX) (st : Nat) : List Byte :=
  if x.maskKind = 2 then s.gramMask x.grammar st else x.mask

/-- The allowed set. -/
def State.allowed (s : State) (x : ReqX) (st v : Nat) : Bool := x.maskKind = 0 || maskBit (s.maskAt x st) v

/-- Insert a candidate in descending order, behind those equal to it. -/
def putCand (c : Cand) : List Cand → List Cand
  | [] => [c]
  | d :: r => if (f32 d.2).lt (f32 c.2) then c :: d :: r else d :: putCand c r

/-- The `k` largest finite or +∞ logits among the ids that `ok` holds for, in descending order with ties to the lower id;
`ok` is asked once an id. -/
def topLogits (ok : Nat → Bool) (k : Nat) (z : List W32) : List Cand :=
  let cs := (List.range z.length).filterMap fun v =>
    let a := z.getD v 0
    if ok v && !(f32 a).isNan && a ≠ f32NegInf then some (BitVec.ofNat 32 v, a) else none
  (cs.foldl (fun acc c => putCand c acc) []).take k

/-- The candidate row of 64 entries for the logits of one position. -/
def State.candRow (s : State) (x : ReqX) (st : Nat) (z : List W32) : List Cand :=
  let k := if x.topk = 0 then 64 else x.topk
  let cs := topLogits (s.allowed x st) k (z.take (s.get .REEVE_MODEL REEVE_MODEL.VOCAB))
  cs ++ List.replicate (64 - cs.length) (0xFFFFFFFF, f32NegInf)

/-- Expand the resident model's draft breadth first: node `i` takes the BRANCH highest of its logits among allowed ids. -/
def State.draftTree (s : State) (x : ReqX) (limit depth branch : Nat) (zs : List (List W32)) : Nat → Nat → List Node → List Node
  | 0, _, ns => ns
  | n + 1, i, ns =>
    if ns.length ≤ i then ns
    else if depth ≤ nodeDepth ns 16 i then State.draftTree s x limit depth branch zs n (i + 1) ns
    else
      let ok := fun v => s.allowed x (ns.getD i (0, 0, 0)).2.2 v && (s.stepState x (ns.getD i (0, 0, 0)).2.2 v).isSome
      let ns := (topLogits ok branch ((zs.getD i []).take (s.get .REEVE_MODEL REEVE_MODEL.VOCAB))).map (fun c => c.1.toNat) |>.foldl
        (fun (ns : List Node) v => match s.stepState x (ns.getD i (0, 0, 0)).2.2 v with
          | some st => if ns.length < limit then ns ++ [(v, i, st)] else ns
          | none => ns) ns
      State.draftTree s x limit depth branch zs n (i + 1) ns

/-- The tree of a request's next step; its root alone is a plain step. -/
def State.draft (s : State) (x : ReqX) (zs : List (List W32)) : List Node :=
  let cfg := Reg.REEVE_VARIANT_CFG x.variant
  let limit := s.get cfg REEVE_VARIANT_CFG.NODES + 1
  let depth := min (s.get cfg REEVE_VARIANT_CFG.DEPTH + 1) (x.emit - x.ids.length)
  let root : List Node := [(x.ids.getLastD 0, 255, x.gstate)]
  if !x.spec then root
  else if s.get cfg REEVE_VARIANT_CFG.DRAFT = 1 then
    (ngramProposals (x.prompt ++ x.ids) (s.get cfg REEVE_VARIANT_CFG.NGRAM + 1) (s.get cfg REEVE_VARIANT_CFG.WINDOW + 1)
      (depth - 1)).foldl (fun ns p => s.draftChain x limit p 0 ns) root
  else if s.get cfg REEVE_VARIANT_CFG.DRAFT = 2 then
    s.draftTree x limit depth (s.get cfg REEVE_VARIANT_CFG.BRANCH + 1) zs 64 0 root
  else root

/-! TAIL_STEP_START (R374, R375). -/

/-- NQ and NKV of a verification step's ATTNs, and its MASK 3 data row: parent bytes, 0xFF for the root (R190, R389). -/
def TailStep.nq (t : TailStep) : Nat := t.nodes.length
def ReqX.rootPos (x : ReqX) : Nat := x.promptLen + x.ids.length - 1
def State.stepNkv (s : State) (i : Nat) (t : TailStep) : Nat := (s.req i).rootPos + t.nq
def TailStep.maskRow (t : TailStep) : List Byte :=
  sliceD 0 (0xFF :: (t.nodes.drop 1).map fun n => BitVec.ofNat 8 n.2.1) 0 512

/-- The step a ready request starts: the first token's, or one with its draft. A tree of more than its root has staging for
every node (R389); each depth that the resident model drafts is a step of it (R388). -/
def State.newStep (s : State) (p : Nat) (x : ReqX) (zs : List (List W32)) : TailStep :=
  if x.ids.isEmpty then { part := p, first := true, gstate := x.gstate }
  else
    let ns := s.draft x zs
    let deep := (List.range ns.length).foldl (fun m i => max m (nodeDepth ns 64 i)) 1
    { part := p, nodes := ns, gstate := x.gstate
      draftSteps := if s.resident x then min deep (s.get (.REEVE_VARIANT_CFG x.variant) REEVE_VARIANT_CFG.DEPTH) else 0
      staging := if 1 < ns.length then ns.length else 0 }

/-- Requests in order for as long as their positions fit. -/
def State.batch (s : State) (p : Nat) (drafts : List (ReqId × List (List W32))) : List Nat → Nat → Nat → State
  | [], _, _ => s
  | i :: is, n, k =>
    let x := s.req i
    let t := s.newStep p x (((drafts.find? fun d => d.1.val = i).map fun d => d.2).getD [])
    let m := max 1 t.nodes.length
    if n + m ≤ 256 && k < 256 then
      State.batch (s.setReq i { x with part := p, step := some t, layer := 0, mask := s.maskAt x x.gstate }) p drafts is (n + m) (k + 1) else s

/-- The Skim path of a Vat of the partition is out, and what is ready is less than 256 tokens and younger than 50 µs: Reeve
gathers (R223, R375). -/
def State.gathers (s : State) (p : Nat) (is : List Nat) : Bool :=
  (s.vatsOf p).any (fun v => !s.skimAvail v) && is.length < 256 && is.all fun i => s.now.toNat < (s.req i).readyAt + 50000

def State.tailStart (s : State) (p : Nat) (drafts : List (ReqId × List (List W32))) : State :=
  if (s.passOn p).isSome || !(s.stepsOn p).isEmpty || s.closed.contains p || (s.vatsOf p).isEmpty then s else
  match s.byPrio (s.liveReqs.filter fun i => s.tailReady i && s.tailPart (s.req i) = p) with
  | [] => s
  | i :: is =>
    let l := (i :: is).filter fun j => (s.req j).variant = (s.req i).variant
    if s.gathers p l then s else s.batch p drafts l 0 0

def execTailStepStart (p : PartId) (drafts : List (ReqId × List (List W32))) (s : State) : Host.Outcome State Fault Refusal :=
  .next (s.tailStart p drafts)

/-! The choice (R378). -/

/-- log₂e to 255 bits; cs rounds once from the exact quotient. -/
def log2e : FpV := .fin false 0xb8aa3b295c17f0bbbe87fed0691d3e88eb577aa8dd695a588b25166cd1a13247 (-255)

/-- The running sums S. -/
def expSums (cs s0 : W32) : W32 → Bool → List Cand → List W32
  | _, _, [] => []
  | acc, first, c :: r =>
    let e := (rExp2 (fSub (fMul c.2 cs).1 s0).1).1
    let t := if first then e else (fAdd acc e).1
    t :: expSums cs s0 t false r

/-- The smallest prefix that reaches `lim`: at least 1. -/
def topPrefix (lim : W32) (ss : List W32) : Nat :=
  ((List.range ss.length).find? fun i => !(f32 (ss.getD i 0)).lt (f32 lim)).map (· + 1) |>.getD ss.length

/-- `select_token`; none where there is no candidate. -/
def selectToken (x : ReqX) (row : List Cand) (k : Nat) : Option Nat :=
  let c := row.takeWhile fun e => e.1 ≠ 0xFFFFFFFF
  let r := (genNext (genSeed x.seed (0x80000000 + k))).1.toNat / 256
  match c with
  | [] => none
  | c0 :: _ =>
    if (f32 x.temp).isZero || c0.2 = f32Inf || c0.2 = f32NegInf then some c0.1.toNat
    else
      let cs := (toF32 (log2e.div (f32 x.temp)).1).1
      let s0 := (fMul c0.2 cs).1
      if s0 = f32Inf || s0 = f32NegInf then some c0.1.toNat
      else
        let ss := expSums cs s0 0 true c
        let lim := (fMul x.topp (ss.getLastD 0)).1
        let m := topPrefix lim ss
        let u := (toF32 (.fin false r (-24))).1
        let t := (fMul u (ss.getD (m - 1) 0)).1
        let i := ((List.range m).find? fun i => (f32 t).lt (f32 (ss.getD i 0))).getD (m - 1)
        some (c.getD i c0).1.toNat

/-- Whether a token ends emission (R385); `k` tokens stand before it. -/
def State.endsAt (s : State) (x : ReqX) (k st v : Nat) : Bool :=
  k + 1 = x.emit || (v = s.get .REEVE_MODEL REEVE_MODEL.STOP_ID && v ≠ 0xFFFFFFFF) || (x.maskKind = 2 && s.gramEnd x.grammar st)

/-- The walk (R389): ids, states and accepted nodes so far; none at the end marks a selection without a candidate. Each node
selects under the mask of the state reached at it (R383). -/
def State.walk (s : State) (x : ReqX) (ns : List Node) (zs : List (List W32)) : Nat → Nat → TailStep → TailStep × Bool
  | 0, _, t => (t, true)
  | n + 1, node, t =>
    match selectToken x (s.candRow x t.gstate (zs.getD node [])) (x.ids.length + t.ids.length) with
    | none => (t, false)
    | some v =>
      let st := (s.stepState x t.gstate v).getD t.gstate
      let ends := s.endsAt x (x.ids.length + t.ids.length) st v
      let t := { t with ids := t.ids ++ [v], gstate := st, path := t.path ++ [node], ends := ends }
      if ends then (t, true) else
      match childOf ns node v with
      | some c => State.walk s x ns zs n c t
      | none => (t, true)

/-- Write the chosen ids and EMITTED (R287, R376). -/
def State.writeIds (s : State) (i : Nat) (ids : List Nat) : State :=
  let x := s.req i
  let s := s.writeResult i (64 + 4 * x.ids.length) (ids.flatMap (leBytes 4))
  s.writeResult i 4 (leBytes 4 (x.ids.length + ids.length))

/-- The rows compaction copies, node and position (R390): of the root and of each accepted node whose token is not the last
one emitted; none where nothing was drafted. -/
def compactCopies (t : TailStep) (root : Nat) : List (Nat × Nat) :=
  if t.nodes.length ≤ 1 then []
  else (t.path.take (max 1 t.ids.length)).zipIdx.map fun x => (x.1, root + x.2)

/-- TOKEN_SELECT: the step's tokens are chosen from the logits of its positions, node by node, and compaction begins; a
selection without a candidate ends the request behind the tokens before it (R385). The ids are written with the commit, which
a CANCEL may still forestall (R295, R376). -/
def State.tokenSelect (s : State) (i : Nat) (zs : List (List W32)) : State :=
  let x := s.req i
  match x.step with
  | none => s
  | some t =>
    if t.chosen then s else
    let (u, ok) := s.walk x t.nodes zs 65 0 { t with ids := [], path := [], gstate := x.gstate }
    if ok then s.setReq i { x with
      mask := s.maskAt x u.gstate
      step := some { u with chosen := true, compacting := 1 < t.nodes.length, copies := compactCopies u x.rootPos } }
    else ((s.writeIds i u.ids).setReq i { x with ids := x.ids ++ u.ids, tokens := x.tokens + u.ids.length }).reqFail i eMaskInvalid

def execTokenSelect (r : ReqId) (zs : List (List W32)) (s : State) : Host.Outcome State Fault Refusal :=
  .next (s.tokenSelect r zs)

/-- SPEC_COMPACTION_DONE (R390): the copies stand at their positions and every staging row is free. -/
def execSpecCompactionDone (r : ReqId) (s : State) : Host.Outcome State Fault Refusal :=
  .next (match (s.req r.val).step with
    | some t => if t.compacting then s.setReq r.val { s.req r.val with step := some { t with compacting := false, staging := 0, copies := [] } } else s
    | none => s)

/-! Layers (R285, R286, R326): when a layer completes is time, so at each idle tick a free value says whether it does. -/

/-- The rest of a request's LAYER: written when it has changed, at most once per 10 µs. -/
def State.showLayer (s : State) (i : Nat) : State :=
  let x := s.req i
  if x.shown = x.layer || x.shownAt.any (fun t => s.now.toNat < t + 10000) then s
  else (s.setReq i { x with shownAt := some s.now.toNat }).writeStatus i

/-- A Sheaf member has written a layer's keys and values of its own chunks: each goes to the next rank, in chunk order, under
STEP = layer × 2N + chunk (R466, R467). The rows stand where the programs put them, so their bytes are free (log 2). -/
def State.shOwnChunks (s : State) (i l : Nat) : State :=
  match s.shReq i with
  | none => s
  | some o =>
    let n := s.shN o.d
    let m := s.shMy o.d
    let len := (s.req i).promptLen
    let c := shareChunk len n
    if n ≤ 1 then s else
    [m, 2 * n - 1 - m].foldl (fun (s : State) q =>
      let (bs, s) := s.freshBytes ((min ((q + 1) * c) len - min (q * c) len) * s.geom.heads * 4 * s.geom.hd)
      let ps := groupsOf (2 * chunkLen) bs.length bs
      (List.range ps.length).foldl (fun s j => s.shChunk o.d o.k ((m + 1) % n) (l * 2 * n + q) j [] (ps.getD j [])) s) s

/-- A layer of a pass completes: its pages are queued, a Sheaf member's chunks go round the ring, the inputs of the next layer are
kept. -/
def State.passLayer (s : State) (q : Pass) : State :=
  let s := q.members.foldl (fun s m =>
    let s := (s.queueLayers m.1 m.2 [q.layers]).shOwnChunks m.1 q.layers
    s.setReq m.1 { s.req m.1 with layer := q.layers + 1 }) s
  s.setPass { q with layers := q.layers + 1, inputs := (s.vatsOf q.part).map s.saveVat }

/-- A layer of the tail step of request `i` completes. -/
def State.stepLayer (s : State) (i : Nat) : State :=
  let x := s.req i
  match x.step with
  | some t => if t.layers < s.geom.layers && !t.chosen
      then s.setReq i { x with layer := t.layers + 1, step := some { t with layers := t.layers + 1 } } else s
  | none => s

/-- A coin that the spec does not toss (log 2). -/
def State.coin (s : State) : Bool × State := ((Config.freeWord s.free).getLsbD 0, { s with free := s.free + 1 })

/-- What passes and tail steps do at a tick. -/
def State.layerTick (s : State) : State :=
  let s := s.passes.foldl (fun (s : State) q =>
    if q.paused || s.geom.layers ≤ q.layers then s else
    let (b, s) := s.coin
    if b then s.passLayer q else s) s
  let s := (s.liveReqs.filter fun i => (s.req i).step.isSome).foldl (fun (s : State) i =>
    let (b, s) := s.coin
    if b then s.stepLayer i else s) s
  s.liveReqs.foldl (fun s i => s.showLayer i) s

/-! TAIL_STEP_COMMIT (R376). -/

/-- One request's step commits. -/
def State.commitStep (s : State) (i : Nat) : State :=
  let x := s.req i
  match x.step with
  | none => s
  | some t =>
    if !t.chosen || t.compacting then s else
    let ids := x.ids ++ t.ids
    let s := s.writeIds i t.ids
    let s := if x.ids.isEmpty then s.writeResult i 24 (leBytes 8 s.now.toNat) else s
    let s := s.setReq i { x with
      ids := ids, tokens := x.tokens + t.ids.length, gstate := t.gstate, step := none, layer := 0, readyAt := s.now.toNat }
    let cached := x.promptLen + ids.length - 1
    if t.ends then s.commitRecord i cached else (s.queueFull i cached).writeStatus i

def State.tailCommit (s : State) (p : Nat) : State := ((s.stepsOn p).foldl (fun s i => s.commitStep i) s).settleDuty p

def execTailStepCommit (p : PartId) (s : State) : Host.Outcome State Fault Refusal :=
  .next (s.tailCommit p)

end Sys2Proof.Machine
end

