-- ==== Sys2Proof/Machine/RegRules.lean ====
section
/-! DEFINITION. The ranges of register values (R31, R107, R110, R111, R164, R165, R237, R309, R314, R357, R361, R363,
R370, R399, R401, R430, R440, R503, R563, R602, R611, R622, R626): shared by the register bus and by the check of a
Layout Image (R488). -/

namespace Sys2Proof.Machine

/-- The entries of the Vat map in its two words: VALID and PHYS of logical Vats 0 to 15 (R30). -/
def mapEntries (lo hi : W64) : List (Bool × Nat) :=
  (List.range 16).map fun v =>
    let w := if v < 8 then lo else hi
    ((mapValid v).get w = 1, (mapPhys v).get w)

/-- Whether any two of the list are equal. -/
def hasDup : List Nat → Bool
  | [] => false
  | x :: xs => xs.contains x || hasDup xs

/-- R31: no PHYS above 17, no position twice. -/
def mapOk (es : List (Bool × Nat)) : Bool :=
  es.all (fun e => e.2 < 18) && !hasDup ((es.filter fun e => e.1).map Prod.snd)

/-- R110: no POS above 256, no position twice. -/
def remapOk (w : W64) : Bool :=
  VAT_LANE_REMAP.S0_POS.get w ≤ 256 && VAT_LANE_REMAP.S1_POS.get w ≤ 256 &&
    !(VAT_LANE_REMAP.S0_VALID.get w = 1 && VAT_LANE_REMAP.S1_VALID.get w = 1 &&
      VAT_LANE_REMAP.S0_POS.get w = VAT_LANE_REMAP.S1_POS.get w)

/-- R237: no LBANK twice. -/
def bankMapOk (w : W64) : Bool :=
  !hasDup (((List.range 4).filter fun i => (bmValid i).get w = 1).map fun i => (bmBank i).get w)

/-- R430: what each port may be set to; `eth` is fuse OPT.ETH_EN. -/
def portCfgOk (eth : Bool) (p : Nat) (w : W64) : Bool :=
  (THR_PORT_CFG.MODE.get w ≠ 2 || ((p = 15 || p = 16) && eth)) &&
    (THR_PORT_CFG.RATE.get w = 0 || (11 ≤ p && p ≤ 14))

/-- R399, the Layout's own field NPRIV among them; `draft`: a draft model is resident. -/
def variantOk (draft : Bool) (w : W64) : Bool :=
  let d := REEVE_VARIANT_CFG.DRAFT.get w
  d ≠ 3 && (d ≠ 2 || draft) && REEVE_VARIANT_CFG.NPRIV.get w ≤ 64

/-- R401. -/
def modelOk (w : W64) : Bool :=
  1 ≤ REEVE_MODEL.VOCAB.get w && REEVE_MODEL.VOCAB.get w ≤ 262144 && REEVE_MODEL.NSHARED.get w ≤ 256 &&
    REEVE_MODEL.EXPERT_K.get w ≤ 8

/-- R363: a positive power of two from 2^-32 to 2^32. -/
def coarseOk (x : Nat) : Bool := x % 2 ^ 23 = 0 && 95 ≤ x / 2 ^ 23 && x / 2 ^ 23 ≤ 159

/-- The events of a unit (R603, R605-R607), and those MODE 1 can use. -/
def perfEvents (u : Nat) : List Nat :=
  if u < 16 then List.range 10 ++ [0x10, 0x11, 0x12, 0x13, 0x18, 0x19, 0x1A, 0x20, 0x21]
  else if u < 32 then List.range 7 ++ [0x10]
  else if u < 34 then List.range 10 ++ [0x10, 0x11]
  else List.range 12 ++ [0x10, 0x11]
def perfOcc (u : Nat) : List Nat := if u < 16 then [0x20, 0x21] else if u < 32 then [0x10] else [0x10, 0x11]

/-- R602, R611, R627. -/
def perfCfgOk (u : Nat) (w : W64) : Bool :=
  let e := PERF_CFG.EVENT.get w
  let m := PERF_CFG.MODE.get w
  (perfEvents u).contains e && m ≤ 1 && (m = 0 || (perfOcc u).contains e) && (PERF_CFG.SAMPLE.get w = 0 || u < 16)

/-- R164: what a context may be set to. -/
def ctxStatusOk (prog w : W64) : Bool :=
  let st := VAT_CTX_STATUS.STATE.get w
  let pc := VAT_CTX_STATUS.PC.get w
  !(1 ≤ st && st ≤ 3) && VAT_CTX_STATUS.DEPTH.get w ≤ 4 && VAT_CTX_PROG.BASE.get prog ≤ pc && pc ≤ VAT_CTX_PROG.LIMIT.get prog

/-- R165. -/
def ctxProgOk (w : W64) : Bool :=
  let b := VAT_CTX_PROG.BASE.get w
  let l := VAT_CTX_PROG.LIMIT.get w
  let e := VAT_CTX_PROG.ENTRY.get w
  b ≤ l && b ≤ e && e ≤ l

/-- What the value `w` of a register meets: a code, or 0 where no rule keeps it out. -/
def State.regRange (s : State) (r : Reg) (w : W64) : Nat :=
  let ok := fun (b : Bool) => if b then eOk else eLayoutInvalid
  match r with
  | .GLB_VAT_MAP_LO => ok (mapOk (mapEntries w (s.rd .GLB_VAT_MAP_HI)))
  | .GLB_VAT_MAP_HI => ok (mapOk (mapEntries (s.rd .GLB_VAT_MAP_LO) w))
  | .VAT_CHK_CTRL _ => ok (VAT_CHK_CTRL.POLICY.get w ≠ 3)
  | .VAT_LANE_REMAP _ => ok (remapOk w)
  | .VAT_CURD_SPLIT _ => ok (curdOk w)
  | .VAT_CTX_STATUS v c => ok (ctxStatusOk (s.rd (.VAT_CTX_PROG v c)) w)
  | .VAT_CTX_PROG _ _ => ok (ctxProgOk w)
  | .CELLAR_BANK_MAP _ => ok (bankMapOk w)
  | .REEVE_PART_CFG _ => ok (256 ≤ REEVE_PART_CFG.PASS_TOKENS.get w &&
      REEVE_PART_CFG.PACK_MIN.get w ≤ REEVE_PART_CFG.PASS_TOKENS.get w)
  | .REEVE_RING_CFG _ => ok (4 ≤ REEVE_RING_CFG.SIZE_LOG2.get w && REEVE_RING_CFG.SIZE_LOG2.get w ≤ 16)
  | .REEVE_VARIANT_CFG _ => ok (variantOk s.layout.draft w)
  | .KVX_PORT_NET _ => ok (KVX_PORT_NET.MTU.get w ≠ 3)
  | .KVX_DEST_CFG _ =>
    let f := KVX_DEST_CFG.FMT.get w
    if !(f = 0 || f = 1 || f = 4) || KVX_DEST_CFG.RM.get w = 3 then eFormatInvalid
    else ok (KVX_DEST_CFG.SLOTS_LOG2.get w ≤ 20)
  | .KVX_DEST_KEY _ => ok (coarseOk (KVX_DEST_KEY.COARSE.get w))
  | .PFX_FUNC_CFG _ => ok (1 ≤ PFX_FUNC_CFG.TTL_S.get w && PFX_FUNC_CFG.TTL_S.get w ≤ 86400)
  | .THR_PORT_CFG p => ok (portCfgOk (RST_FUSE.OPT.get (s.rd .RST_FUSE) / 2 % 2 = 1) p w)
  | .SHEAF_DEF_A _ => ok (s.shOk w)
  | .RST_WDT => ok (10 ≤ RST_WDT.TIMEOUT_MS.get w && RST_WDT.TIMEOUT_MS.get w ≤ 1000)
  | .PWR_CTRL => ok (85 ≤ PWR_CTRL.THERM_TARGET_C.get w && PWR_CTRL.THERM_TARGET_C.get w ≤ 105)
  | .PERF_DUMP_CFG => ok (1 ≤ PERF_DUMP_CFG.PERIOD_US.get w && PERF_DUMP_CFG.PERIOD_US.get w ≤ 1000000)
  | .PERF_BW_CFG => ok (1 ≤ PERF_BW_CFG.WIN_US.get w && PERF_BW_CFG.WIN_US.get w ≤ 1000)
  | .PERF_CFG u _ => ok (perfCfgOk u w)
  | _ => eOk

end Sys2Proof.Machine
end

