-- ==== Sys2Proof/Machine/Image.lean ====
section
/-! DEFINITION. The Layout Image: its format, its checks and what it says (R483-R488); the retirement record (R494). -/

namespace Sys2Proof.Machine

/-! The retirement record (R494): 1 Vat, 2 lane position, 3 bank, 4 HBM pseudo-channel. -/

/-- The retired Vat positions, and the retired subunits of a unit. -/
def State.retiredVats (s : State) : List Nat := (s.retired.filter fun e => reKind.get e = 1).map fun e => reUnit.get e
def State.retiredSubs (s : State) (kind unit : Nat) : List Nat :=
  (s.retired.filter fun e => reKind.get e = kind && reUnit.get e = unit).map fun e => rePos.get e

/-- A physical position fused off. -/
def State.fusedOff (s : State) (p : Nat) : Bool := s.boot.fuses.vatDis.getLsbD p

/-! The format (R483, R484, R487). -/

/-- A directory entry. -/
structure Sect where
  ty : Nat
  inst : Nat
  off : Nat
  len : Nat
  deriving DecidableEq, Repr

def imgLen (img : List Byte) : Nat := dfield img 8 4
def imgSects (img : List Byte) : List Sect :=
  (List.range (dfield img 6 2)).map fun k =>
    let a := 128 + 16 * k
    { ty := dfield img a 2, inst := dfield img (a + 2) 2, off := dfield img (a + 4) 4, len := dfield img (a + 8) 4 }
def imgSerial (img : List Byte) : Nat := dfield img 16 8
def imgPart (img : List Byte) : Nat := dfield img 24 1

def Sect.bytes (x : Sect) (img : List Byte) : List Byte := (img.drop x.off).take x.len
def sectsOf (img : List Byte) (ty : Nat) : List Sect := (imgSects img).filter fun x => x.ty = ty
def sectOf (img : List Byte) (ty : Nat) : List Byte := ((sectsOf img ty).head?.map fun x => x.bytes img).getD []

/-- Section types. -/
def stFw : Nat := 1
def stGlobal : Nat := 2
def stVatMap : Nat := 3
def stLaneMap : Nat := 4
def stPart : Nat := 5
def stGroup : Nat := 6
def stPorts : Nat := 7
def stSheaf : Nat := 8
def stModel : Nat := 9

/-- The region records behind byte 64 of a section. -/
def regionsIn (b : List Byte) : List Region :=
  (List.range (min (dfield b 32 4) ((b.length - 64) / 32))).map fun k =>
    let a := 64 + 32 * k
    { base := dfield b a 8, size := dfield b (a + 8) 8, kind := dfield b (a + 16) 1 }

def partIn (b : List Byte) : PartSec :=
  { vats := dfield b 0 2, group := dfield b 2 1, allowed := dfield b 3 1 % 8, duty := dfield b 3 1 / 16 % 4
    cls := dfield b 4 1, strict := dfield b 5 1 = 1, chk := dfield b 6 1, funcs := dfield b 8 8
    groups := dfield b 16 8, curd := BitVec.ofNat 64 (dfield b 24 8), regions := regionsIn b }

def groupIn (b : List Byte) : GroupSec :=
  { tailMin := dfield b 0 1, tailMax := dfield b 1 1, entriesLog2 := dfield b 2 1, blockKib := dfield b 4 2
    poolBlocks := dfield b 6 2, indexBase := dfield b 16 8, poolBase := dfield b 24 8, regions := regionsIn b }

/-- The 64-bit word at byte `o`, and `n` pairs of words from there. -/
def word64 (b : List Byte) (o : Nat) : W64 := BitVec.ofNat 64 (dfield b o 8)
def wordPairs (b : List Byte) (o n : Nat) : List (W64 × W64) :=
  (List.range n).map fun k => (word64 b (o + 16 * k), word64 b (o + 16 * k + 8))

def mapWords (b : List Byte) : List Nat := (List.range 16).map fun i => dfield b (2 * i) 2

/-- What a full image says. -/
def layoutOf (img : List Byte) : Layout :=
  let gl := sectOf img stGlobal
  let po := sectOf img stPorts
  let mo := sectOf img stModel
  let sh := sectOf img stSheaf
  { applied := true, serial := BitVec.ofNat 64 (imgSerial img), numVfs := dfield gl 0 1
    journal := dfield gl 8 8, journalSize := dfield gl 16 8, vatMap := mapWords (sectOf img stVatMap)
    laneMap := wordPairs (sectOf img stLaneMap) 0 18, ports := wordPairs po 0 18, thrCfg := word64 po 288
    inbound := wordPairs po 296 16, model := word64 mo 0, variants := wordPairs mo 8 128, draft := dfield mo 2056 1 = 1
    sheafs := (List.range (sh.length / 8)).map fun d => word64 sh (8 * d)
    parts := (sectsOf img stPart).map fun x => (x.inst, partIn (x.bytes img))
    groups := (sectsOf img stGroup).map fun x => (x.inst, groupIn (x.bytes img)) }

/-! The checks (R483-R485, R487). -/

/-- Signed length, alignment, room for the signature block. -/
def imgSized (img : List Byte) (part : Bool) : Bool :=
  let n := imgLen img
  n % 64 = 0 && n ≤ (if part then 65536 else 1835008) && n + 192 ≤ img.length

/-- The key is the fused signer's, or the part is BLANK; the signature verifies. -/
def State.imgSigned (s : State) (img : List Byte) : Bool :=
  let n := imgLen img
  let sig := (img.drop n).take 192
  let part := fun (k : Nat) => beNat ((sig.drop (48 * k)).take 48)
  let key := s.boot.fuses.secState = 0 || sha384 (sig.take 96) = beBytes 48 s.boot.fuses.keyHash.toNat
  key && ecdsaVerify (part 0) (part 1) (part 2) (part 3) (sha384 (img.take n))

/-- The header's fixed fields. -/
def State.imgHeader (s : State) (img : List Byte) (part : Bool) : Bool :=
  let stepping := s.get .GLB_ID GLB_ID.STEPPING
  dfield img 0 4 = 0x4C564C49 && dfield img 4 2 = 1 && 1 ≤ dfield img 6 2 && dfield img 6 2 ≤ 64 &&
    dfield img 12 2 = 0x016 && dfield img 14 1 / 2 ^ (stepping - 1) % 2 = 1 && dfield img 15 1 = part.toNat &&
    (part || imgPart img = 0) && ((img.drop 25).take 103).all fun b => b = 0

/-- The directory: alignment, bounds, zero bytes, no overlap. -/
def imgDirectory (img : List Byte) : Bool :=
  let l := imgSects img
  (List.range l.length).all (fun k => dfield img (140 + 16 * k) 4 = 0) &&
    l.all (fun x => x.off % 64 = 0 && x.off + x.len ≤ imgLen img) &&
    l.all fun x => l.all fun y => x = y || x.off + x.len ≤ y.off || y.off + y.len ≤ x.off

/-- No two sections of one type and instance. -/
def imgDistinct (img : List Byte) : Bool :=
  !hasDup ((imgSects img).map fun x => x.ty * 65536 + x.inst)

/-- A PART section as long as it says, with values that have a meaning. -/
def partBytesOk (b : List Byte) : Bool :=
  64 ≤ b.length && 64 + 32 * dfield b 32 4 ≤ b.length && dfield b 4 1 ≤ 1 && dfield b 5 1 ≤ 1 && dfield b 6 1 ≤ 2
def groupBytesOk (b : List Byte) : Bool := 64 ≤ b.length && 64 + 32 * dfield b 32 4 ≤ b.length

/-- The sections of a full image: which there must be, which there may be, their sizes, FW first. -/
def fullSections (img : List Byte) : Bool :=
  let l := imgSects img
  let one := fun (ty : Nat) => (sectsOf img ty).length = 1
  let fw := (sectsOf img stFw).head?.getD { ty := 0, inst := 0, off := 0, len := 0 }
  imgDistinct img && l.all (fun x => 1 ≤ x.ty && x.ty ≤ 9) && [stFw, stGlobal, stVatMap, stLaneMap, stPorts, stModel].all one &&
    (sectsOf img stSheaf).length ≤ 1 && (sectsOf img stPart ++ sectsOf img stGroup).all (fun x => x.inst < 16) &&
    fw.len ≤ 1048576 && l.all (fun x => fw.off ≤ x.off) &&
    24 ≤ (sectOf img stGlobal).length && 32 ≤ (sectOf img stVatMap).length && 288 ≤ (sectOf img stLaneMap).length &&
    552 ≤ (sectOf img stPorts).length && 2057 ≤ (sectOf img stModel).length && (sectOf img stSheaf).length ≤ 8192 &&
    (sectsOf img stPart).all (fun x => partBytesOk (x.bytes img)) &&
    (sectsOf img stGroup).all (fun x => groupBytesOk (x.bytes img)) &&
    (mapWords (sectOf img stVatMap)).all fun e => e / 2 ^ 14 % 2 = 0

/-! The rules of R488. -/

/-- Logical Vats a map makes valid, and the position of each. -/
def Layout.vats (l : Layout) : List Nat := (List.range 16).filter fun v => l.vatMap.getD v 0 / 2 ^ 15 = 1
def Layout.phys (l : Layout) (v : Nat) : Nat := l.vatMap.getD v 0 % 32

/-- The valid logical Vats of a PART section. -/
def Layout.vatsOf (l : Layout) (x : PartSec) : List Nat := l.vats.filter fun v => x.vats / 2 ^ v % 2 = 1

def regionOk (r : Region) : Bool :=
  r.base % 2097152 = 0 && r.size % 2097152 = 0 && r.base + r.size ≤ memTop && r.kind ≤ 3
def apart (r q : Region) : Bool := r.base + r.size ≤ q.base || q.base + q.size ≤ r.base
def allApart : List Region → Bool
  | [] => true
  | r :: rs => rs.all (apart r) && allApart rs

def Layout.regions (l : Layout) : List Region := l.parts.flatMap (fun x => x.2.regions) ++ l.groups.flatMap (fun x => x.2.regions)

/-- Vats of a serving group. -/
def Layout.groupVats (l : Layout) (g : Nat) : Nat :=
  ((l.parts.filter fun x => x.2.group = g).map fun x => (l.vatsOf x.2).length).foldl (· + ·) 0

def Layout.groupOk (l : Layout) (g : Nat) (x : GroupSec) : Bool :=
  let in3 := fun (a n : Nat) => inRegion (x.regions.filter fun r => r.kind = 3) a n
  x.tailMin ≤ x.tailMax && x.tailMax ≤ l.groupVats g && x.blockKib % 4 = 0 &&
    (x.entriesLog2 = 0 || (3 ≤ x.entriesLog2 && x.entriesLog2 ≤ 20 && in3 x.indexBase (64 * 2 ^ x.entriesLog2) &&
      in3 x.poolBase (x.poolBlocks * x.blockKib * 1024)))

/-- Functions name partitions of one group, and only functions that exist. -/
def Layout.funcOk (l : Layout) (f : Nat) : Bool :=
  let gs := (l.parts.filter fun x => x.2.funcs / 2 ^ f % 2 = 1).map fun x => x.2.group
  gs.isEmpty || (f ≤ l.numVfs && gs.all fun g => g = gs.headD 0)

/-- The rules of R488 over a whole layout; `back`: retired positions a partial image reinstates. -/
def State.layoutOk (s : State) (l : Layout) (back : List Nat) : Bool :=
  let ps := l.vats.map l.phys
  let journal : Region := { base := l.journal, size := l.journalSize, kind := 0 }
  let eth := s.boot.fuses.opt.getLsbD 1
  !hasDup ps && ps.all (fun p => p < 18 && !s.fusedOff p && (!s.retiredVats.contains p || back.contains p)) &&
    l.vats.all (fun v => (l.parts.filter fun x => x.2.vats / 2 ^ v % 2 = 1).length = 1) &&
    l.parts.all (fun x => !x.2.strict || (l.vatsOf x.2).length ≤ 4) &&
    l.regions.all regionOk && allApart (journal :: l.regions) &&
    l.groups.all (fun x => l.groupOk x.1 x.2) &&
    l.parts.all (fun x => x.2.duty ≤ 2 && x.2.allowed / 2 ^ x.2.duty % 2 = 1) &&
    l.numVfs ≤ 63 && 393216 ≤ l.journalSize && (List.range 64).all l.funcOk &&
    l.laneMap.all (fun w => remapOk w.1 && bankMapOk w.2) && l.variants.all (fun w => variantOk l.draft w.1) && modelOk l.model &&
    (List.range 18).all (fun p => portCfgOk eth p (l.ports.getD p (0, 0)).1) &&
    l.sheafs.all fun w => (s.wr .THR_GLB_CFG l.thrCfg).shOk w

/-- What a full image meets (R485, R488, R491): AUTH_FAIL for its signature, LAYOUT_INVALID otherwise, or 0. -/
def State.imgErr (s : State) (img : List Byte) : Nat :=
  if !imgSized img false then eLayoutInvalid
  else if !s.imgSigned img then eAuthFail
  else if !(s.imgHeader img false && imgDirectory img && fullSections img && s.layoutOk (layoutOf img) []) then eLayoutInvalid
  else eOk

/-! Partial images (R491). -/

/-- The running layout with the partial image's PART section and Vat map in place, and the positions it reinstates. -/
def State.patched (s : State) (img : List Byte) : Layout :=
  let p := imgPart img
  let sec := partIn (sectOf img stPart)
  let map := if (sectsOf img stVatMap).isEmpty then s.layout.vatMap
    else (mapWords (sectOf img stVatMap)).map fun e => e - e / 2 ^ 14 % 2 * 2 ^ 14
  { s.layout with vatMap := map, parts := (s.layout.parts.filter fun x => x.1 ≠ p) ++ [(p, sec)] }
def reinstated (img : List Byte) : List Nat :=
  ((mapWords (sectOf img stVatMap)).filter fun e => e / 2 ^ 14 % 2 = 1).map fun e => e % 32

/-- Positions no logical Vat of the running map holds, not fused off and not retired. -/
def State.freePhys (s : State) : List Nat :=
  (List.range 18).filter fun p => !s.fusedOff p && !s.retiredVats.contains p && (s.logical p).isNone

/-- What a partial image meets at steps 1 to 3. -/
def State.partErr (s : State) (img : List Byte) : Nat :=
  let p := imgPart img
  let l := s.patched img
  let back := reinstated img
  let was := s.vatsOf p
  let now := l.vatsOf (partIn (sectOf img stPart))
  let moved := fun (v : Nat) => l.vatMap.getD v 0 ≠ s.layout.vatMap.getD v 0
  let secs := p < 16 && imgDistinct img && (sectsOf img stPart).length = 1 && (sectsOf img stPart).all (fun x => x.inst = p) &&
    (sectsOf img stVatMap).length ≤ 1 && (imgSects img).all (fun x => x.ty = stPart || x.ty = stVatMap) &&
    partBytesOk (sectOf img stPart) && ((sectsOf img stVatMap).isEmpty || 32 ≤ (sectOf img stVatMap).length)
  let maps := (List.range 16).all fun v => !moved v ||
    (was.contains v != now.contains v &&
      (!l.vats.contains v || l.phys v = s.phys v || (s.freePhys ++ back).contains (l.phys v)))
  let group := s.layout.groups.any (fun x => x.1 = (partIn (sectOf img stPart)).group) ||
    s.layout.parts.any fun x => x.1 ≠ p && x.2.group = (partIn (sectOf img stPart)).group
  if !imgSized img true then eLayoutInvalid
  else if !s.imgSigned img then eAuthFail
  else if !(s.imgHeader img true && imgDirectory img && secs && maps && group && s.layoutOk l back) then eLayoutInvalid
  else eOk

end Sys2Proof.Machine
end

