-- ==== Sys2Proof/Machine/Boot.lean ====
section
/-! DEFINITION. Power-up and reset (R476-R482, R486, R489, R494-R499, R532): the phases, the image applied, the levels of
reset and what each leaves. -/

namespace Sys2Proof.Machine

/-- The phase of the sequence; RST_STATUS shows 7 for the phases of a core reset (R502). -/
def State.setPhase (s : State) (n : Nat) : State :=
  let s := { s with boot := { s.boot with phase := n } }
  s.put .RST_STATUS RST_STATUS.PHASE (if s.boot.level = some 2 ∧ n < 5 then 7 else n)

/-- ERR_DEGRADED changes (R542, R577, R597). -/
def State.degrade (s : State) (g : W64 → W64) : State :=
  let w := g (s.rd .ERR_DEGRADED)
  if w = s.rd .ERR_DEGRADED then s
  else ((s.wr .ERR_DEGRADED w).put .MGMT_ALERT MGMT_ALERT.DEGRADED 1).raiseMsi 0 1

/-! Power domains (R26, R27, R476). -/

/-- The domains the power sequencer ramps in P0, beside the always-on one. -/
def p0Doms : List Domain := [.fuses, .flash, .reeve, .regBus]

/-- Those it switches on before firmware starts (R27); R476 gives no moment (log 147). -/
def p3Doms : List Domain :=
  (List.range 18).map Domain.periphery ++ [.thresher, .pcieCtl, .pciePhy, .clocks] ++
  (List.range 18).flatMap (fun i => [Domain.portLogic i, .portSerdes i]) ++
  (List.range 6).flatMap fun h => [Domain.hbmCtl h, .hbmPhy h] ++ (List.range 4).map (Domain.hbmRail h)

/-- The 207 domains of R26. -/
def allDoms : List Domain :=
  (List.range 18).flatMap (fun p => vatDoms p ++ (List.range 4).map (Domain.group p)) ++ p0Doms ++ p3Doms ++ [.alwaysOn]

/-! P0 and P1. -/

/-- P1 begins once power is good and nothing holds it: fuses are to be read, the straps are sampled, BPRES is driven
(R403, R426, R476, R639). -/
def State.enterP1 (s : State) : State :=
  let b := s.boot
  if b.phase ≠ 0 || !b.good || b.pinLow || b.hot then s else
  let s := { s with boot := { b with tries := 0, fuses := Fuses.blank } }.setPhase 1
  let s := s.put .THR_GLB_ID THR_GLB_ID.MODULE (b.bpos * 8 + b.slot)
  let s := s.put .THR_GLB_ID THR_GLB_ID.SLOT b.slot
  (s.put .MGMT_STATUS MGMT_STATUS.ADDR (0x60 + b.slot)).electMaster

/-- P1 starts again from its beginning (R478); a reset does not spare FUSE_BAD (R495). -/
def State.restartP1 (s : State) : State := ((s.put .RST_STATUS RST_STATUS.FUSE_BAD 0).setPhase 0).enterP1

/-! What each level leaves (R495). -/

/-- Everything at reset but what lies outside the module, in its flash, or is the model's own. -/
def State.bare (s : State) : State :=
  { State.reset with
    pending := s.pending, host := s.host, flash := s.flash, retired := s.retired, sent := s.sent, geom := s.geom, free := s.free
    bpresLost := s.bpresLost
    boot := { pinLow := s.boot.pinLow, slot := s.boot.slot, bpos := s.boot.bpos } }

/-- RST_CAUSE and RST_TIME record a reset (R496, R500, R501, R597). -/
def State.recordReset (s : State) (cause level detail : Nat) (at_ : W64) : State :=
  let w := RST_CAUSE.CAUSE.put 0 cause
  let w := RST_CAUSE.LEVEL.put w level
  let s := (s.wr .RST_CAUSE (RST_CAUSE.DETAIL.put w detail)).wr .RST_TIME at_
  s.put .MGMT_ALERT MGMT_ALERT.RESET 1

def State.powerOnReset (s : State) : State := s.bare

/-- Every row of every Cellar is DIRTY, spare banks with them (R224). -/
def wholeDirty : Tab Dirty := (List.range (16 * 132)).map fun k => (k, { all := true })

/-- System reset: restarts at P1, once no pin and no heat holds it in P0. -/
def State.systemReset (s : State) (cause detail : Nat) : State :=
  let t := s.bare
  let t : State := { t with
    tapStatus := s.tapStatus, tapData := s.tapData, tapUnlocked := s.tapUnlocked
    doms := p0Doms, dirty := wholeDirty
    boot := { t.boot with input := true, granted := true, good := true, hot := s.boot.hot, cool := s.boot.cool, level := some 1 } }
  let t := t.wr .GLB_TIME s.now
  let t := t.put .RST_STATUS RST_STATUS.LFAIL (s.get .RST_STATUS RST_STATUS.LFAIL)
  let t := t.put .RST_STATUS RST_STATUS.EPOCH (s.get .RST_STATUS RST_STATUS.EPOCH)
  (t.recordReset cause 1 detail s.now).enterP1

/-- P2 begins: slot A is read. -/
def State.enterP2 (s : State) : State :=
  let s := { s with boot := { s.boot with imgSlot := 0, bad := 0 } }.setPhase 2
  let w := LAYOUT_STATUS.STATE.put (s.rd .LAYOUT_STATUS) 1
  let w := LAYOUT_STATUS.SLOT.put w 0
  let w := LAYOUT_STATUS.SINGLE.put w 0
  let w := LAYOUT_STATUS.UNKEYED.put w 0
  s.wr .LAYOUT_STATUS (LAYOUT_STATUS.BUSY.put w 0)

/-- What the journal region holds (R498): the live requests; the sequence state of each enabled destination. -/
def State.journalOf (s : State) : List (Nat × ReqX) := s.reqs.filter fun (p : Nat × ReqX) => p.2.live
def State.seqsOf (s : State) : List (Nat × W64 × W64 × Nat) :=
  ((List.range 4096).filter fun d => s.get (.KVX_DEST_CFG d) KVX_DEST_CFG.ENABLE = 1).map fun d =>
    (d, s.rd (.KVX_DEST_SEQ d), s.rd (.KVX_DEST_CREDIT d), (s.dest d).psn)

/-- The blocks of registers a core reset resets. -/
def coreBlocks : List (Nat × Nat) :=
  [(0x30000, 0x40000), (0x50000, 0x60000), (0x61000, 0x63000), (0x64000, 0x64200), (0x80000, 0x100000), (0x100000, 0x500000),
    (0x500000, 0x600000), (0x600000, 0x700000), (0xA00000, 0xB00000), (0xB00000, 0xC00000)]

/-- Core reset: Vats, Cellars, Wagons, Reeve and its SRAM, KVX and PFX; restarts at P2. -/
def State.coreReset (s : State) (cause detail : Nat) : State :=
  let journal := s.journalOf
  let seqs := s.seqsOf
  let lo := rowAddr 0 0
  let hi := rowAddr 16 0
  let s := s.claims.foldl (fun (s : State) c => match c.holder with
    | .window v w => s.closeWindow v w
    | _ => s) s
  let t := coreBlocks.foldl (fun s r => s.resetRegs r.1 r.2) s
  let t := match s.relaying with
    | some r => t.put (.SEC_CMD_CTRL r.cls) SEC_CMD_CTRL.GO 0
    | none => t
  let queue := match s.relaying with
    | some r => s.sec.queue.filter fun k => k ≠ r.cls
    | none => s.sec.queue
  let t : State := { t with
    mem := Tab.clear lo hi s.mem, poison := Tab.clear (lo / 64) (hi / 64) s.poison, sram := [], prog := [], curd := [], vats := []
    dirty := wholeDirty, withdrawn := [], claims := [], streams := [], tags := [], tagWait := [], tagTurn := 15, dnet := [], gets := []
    layout := {}, reqs := [], passes := []
    packDue := [], closed := [], order := 0, dests := [], pfcPaused := [], tenant := [], fills := [], budgetRem := [], duty := []
    dutyWant := [], mboxFunc := 0, getRetry := [], rings := [], ringTurn := 63, relaying := none
    launches := s.launches.filter fun (l : Launch) => l.req.isNone
    ops := s.ops.filter fun (o : ShOp) => o.req.isNone
    sec := { s.sec with queue := queue }
    boot := { s.boot with journal := journal, seqs := seqs, level := some 2 } }
  (t.recordReset cause 2 detail s.now).enterP2

/-- A reset is asked for (R478, R499): P0 completes; P1 restarts; within a sequence an equal or shallower one is absorbed,
unless the rule that raises it says otherwise (`forced`). -/
def State.resetReq (s : State) (cause level detail : Nat) (forced : Bool := false) : State :=
  if s.boot.phase = 0 then s
  else if s.boot.phase = 1 then s.restartP1
  else if s.boot.level.any (fun l => l ≤ level) && !forced then s
  else if level = 1 then s.systemReset cause detail else s.coreReset cause detail

/-! Causes (R496). -/
def rcExtPin : Nat := 1
def rcHost : Nat := 2
def rcMgmt : Nat := 3
def rcWdt : Nat := 4
def rcTherm : Nat := 5
def rcSec : Nat := 6
def rcLayout : Nat := 7

def execInputPowerUp (s : State) : Host.Outcome State Fault Refusal :=
  .next (if s.boot.phase = 0 && !s.boot.good then { s with boot := { s.boot with input := true } } else s)

def execBseqGrant (s : State) : Host.Outcome State Fault Refusal :=
  .next (if s.boot.phase = 0 && !s.boot.good then { s with boot := { s.boot with granted := true } } else s)

/-- BSEQ_TIMEOUT: the module proceeds without a grant (R635). -/
def execBseqTimeout (s : State) : Host.Outcome State Fault Refusal :=
  .next (if s.boot.phase = 0 && s.boot.input && !s.boot.good then { s with boot := { s.boot with granted := true } } else s)

/-- POWER_GOOD: P0 ends; P1 samples the straps at these levels. -/
def State.powerGood (s : State) (slot bpos : Nat) : State :=
  if s.boot.phase = 0 && s.boot.input && s.boot.granted && !s.boot.good then
    { s.switchOn p0Doms with boot := { s.boot with good := true, slot := slot, bpos := bpos } }.enterP1
  else s

def execPowerGood (slot : BitVec 3) (bpos : BitVec 13) (s : State) : Host.Outcome State Fault Refusal :=
  .next (s.powerGood slot.toNat bpos.toNat)

/-- Bits [hi:lo] of the fuse array's entries for physical Vat `p`. -/
def fuseLanes (f : Fuses) (p : Nat) : Nat := f.laneDis.toNat / 2 ^ (20 * p) % 2 ^ 20
def fuseBanks (f : Fuses) (p : Nat) : Nat := f.bankDis.toNat / 2 ^ (32 * p) % 2 ^ 32

/-- The fuse mirror as registers show it (R505, R506, R536, R550). -/
def State.mirror (s : State) (f : Fuses) : State :=
  let s := { s with boot := { s.boot with fuses := f } }
  let w := RST_FUSE.SEC_STATE.put 0 f.secState.toNat
  let w := RST_FUSE.OPT.put w (f.opt.toNat % 8)
  let s := s.wr .RST_FUSE (RST_FUSE.VAT_DIS.put w f.vatDis.toNat)
  let s := (List.range 18).foldl (fun s p =>
    s.wr (.RST_FUSE_UNIT p) (BitVec.ofNat 64 (fuseLanes f p + fuseBanks f p * 2 ^ 20))) s
  let s := s.put .SEC_STATUS SEC_STATUS.SEC_STATE f.secState.toNat
  s.put .PWR_CLOCK PWR_CLOCK.F_MAX_MHZ (if f.opt.getLsbD 0 then 1850 else 1600)

/-- FUSE_READ_DONE (R478, R479). -/
def State.fuseRead (s : State) (a b : Fuses) : State :=
  if s.boot.phase ≠ 1 || s.get .RST_STATUS RST_STATUS.FUSE_BAD = 1 then s
  else if a ≠ b then
    let s := { s with boot := { s.boot with tries := s.boot.tries + 1 } }
    if s.boot.tries = 3 then s.put .RST_STATUS RST_STATUS.FUSE_BAD 1 else s
  else
    let s := s.mirror a
    if a.secState = 3 then s.resetReq rcSec 1 0 else s.enterP2

def execFuseReadDone (a b : Fuses) (s : State) : Host.Outcome State Fault Refusal :=
  .next (s.fuseRead a b)

/-! P2 (R481, R482, R485, R486). -/

def State.flashBytes (s : State) (a n : Nat) : List Byte := Tab.getAll flashByte s.flash a n

/-- The image in a flash slot with its signature block. -/
def State.slotImage (s : State) (slot : Nat) : List Byte :=
  let a := 0x200000 * slot
  let n := imgLen (s.flashBytes a 128)
  s.flashBytes a (min 0x200000 (n + 192))

/-- A release after a system or core reset (R502); the sequence ends. -/
def State.endSequence (s : State) : State :=
  let s := if s.boot.level = some 1 || s.boot.level = some 2
    then s.put .RST_STATUS RST_STATUS.EPOCH (s.get .RST_STATUS RST_STATUS.EPOCH + 1) else s
  { s with boot := { s.boot with level := none } }

/-- Release in recovery (R482): Reeve runs no firmware, and its STATE is stopped (R307). -/
def State.recover (s : State) : State :=
  let s := (s.endSequence.setPhase 6).put .REEVE_STATUS REEVE_STATUS.STATE 3
  s.wr .LAYOUT_STATUS (LAYOUT_STATUS.SLOT.put (LAYOUT_STATUS.STATE.put (s.rd .LAYOUT_STATUS) 3) 2)

/-- P2 fails: a system reset the first time, recovery while LFAIL is set. -/
def State.layoutFail (s : State) : State :=
  if s.get .RST_STATUS RST_STATUS.LFAIL = 1 then s.recover
  else (s.systemReset rcLayout s.boot.bad).put .RST_STATUS RST_STATUS.LFAIL 1

/-- The slot being read is bad: the other one, or failure; firmware that P3 had started stops. -/
def State.slotBad (s : State) (code : Nat) : State :=
  let s := s.put .LAYOUT_STATUS LAYOUT_STATUS.LAST_ERR code
  let k := s.boot.imgSlot
  let s := { s with boot := { s.boot with bad := s.boot.bad + 2 ^ k } }
  let s := s.put .REEVE_STATUS REEVE_STATUS.STATE 0
  if k = 0 then ({ s with boot := { s.boot with imgSlot := 1 } }.setPhase 2).put .LAYOUT_STATUS LAYOUT_STATUS.SLOT 1
  else s.layoutFail

/-- The image is accepted: header and directory kept, FW moved to 0, firmware starts, whose version the spec does not give
(log 2); P3 and its watchdog begin. -/
def State.accept (s : State) (img : List Byte) : State :=
  let n := imgLen img
  let t := Tab.setAll zeroByte [] 0 (img.take n)
  let t := Tab.setAll zeroByte t 0x1C0000 (img.take (128 + 16 * dfield img 6 2))
  let t := Tab.setAll zeroByte t 0 (sectOf img stFw)
  let s : State := { s with sram := t, layout := { layoutOf img with applied := false } }
  let s := s.put .LAYOUT_STATUS LAYOUT_STATUS.UNKEYED (if s.boot.fuses.secState = 0 then 1 else 0)
  let s := (s.switchOn p3Doms).put .REEVE_STATUS REEVE_STATUS.STATE 1
  let (n, s) := s.fresh
  let s := s.put .REEVE_STATUS REEVE_STATUS.FW_MAJOR ((Config.freeWord n).toNat % 256)
  let s := s.put .REEVE_STATUS REEVE_STATUS.FW_MINOR ((Config.freeWord n).toNat / 256 % 256)
  { s with boot := { s.boot with wdt := s.now.toNat } }.setPhase 3

/-- IMAGE_CHECK_DONE: an image that fails on the octal path is judged by a single-lane read. -/
def State.imageCheck (s : State) (probe octal : Bool) : State :=
  if s.boot.phase ≠ 2 then s else
  let img := s.slotImage s.boot.imgSlot
  let e := s.imgErr img
  let s := if !probe || !octal || e ≠ 0 then s.put .LAYOUT_STATUS LAYOUT_STATUS.SINGLE 1 else s
  if e = 0 then s.accept img else s.slotBad e

def execImageCheckDone (probe octal : Bool) (s : State) : Host.Outcome State Fault Refusal :=
  .next (s.imageCheck probe octal)

/-! The persisted counters (R532). -/

def recAddr (n : Nat) : Nat := 0x410000 + n % 2 * 0x8000 + n / 2 % 32 * 0x400

/-- The newest valid record: its number and its marks. -/
def State.newestRecord (s : State) : Option (Nat × List W64) :=
  let recs := (List.range 64).filterMap fun k =>
    let b := s.flashBytes (0x410000 + k * 0x400) 524
    if dfield b 520 4 = (crc32c (b.take 520)).toNat then some (dfield b 0 8, (List.range 64).map fun i => word64 b (8 + 8 * i))
    else none
  recs.foldl (fun (best : Option (Nat × List W64)) r => match best with
    | some b => if b.1 < r.1 then some r else best
    | none => some r) none

def State.mark (s : State) (k : Nat) : W64 := Tab.get (fun _ => 0) s.sec.high k
def State.setMark (s : State) (k : Nat) (x : W64) : State :=
  { s with sec := { s.sec with high := Tab.set (fun _ => 0) s.sec.high k x } }

/-- The bytes of record `n` (R532). -/
def State.markBytes (s : State) (n : Nat) : List Byte :=
  let b := leBytes 8 n ++ (List.range 64).flatMap fun k => leBytes 8 (s.mark k).toNat
  b ++ leBytes 4 (crc32c b).toNat ++ List.replicate 500 0

/-- Write the next record, in the other half. -/
def State.writeRecord (s : State) : State :=
  { s with flash := Tab.setAll flashByte s.flash (recAddr (s.sec.recSeq + 1)) (s.markBytes (s.sec.recSeq + 1))
           sec := { s.sec with recSeq := s.sec.recSeq + 1 } }

/-- The leap of P3: LAST = H, and H moves on by 2^16. -/
def State.leap (s : State) : State :=
  let r := s.newestRecord.getD (0, List.replicate 64 0)
  let s := { s with sec := { s.sec with recSeq := r.1 } }
  let s := (List.range 64).foldl (fun s k =>
    let h := r.2.getD k 0
    (s.wr (.SEC_SLOT_LAST k) h).setMark k (h + 65536)) s
  s.writeRecord

/-! P3 (R480, R489, R498). -/

/-- Put a lane position, or a bank, out of service in a remap table: a spare that serves a column hands it to the other
one (R97, R110). -/
def addLane (w : W64) (pos : Nat) : W64 :=
  if pos < 257 && laneOf w pos ≠ pos then w else retirePos w pos
def addBank (w : W64) (b : Nat) : W64 :=
  if (List.range 4).any fun i => (bmValid i).get w = 1 && (bmBank i).get w = b then w
  else match (List.range 4).find? fun i => (bmValid i).get w = 0 && (bmBad i).get w = 0 with
    | some i => (bmBank i).put ((bmValid i).put w 1) b
    | none => w

/-- Lane positions and banks fused off at a position. -/
def lanesFused (f : Fuses) (p : Nat) : List Nat :=
  ([0, 1].map fun k => fuseLanes f p / 2 ^ (10 * k) % 1024).filterMap fun e => if e / 512 = 1 then some (e % 512) else none
def banksFused (f : Fuses) (p : Nat) : List Nat :=
  ([0, 1, 2, 3].map fun k => fuseBanks f p / 2 ^ (8 * k) % 256).filterMap fun e => if e / 128 = 1 then some (e % 128) else none

/-- Load the remap tables of a position: LANEMAP, the fuses and the retirement record. A bank out of service that finds
no spare is withdrawn (R233, R494). -/
def State.loadMaps (s : State) (v p : Nat) : State :=
  let w := s.layout.laneMap.getD p (0, 0)
  let lanes := lanesFused s.boot.fuses p ++ s.retiredSubs 2 p
  let banks := banksFused s.boot.fuses p ++ s.retiredSubs 3 p
  let m := banks.foldl addBank (w.2 &&& (Reg.CELLAR_BANK_MAP v).writable)
  let lost := banks.eraseDups.filter fun b => (List.range 4).all fun i => (bmValid i).get m = 0 || (bmBank i).get m ≠ b
  let s := (s.wr (.VAT_LANE_REMAP v) (lanes.foldl addLane (w.1 &&& (Reg.VAT_LANE_REMAP v).writable))).wr (.CELLAR_BANK_MAP v) m
  { s with withdrawn := (s.withdrawn.filter fun x => x.1 ≠ v) ++ lost.map fun b => (v, b) }

/-- Set an entry of the Vat map; Reeve switches on the domains of the position it assigns, and off those of a position
no entry holds any more (R27, R492). -/
def State.setMap (s : State) (v p : Nat) (valid : Bool) : State :=
  let old := s.phys v
  let s := (s.put (mapReg v) (mapPhys v) p).put (mapReg v) (mapValid v) valid.toNat
  let s := if (s.logical old).isSome then s else s.switchOff (vatDoms old)
  if valid then s.switchOn (vatDoms p) else s

/-- VATMAP and LANEMAP, and the Skim self-test's result. -/
def State.applyMap (s : State) (skimOk : Bool) : State :=
  (List.range 16).foldl (fun s v =>
    let ok := s.layout.vats.contains v
    let s := s.setMap v (s.layout.phys v) ok
    if ok then (s.loadMaps v (s.layout.phys v)).put (.SKIM_CTRL v) SKIM_CTRL.SELFTEST_DONE skimOk.toNat else s.setVst v vsOff) s

/-- PORTS, where the owning block is idle: in a core reset the Thresher is not reset. -/
def State.applyPorts (s : State) : State :=
  let l := s.layout
  let s := (List.range 18).foldl (fun s p =>
    let w := l.ports.getD p (0, 0)
    let s := if [psOff, psFailed, psDetour].contains (s.portSt p) then s.load (.THR_PORT_CFG p) w.1 else s
    (s.load (.THR_PORT_VCW p) w.2).apply (.THR_PORT_VCW p)) s
  let off := (List.range 18).all fun p => s.portSt p = psOff
  let s := if off then s.load .THR_GLB_CFG l.thrCfg else s.put .THR_GLB_CFG THR_GLB_CFG.FABRIC_REG (THR_GLB_CFG.FABRIC_REG.get l.thrCfg)
  (List.range 16).foldl (fun s i =>
    let w := l.inbound.getD i (0, 0)
    if s.get (.THR_INBOUND_A i) THR_INBOUND_A.VALID = 0 then (s.load (.THR_INBOUND_A i) w.1).load (.THR_INBOUND_B i) w.2 else s) s

/-- MODEL and SHEAF. -/
def State.applyModel (s : State) : State :=
  let l := s.layout
  let s := s.load .REEVE_MODEL l.model
  (List.range 128).foldl (fun s x =>
    let w := l.variants.getD x (0, 0)
    let s := s.put (.REEVE_VARIANT_CFG x) REEVE_VARIANT_CFG.VALID (REEVE_VARIANT_CFG.VALID.get w.1)
    let s := s.put (.REEVE_VARIANT_CFG x) REEVE_VARIANT_CFG.NPRIV (REEVE_VARIANT_CFG.NPRIV.get w.1)
    s.load (.REEVE_VARIANT_FUNCS x) w.2) s
def State.applySheafs (s : State) : State :=
  let s := (s.layout.sheafs.zipIdx).foldl (fun s x =>
    if (s.ops.any fun (o : ShOp) => o.d = x.2) || (s.launches.any fun (o : Launch) => o.d = x.2) then s
    else s.load (.SHEAF_DEF_A x.2) x.1) s
  s.put .SHEAF_STATUS SHEAF_STATUS.READY 1

/-- GROUP. -/
def State.applyGroupSec (s : State) (g : Nat) (x : GroupSec) : State :=
  let w := PFX_GROUP_IDX.BLOCK_KIB.put 0 x.blockKib
  let w := PFX_GROUP_IDX.INDEX_BASE.put w (x.indexBase / 4096)
  let s := s.wr (.PFX_GROUP_IDX g) (PFX_GROUP_IDX.ENTRIES_LOG2.put w x.entriesLog2)
  let w := PFX_GROUP_POOL.POOL_BLOCKS.put 0 x.poolBlocks
  s.wr (.PFX_GROUP_POOL g) (PFX_GROUP_POOL.POOL_BASE.put w (x.poolBase / 4096))

/-- LAYOUT_PART of a partition that runs under the image of this serial (R510). -/
def State.setPartRun (s : State) (p st serial : Nat) : State :=
  s.wr (.LAYOUT_PART p) (LAYOUT_PART.SERIAL.put (LAYOUT_PART.STATE.put 0 st) serial)

/-- Apply the image, section by section (R489). -/
def State.applyLayout (s : State) (skimOk : Bool) : State :=
  let s := s.put .HOST_STATUS HOST_STATUS.TOTAL_VFS s.layout.numVfs
  let s := (((s.applyMap skimOk).applyPorts).applyModel).applySheafs
  let s := s.layout.groups.foldl (fun s x => s.applyGroupSec x.1 x.2) s
  let s := s.put .PFX_STATUS PFX_STATUS.READY 1
  let s := s.layout.parts.foldl (fun s x => (s.applyPart x.1 x.2).setPartRun x.1
    (if (s.layout.vatsOf x.2).isEmpty then 0 else 1) s.layout.serial.toNat) s
  let s := { s with layout := { s.layout with applied := true } }
  (s.wr .LAYOUT_SERIAL s.layout.serial).put .LAYOUT_STATUS LAYOUT_STATUS.STATE 2

/-- After a core reset the journal's requests end: a CANCEL marker where pages went, FAILED with UNCORRECTABLE (R498). -/
def State.recoverJournal (s : State) : State :=
  let js := s.boot.journal
  let s := s.boot.seqs.foldl (fun s x =>
    let s := (s.wr (.KVX_DEST_SEQ x.1) x.2.1).wr (.KVX_DEST_CREDIT x.1) x.2.2.1
    s.setDest x.1 { s.dest x.1 with psn := x.2.2.2, una := x.2.2.2 }) s
  let s := { s with reqs := js }
  let s := js.foldl (fun s j => (s.kvxPurge j.1).setSt j.1 qsFailed eUncorrectable) s
  { s with reqs := [], boot := { s.boot with journal := [], seqs := [] } }

/-- LAYOUT_APPLY: positions that fail their self-test are retired; the counters leap; the journal is worked off; the image
is applied; ports begin to train and P4 begins. -/
def State.layoutApply (s : State) (bad : List Nat) (skimOk : Bool) : State :=
  if s.boot.phase ≠ 3 then s else
  let s := bad.foldl (fun s p => if s.fusedOff p || s.retiredVats.contains p then s else s.retire 1 p 0) s
  if s.layout.vats.any fun v => s.retiredVats.contains (s.layout.phys v) then s.slotBad eLayoutInvalid
  else
    let s := ((s.leap).recoverJournal).applyLayout skimOk
    let s := (List.range 18).foldl (fun s p =>
      if s.portSt p = psOff && s.get (.THR_PORT_CFG p) THR_PORT_CFG.MODE ≠ 0 && s.leads p then s.setPortSt p psTraining else s) s
    s.setPhase 4

def execLayoutApply (bad : List PhysId) (skimOk : Bool) (s : State) : Host.Outcome State Fault Refusal :=
  .next (s.layoutApply (bad.map fun p => p.val) skimOk)

/-! P4 and release (R477, R517, R550). -/

/-- What training leaves of the stacks, and the pseudo-channels the record keeps retired. -/
def State.trainStacks (s : State) (bad : List Nat) : State :=
  (List.range 6).foldl (fun s h =>
    let n := (s.retiredSubs 4 h).length
    let s := s.put (.HBM_STATUS h) HBM_STATUS.TRAINED (if bad.contains h then 0 else 1)
    let s := s.put (.HBM_STATUS h) HBM_STATUS.RETIRED_PC n
    s.put (.HBM_STATUS h) HBM_STATUS.PC_SPARES (2 - n)) s

def State.release4 (s : State) (bad : List Nat) : State :=
  if s.boot.phase ≠ 4 then s else
  let core := s.boot.level = some 2
  let s := if core then s else s.trainStacks bad
  if !core && !bad.isEmpty then s.recover.put .LAYOUT_STATUS LAYOUT_STATUS.LAST_ERR eUncorrectable
  else
    let s := (s.put .RST_STATUS RST_STATUS.LFAIL 0).endSequence.setPhase 5
    let s := s.put .REEVE_STATUS REEVE_STATUS.STATE 2
    let s := if core then s else
      let s := (s.put .PWR_CLOCK PWR_CLOCK.F_T_MHZ 1600).put .PWR_CLOCK PWR_CLOCK.F_FIXED_MHZ 1500
      (List.range 52).foldl (fun s i => s.put (.PWR_THERM i) PWR_THERM.VALID 0) s
    if (List.range 6).any fun h => 2 < (s.retiredSubs 4 h).length then s.degrade fun w => ERR_DEGRADED.MODULE_DOWN.put w 1 else s

def execRelease (bad : List StackId) (s : State) : Host.Outcome State Fault Refusal :=
  .next (s.release4 (bad.map fun h => h.val))

/-! Causes of reset (R496, R497, R535, R638, R639). -/

/-- PHASE_LIMIT_EXPIRY: P2 over its limit fails; P3 over its limit is the watchdog's third kind. -/
def execPhaseLimitExpiry (s : State) : Host.Outcome State Fault Refusal :=
  .next (if s.boot.phase = 2 then s.layoutFail
    else if s.boot.phase = 3 then s.resetReq rcWdt 1 2 true else s)

def execMrstNAssert (s : State) : Host.Outcome State Fault Refusal :=
  .next ({ s with boot := { s.boot with pinLow := true } }.resetReq rcExtPin 1 0)

def execMrstNRelease (s : State) : Host.Outcome State Fault Refusal :=
  .next ({ s with boot := { s.boot with pinLow := false } }.enterP1)

/-- A reset of Reeve: system within P3 of a power-on or system reset, core otherwise. -/
def State.reeveReset (s : State) (detail : Nat) : State :=
  if s.boot.phase = 3 && s.boot.level ≠ some 2 then s.resetReq rcWdt 1 detail true else s.resetReq rcWdt 2 detail

/-- WDT_EXPIRY: TIMEOUT_MS has passed without a KICK; the watchdog runs from the start of P3. -/
def State.wdtExpiry (s : State) : State :=
  let due := s.boot.wdt + s.get .RST_WDT RST_WDT.TIMEOUT_MS * 1000000 ≤ s.now.toNat
  if 3 ≤ s.boot.phase && s.boot.phase ≤ 5 && due then s.reeveReset 0 else s

def execWdtExpiry (s : State) : Host.Outcome State Fault Refusal := .next s.wdtExpiry

def execLockstepMismatch (s : State) : Host.Outcome State Fault Refusal :=
  .next (if 2 ≤ s.boot.phase then s.reeveReset 1 else s)

def execSecViolation (s : State) : Host.Outcome State Fault Refusal :=
  .next (s.resetReq rcSec 1 0)

/-! Substitution (R492, R516). -/

/-- Handling of what was logged about a physical Vat has ended (R521). -/
def State.vatHandled (s : State) (ph : Nat) : State :=
  [clsLane, clsVat, clsBank, clsSkim, clsCurd].foldl (fun s c => s.logDone c ph) s

/-- Logical Vat `v` stands on a fresh position: Vat, Cellar and Wagon as they start. -/
def State.freshVat (s : State) (v : Nat) : State :=
  let s := ((s.clearCurd v).clearGens v).wr (.VAT_FLAGS v) 0
  let s := (s.put (.VAT_STATUS v) VAT_STATUS.CTX_VALID 0).setVst v vsIdle
  let s := ((s.setVat v {}).zeroCtxs v).killWagon v
  let s := { s with withdrawn := s.withdrawn.filter fun x => x.1 ≠ v }
  s.dirtyGroups v (s.ownedGroups v)

/-- The running layout's map entry of `v`. -/
def State.noteMap (s : State) (v e : Nat) : State :=
  { s with layout := { s.layout with vatMap := (List.range 16).map fun i => if i = v then e else s.layout.vatMap.getD i 0 } }

/-- A partition runs on with fewer Vats: its running pass starts again on those it has; with none, its passes end and its
requests go back to their last committed pass (R516). -/
def State.shrink (s : State) (p : Nat) : State :=
  let n := (s.vatsOf p).length
  if n = 0 then
    let s := { s with passes := s.passes.filter fun (q : Pass) => q.part ≠ p }
    let s := (s.stepsOn p).foldl (fun s i => s.setReq i { s.req i with step := none }) s
    s.put (.LAYOUT_PART p) LAYOUT_PART.STATE 0
  else { s with passes := s.passes.map fun (q : Pass) => if q.part = p && !q.paused then { q with vats := n } else q }

/-- No free position: VALID of the logical Vat is cleared and the loss reported. -/
def State.loseVat (s : State) (v : Nat) : State :=
  let p := s.part v
  let ph := s.phys v
  let g := s.groupOf p
  let s := (s.rerunPart p eUncorrectable).retire 1 ph 0
  let s := ((s.killWagon v).setMap v ph false).noteMap v 0
  let cut := fun (x : PartSec) => { x with vats := x.vats - x.vats / 2 ^ v % 2 * 2 ^ v }
  let s := { s with layout := { s.layout with parts := s.layout.parts.map fun (x : Nat × PartSec) => if x.1 = p then (x.1, cut x.2) else x } }
  let s := s.degrade fun w => ERR_DEGRADED.PARTS.put w (ERR_DEGRADED.PARTS.get w ||| 2 ^ p)
  let s := (s.log { code := eCapacityDegraded, cls := clsVat, verdict := 4, part := p, unit := ph }).vatHandled ph
  let s := s.shrink p
  if (s.groupParts g).isEmpty then
    (s.liveReqs.filter fun i => (s.req i).group = g).foldl (fun s i => s.reqFail i eCapacityDegraded) s
  else s

/-- A Vat that Reeve replaces: it stopped on a fault (R492), a bank of it is withdrawn (R233), or an error met the
retirement of one of its banks (R522). -/
def State.mustLeave (s : State) (v : Nat) : Bool :=
  s.vst v = vsFaulted || (s.withdrawn.any fun x => x.1 = v) ||
    s.logPending.any fun n => (s.logIs n clsBank (s.phys v) none || s.logIs n clsSkim (s.phys v) none) &&
      lwVerdict.get (s.rd (.ERR_ENTRY (n % 1024) 1)) = 5

/-- VAT_SUBSTITUTION: the partition's other contexts are aborted; once none runs, the lowest free position takes over. -/
def State.substitute (s : State) (v : Nat) : State :=
  let p := s.part v
  if s.boot.phase ≠ 5 || !s.valid v || !s.mustLeave v || s.relaying.isSome then s
  else if !s.partStill p then (s.abortPart p).put .LAYOUT_STATUS LAYOUT_STATUS.BUSY 1
  else
    let s := s.put .LAYOUT_STATUS LAYOUT_STATUS.BUSY 0
    match s.freePhys with
    | [] => s.loseVat v
    | n :: _ =>
      let old := s.phys v
      let s := ((s.freshVat v).loadMaps v n).setMap v n true
      let s := ((s.noteMap v (2 ^ 15 + n)).retire 1 old 0).vatHandled old
      s.rerunPart p eUncorrectable

def execVatSubstitution (v : VatId) (s : State) : Host.Outcome State Fault Refusal :=
  .next (s.substitute v)

end Sys2Proof.Machine
end

