-- ==== Sys2Proof/Machine/Power.lean ====
section
/-! DEFINITION. Power, clocks, droop and temperature (R544-R559). -/

namespace Sys2Proof.Machine

/-- An entry of class 16 for an event that is no fault. -/
def State.logPwr (s : State) (unit : Nat) : State := s.log { code := eOk, cls := clsPwr, verdict := 0, unit := unit }

/-! Input (R544). -/

def State.excursion (s : State) (mv : Nat) (long : Bool) : State :=
  if (mv < 21000 && long) || 27000 < mv then s.powerOnReset
  else
    let s := s.put .PWR_STATUS PWR_STATUS.V_IN_MV mv
    if 21600 ≤ mv && mv ≤ 26400 then s.put .PWR_STATUS PWR_STATUS.INPUT_WARN 0
    else if s.get .PWR_STATUS PWR_STATUS.INPUT_WARN = 1 then s
    else ((s.put .PWR_STATUS PWR_STATUS.INPUT_WARN 1).put .MGMT_ALERT MGMT_ALERT.INPUT 1).logPwr 0

def execInputExcursion (mv : Nat) (long : Bool) (s : State) : Host.Outcome State Fault Refusal :=
  .next (s.excursion mv long)

/-! Clocks (R550, R555, R558). -/

def State.fT (s : State) : Nat := s.get .PWR_CLOCK PWR_CLOCK.F_T_MHZ
def State.fF (s : State) : Nat := s.get .PWR_CLOCK PWR_CLOCK.F_FIXED_MHZ
def State.setFT (s : State) (f : Nat) : State := s.put .PWR_CLOCK PWR_CLOCK.F_T_MHZ f

/-- f_F takes a frequency; each time it leaves 1,500 MHz is counted, logged and alerted. -/
def State.setFF (s : State) (f : Nat) : State :=
  let left := s.fF = 1500 && f ≠ 1500
  let s := (s.put .PWR_CLOCK PWR_CLOCK.F_FIXED_MHZ f).put .PWR_STATUS PWR_STATUS.FIXED_HELD (if f = 1500 then 1 else 0)
  if left then ((s.bump .PWR_STAT PWR_STAT.FIXED_LOWERED).put .MGMT_ALERT MGMT_ALERT.CAP 1).logPwr 0 else s

/-- F_MAX as the thermal rules lower it. -/
def State.fMaxTherm (s : State) : Nat := s.get .PWR_CLOCK PWR_CLOCK.F_MAX_MHZ - s.pwr.lowered

/-! Evaluation and calibration (R547, R548, R551). -/

/-- A whole number for a register: exact values are themselves; which neighbour stands for another value is free
(log 23). -/
def State.toInt (s : State) (x : Rat) : Int × State :=
  if x = (x.floor : Rat) then (x.floor, s)
  else
    let (k, s) := s.fresh
    (x.floor + ((Config.freeWord k).toNat % 2 : Nat), s)

/-- Put a number into an unsigned or signed 16-bit field, saturating. -/
def State.putRat (s : State) (r : Reg) (f : Fld) (x : Rat) (signed : Bool := false) : State :=
  let (i, s) := s.toInt x
  if signed then s.put r f ((max (-32768) (min 32767 i)) % 65536).toNat else s.put r f (max 0 (min 65535 i)).toNat

/-- The calibrated estimate of each group. -/
def State.estimates (s : State) (raw : List Nat) : List Rat :=
  (List.range 5).map fun g => s.pwr.gains.getD g 1 * (raw.getD g 0 : Rat) + s.pwr.offs.getD g 0

/-- The frequencies that the cap's loop decides (R551): f_t, f_f and whether it lowered one. -/
def capLoop (p lim pt pf : Rat) (ft ff fmax : Nat) (raise hold : Bool) : Nat × Nat × Bool :=
  let st : Rat := if 0 < pt then 50 * pt / ft else 0
  let sf : Rat := if 0 < pf then 50 * pf / ff else 0
  if lim < p then
    let n := if 0 < st then ((p - lim) / st).ceil.toNat else 0
    let take := min n ((ft - 800) / 25)
    let p := p - take * st
    let ff' := if lim < p && 0 < sf then max 800 (ff - 25 * ((p - lim) / sf).ceil.toNat) else ff
    (ft - 25 * take, ff', 0 < take || ff' < ff)
  else if !raise || hold then (ft, ff, false)
  else if ff < 1500 && p + sf ≤ lim - lim / 100 then (ft, ff + 25, false)
  else if ft < fmax && p + st ≤ lim - lim / 100 then (ft + 25, ff, false)
  else (ft, ff, false)

/-- What the input measured over 10 µs; with an invalid sample among them the registers keep what they show (log 170). -/
def State.measured (s : State) (mv ci : Nat) (valid : Bool) : State :=
  if !valid then s else
  let s := s.putRat .PWR_STATUS PWR_STATUS.P_IN_W ((mv * ci : Nat) / 100000)
  (s.put .PWR_STATUS PWR_STATUS.I_IN ci).put .PWR_STATUS PWR_STATUS.V_IN_MV mv

/-- POWER_EVALUATION: every 10 µs; it raises a step 100 µs after the last one at the earliest. -/
def State.evaluate (s : State) (raw : List Nat) (pt pf mv ci : Nat) (valid : Bool) : State :=
  let es := s.estimates raw
  let s := (List.range 5).foldl (fun s g => s.putRat (.PWR_EST g) PWR_EST.EST_W (es.getD g 0)) s
  let s := s.measured mv ci valid
  let v := if valid then mv else s.get .PWR_STATUS PWR_STATUS.V_IN_MV
  let lim : Rat := min (min (s.get .PWR_CAP PWR_CAP.CAP_W : Rat) ((112 * v : Nat) / 1000)) 2400
  let hold := s.get .PWR_STATUS PWR_STATUS.THERM_LIMIT = 1
  let due := s.pwr.raised + 100000 ≤ s.now.toNat
  let r := capLoop (es.foldl (· + ·) 0) lim pt pf s.fT s.fF s.fMaxTherm due hold
  let s := if s.fT < r.1 || s.fF < r.2.1 then { s with pwr := { s.pwr with raised := s.now.toNat } } else s
  let s := (s.setFT r.1).setFF r.2.1
  let s := s.put .PWR_STATUS PWR_STATUS.CAP_LIMIT r.2.2.toNat
  if r.2.2 then s.bump .PWR_STAT PWR_STAT.CAP_STEPS else s

def execPowerEvaluation (raw : List Nat) (pt pf mv ci : Nat) (valid : Bool) (s : State) : Host.Outcome State Fault Refusal :=
  if raw.length = 5 then .next (s.evaluate raw pt pf mv ci valid) else .fault .illFormed

def clampRat (x lo hi : Rat) : Rat := max lo (min hi x)

/-- A gain and an offset within their limits, where the step divides by zero and says nothing (log 23). -/
def State.freeCal (s : State) : Rat × Rat × State :=
  let (a, s) := s.fresh
  let (b, s) := s.fresh
  (1 / 2 + ((Config.freeWord a).toNat % 24577 : Nat) / 16384, ((Config.freeWord b).toNat % 401 : Nat) - 200, s)

/-- One group's step of the calibration. -/
def State.calGroup (s : State) (a : List Nat) (e : Rat) (q sa : Nat) (g : Nat) : State :=
  let x : Rat := a.getD g 0
  let (gain, off, s) :=
    if q = 0 then s.freeCal
    else (clampRat (s.pwr.gains.getD g 1 + e * x / (16 * q)) (1 / 2) 2,
      clampRat (s.pwr.offs.getD g 0 + e / 16 * (x / sa)) (-200) 200, s)
  let s := { s with pwr := { s.pwr with gains := s.pwr.gains.set g gain, offs := s.pwr.offs.set g off } }
  (s.putRat (.PWR_EST g) PWR_EST.GAIN (gain * 16384)).putRat (.PWR_EST g) PWR_EST.OFFSET_W off true

/-- CALIBRATION: every 1 ms; a window with an invalid sample holds it. -/
def State.calibrate (s : State) (a : List Nat) (p : Nat) (valid : Bool) : State :=
  if !valid then (s.put .PWR_STATUS PWR_STATUS.CAL_HOLD 1).logPwr 0
  else
    let e : Rat := p - (s.estimates a).foldl (· + ·) 0
    let q := (a.map fun x => x * x).foldl (· + ·) 0
    let sa := a.foldl (· + ·) 0
    let s := s.put .PWR_STATUS PWR_STATUS.CAL_HOLD 0
    (List.range 5).foldl (fun s g => s.calGroup a e q sa g) s

def execCalibration (a : List Nat) (p : Nat) (valid : Bool) (s : State) : Host.Outcome State Fault Refusal :=
  if a.length = 5 then .next (s.calibrate a p valid) else .fault .illFormed

def execFixedFloorUpdate (w : W16) (s : State) : Host.Outcome State Fault Refusal :=
  .next (s.put .PWR_CAP PWR_CAP.FIXED_FLOOR_W w.toNat)

/-! Temperature (R557, R558). Readings and limits in 1/16 °C. -/

def State.temp (s : State) (i : Nat) : Int := (BitVec.ofNat 16 (s.get (.PWR_THERM i) PWR_THERM.TEMP)).toInt
/-- The regulation limit of a sensor: THERM_TARGET_C on the dies, 95 °C on the stacks. -/
def State.limitOf (s : State) (i : Nat) : Int := 16 * if i < 46 then (s.get .PWR_CTRL PWR_CTRL.THERM_TARGET_C : Int) else 95
def State.anyOver (s : State) : Bool := (List.range 52).any fun i => s.limitOf i < s.temp i
def State.allCool (s : State) : Bool := (List.range 52).all fun i => s.temp i ≤ s.limitOf i - 32

/-- A thermal trip: a system reset that P0 holds (R496, R559). -/
def State.trip (s : State) : State :=
  { s with boot := { s.boot with hot := true, cool := none } }.resetReq rcTherm 1 0 true

def State.alertTherm (s : State) (f : Fld) : State :=
  if s.get .PWR_STATUS f = 1 then s else (s.put .PWR_STATUS f 1).put .MGMT_ALERT MGMT_ALERT.THERM 1

/-- The hold of P0 ends once every sensor has read below 95 °C for 1 s. -/
def State.coolDown (s : State) (cold : Bool) : State :=
  let b := s.boot
  if !b.hot then s
  else if !cold then { s with boot := { b with cool := none } }
  else
    let since := b.cool.getD s.now.toNat
    if since + 1000000000 ≤ s.now.toNat then { s with boot := { b with hot := false, cool := none } }.enterP1
    else { s with boot := { b with cool := some since } }

/-- THERMAL_SAMPLE: every 10 µs. -/
def State.thermal (s : State) (t : List W16) : State :=
  let live := s.boot.phase = 5 || s.boot.phase = 6
  let s := (t.zipIdx).foldl (fun s x =>
    let s := s.put (.PWR_THERM x.2) PWR_THERM.TEMP x.1.toNat
    if live then s.put (.PWR_THERM x.2) PWR_THERM.VALID 1 else s) s
  if (List.range 46).any fun i => 16 * 115 ≤ s.temp i then s.trip
  else
    let s := s.coolDown ((List.range 52).all fun i => s.temp i < 16 * 95)
    let s := if s.anyOver then s.alertTherm PWR_STATUS.THERM_REG else s
    if (List.range 46).any fun i => 16 * 105 < s.temp i then
      ((s.alertTherm PWR_STATUS.THERM_LIMIT).setFT 800).setFF (max 800 (s.fF - 25))
    else s.put .PWR_STATUS PWR_STATUS.THERM_LIMIT 0

def execThermalSample (t : List W16) (s : State) : Host.Outcome State Fault Refusal :=
  if t.length = 52 then .next (s.thermal t) else .fault .illFormed

/-- THERMAL_STEP: every 100 µs under regulation. -/
def State.thermStep (s : State) : State :=
  if s.get .PWR_STATUS PWR_STATUS.THERM_REG = 0 then s else
  let fmax := s.get .PWR_CLOCK PWR_CLOCK.F_MAX_MHZ
  if s.anyOver then
    let s := { s with pwr := { s.pwr with lowered := min (fmax - 800) (s.pwr.lowered + 25) } }
    s.setFT (min s.fT s.fMaxTherm)
  else
    let s := if s.allCool then { s with pwr := { s.pwr with lowered := s.pwr.lowered - 25 } } else s
    if s.pwr.lowered = 0 then s.put .PWR_STATUS PWR_STATUS.THERM_REG 0 else s

def execThermalStep (s : State) : Host.Outcome State Fault Refusal := .next s.thermStep

/-- THERM_TRIP: the sensor reads 115 °C or more, whichever it is. -/
def execThermTrip (_sensor : Fin 46) (s : State) : Host.Outcome State Fault Refusal :=
  .next s.trip

/-! Droop (R556, R567). -/

def execDroopStretch (i : Fin 65) (s : State) : Host.Outcome State Fault Refusal :=
  .next (if s.pwr.stretched.contains i.val then s
    else { s with pwr := { s.pwr with stretched := s.pwr.stretched ++ [i.val] } }.bump (.PWR_DROOP i) PWR_DROOP.COUNT)

def execDroopEnd (i : Fin 65) (s : State) : Host.Outcome State Fault Refusal :=
  .next { s with pwr := { s.pwr with stretched := s.pwr.stretched.filter fun j => j ≠ i.val } }

end Sys2Proof.Machine
end

