-- ==== Sys2Proof/Machine/Security.lean ====
section
/-! DEFINITION. The SEC engine and the critical commands (R491, R493, R499, R524-R535). -/

namespace Sys2Proof.Machine

/-! The command block (R525). -/

/-- The 448 bytes of a class's buffer. -/
def State.secBlock (s : State) (k : Nat) : List Byte :=
  (List.range 56).flatMap fun i => leBytes 8 (s.rd (.SEC_CMD_BUF k i)).toNat

def cbOp (b : List Byte) : Nat := dfield b 4 1
def cbSlot (b : List Byte) : Nat := dfield b 5 1
def cbArgLen (b : List Byte) : Nat := dfield b 6 2
def cbCounter (b : List Byte) : Nat := dfield b 16 8
/-- `n` bytes of ARGS from byte `o`. -/
def cbArg (b : List Byte) (o n : Nat) : Nat := dfield b (64 + o) n
def cbArgBytes (b : List Byte) (o n : Nat) : List Byte := (b.drop (64 + o)).take n

/-- Whether the block is one of KEY_CHANGE with KIND 2. -/
def cbEnrols (b : List Byte) : Bool := cbOp b = 3 && cbArg b 0 1 = 2

/-- Whether the block's opcode and kind are a row's: level of RESET, KIND of KEY_CHANGE, direction of WINDOW. -/
def cbKnown (b : List Byte) : Bool :=
  let a := cbArg b 0 1
  match cbOp b with
  | 1 => a ≤ 2
  | 2 => true
  | 3 => a ≤ 2
  | 4 => true
  | 5 => true
  | 6 => a ≤ 1
  | 7 => true
  | _ => false

/-! The checks (R526, R530, R531). -/

def State.key (s : State) (slot : Nat) : List Byte := Tab.get (fun _ => []) s.sec.keys slot
def State.keyed (s : State) (slot : Nat) : Bool := slot < 64 && s.get (.SEC_SLOT slot) SEC_SLOT.KEYED = 1
def State.lastOf (s : State) (slot : Nat) : Nat := (s.rd (.SEC_SLOT_LAST slot)).toNat

/-- MAGIC, OPCODE, ARGLEN and zero fields; `magic` and the opcodes allowed are UNLOCK's own there (R592). -/
def cbForm (b : List Byte) (magic : Nat) (ops : List Nat) : Bool :=
  dfield b 0 4 = magic && ops.contains (cbOp b) && cbArgLen b ≤ 384 &&
    ((b.drop 24).take 8).all (fun x => x = 0) && ((b.drop 48).take 16).all fun x => x = 0

/-- The tag over the block under a key. -/
def cbTag (key b : List Byte) : List Byte := (hmac256 key (b.take 32 ++ cbArgBytes b 0 (cbArgLen b))).take 16

/-- The enrolment's signature, where the part is SECURED or RETURNED. -/
def State.enrolSigned (s : State) (b : List Byte) : Bool :=
  let st := s.boot.fuses.secState.toNat
  let part := fun (i : Nat) => beNat (cbArgBytes b (40 + 48 * i) 48)
  !(st = 1 || st = 2) ||
    (sha384 (cbArgBytes b 40 96) = beBytes 48 s.boot.fuses.keyHash.toNat &&
      ecdsaVerify (part 0) (part 1) (part 2) (part 3) (sha384 (b.take 32 ++ cbArgBytes b 0 40)))

/-- What the checks of R526 give a block of class `k`: the first failure's code, or 0. -/
def State.secCheck (s : State) (k : Nat) (b : List Byte) : Nat :=
  let slot := cbSlot b
  let sl := s.rd (.SEC_SLOT slot)
  if !cbForm b 0x4C564343 [1, 2, 3, 4, 5, 6, 7] then eIllegalOp
  else if dfield b 8 8 ≠ s.boot.fuses.serial.toNat then eAuthFail
  else if cbEnrols b then
    if k ≠ 0 || s.keyed 0 || !s.enrolSigned b then eAuthFail
    else if cbCounter b ≤ s.lastOf 0 then eCounterStale else eOk
  else if !s.keyed 0 || !s.keyed slot || SEC_SLOT.PERM.get sl / 2 ^ (cbOp b - 1) % 2 = 0 ||
      SEC_SLOT.MASTERS.get sl / 2 ^ k % 2 = 0 || (cbOp b = 3 && cbArg b 0 1 = 0 && slot ≠ 0) then eAuthFail
  else if (b.drop 32).take 16 ≠ cbTag (s.key slot) b then eAuthFail
  else if cbCounter b ≤ s.lastOf slot then eCounterStale
  else eOk

/-- The slot whose counter a block takes. -/
def cbTakes (b : List Byte) : Nat := if cbEnrols b then 0 else cbSlot b

/-! Throttling (R527). -/

def thrFld (k : Nat) : Fld := { hi := 8 + k, lo := 8 + k, ty := .ro, reset := 0 }
def State.throttled (s : State) (k : Nat) : Bool := s.get .SEC_STATUS (thrFld k) = 1

/-- An AUTH_FAIL result of a class: the sixteenth within 1 s throttles it. -/
def State.authFailed (s : State) (k : Nat) : State :=
  let now := s.now.toNat
  let fs := (s.sec.fails.filter fun x => now < x.2 + 1000000000) ++ [(k, now)]
  if (fs.filter fun x => x.1 = k).length < 16 then { s with sec := { s.sec with fails := fs } }
  else
    let s := { s with sec := { s.sec with
      fails := fs.filter (fun x => x.1 ≠ k), until_ := Tab.set (fun _ => 0) s.sec.until_ k (now + 1000000000) } }
    (s.put .SEC_STATUS (thrFld k) 1).put .MGMT_ALERT MGMT_ALERT.SEC 1

/-! Running a command (R526, R528, R532). -/

/-- The command of class `k` ends: its result, GO cleared, the next class's turn. -/
def State.secEnd (s : State) (k op code : Nat) : State :=
  let s := if code = eAuthFail && !s.throttled k then s.authFailed k else s
  let s := { s with sec := { s.sec with queue := s.sec.queue.filter fun j => j ≠ k } }
  let s := s.wr (.SEC_CMD_RESULT k) (SEC_CMD_RESULT.ERR.put (SEC_CMD_RESULT.OPCODE.put 0 op) code)
  s.put (.SEC_CMD_CTRL k) SEC_CMD_CTRL.GO 0

/-- The command at the head of the queue, once P3 is over: checked, its counter taken, then its effect, which answers
its code or says that it ends later. A counter above H waits for its record. `fits`: the block is the row's. -/
def State.secRun (s : State) (k : Nat) (fits : List Byte → Bool) (f : State → List Byte → State × Option Nat) : State :=
  let b := s.secBlock k
  let slot := cbTakes b
  let e := s.secCheck k b
  if s.boot.phase < 4 || s.sec.queue.head? ≠ some k || !fits b then s
  else if s.throttled k then s.secEnd k (cbOp b) eAuthFail
  else if e ≠ 0 then s.secEnd k (cbOp b) e
  else if (s.mark slot).toNat < cbCounter b then s
  else
    let s := s.wr (.SEC_SLOT_LAST slot) (BitVec.ofNat 64 (cbCounter b))
    if s.boot.phase = 6 && cbOp b ≠ 5 then s.secEnd k (cbOp b) eCfgLocked
    else match f s b with
      | (t, some code) => t.secEnd k (cbOp b) code
      | (t, none) => t

/-- Blocks at the head that are no row's end without an effect. -/
def State.secDrain : Nat → State → State
  | 0, s => s
  | n + 1, s => match s.sec.queue with
    | k :: _ => if cbKnown (s.secBlock k) && !(cbEnrols (s.secBlock k) && k ≠ 0) then s
        else State.secDrain n (s.secRun k (fun _ => true) fun s _ => (s, some eLayoutInvalid))
    | [] => s

/-- A command of class `k` whose opcode is `op` and whose first argument passes `arg`. -/
def State.secRow (s : State) (k op : Nat) (arg : Nat → Bool) (f : State → List Byte → State × Option Nat) : State :=
  (s.secRun k (fun b => cbOp b = op && arg (cbArg b 0 1)) f).secDrain 3

def clsIdx : SecClass → Nat
  | .mgmt => 0
  | .host => 1
  | .fabric => 2

/-- GO is set for a class: it joins the queue. -/
def State.secGo (s : State) (k : Nat) : State :=
  let s := s.put (.SEC_CMD_CTRL k) SEC_CMD_CTRL.GO 1
  { s with sec := { s.sec with queue := s.sec.queue ++ [k] } }.secDrain 3

/-! RESET (R496). -/

def resetCause (k : Nat) : Nat := if k = 0 then rcMgmt else rcHost

/-- The command completes, then the reset takes place or is absorbed. -/
def State.cmdReset (s : State) (k level : Nat) : State :=
  s.secRow k 1 (fun a => a = level) fun s b => ((s.secEnd k (cbOp b) eOk).resetReq (resetCause k) (level + 1) 0, none)

def execCmdResetSystem (k : SecClass) (s : State) : Host.Outcome State Fault Refusal :=
  .next (s.cmdReset (clsIdx k) 0)

def execCmdResetCore (k : SecClass) (s : State) : Host.Outcome State Fault Refusal :=
  .next (s.cmdReset (clsIdx k) 1)

def State.cmdPartReset (s : State) (k : Nat) : State :=
  s.secRow k 1 (fun a => a = 2) fun s b =>
    let p := cbArg b 1 1
    if 16 ≤ p then (s, some eLayoutInvalid)
    else (if s.boot.level.isSome then s else s.partReset p (if k = 0 then 1 else 0), some eOk)

def execCmdResetPartition (k : SecClass) (s : State) : Host.Outcome State Fault Refusal :=
  .next (s.cmdPartReset (clsIdx k))

/-! RELAYOUT (R491, R493, R499). -/

def State.layoutErr (s : State) (code : Nat) : State := s.put .LAYOUT_STATUS LAYOUT_STATUS.LAST_ERR code

/-- Windows of a Vat close on command: OPEN ones take no more rows (R424). -/
def State.shutWindows (s : State) (v : Nat) : State :=
  (List.range 256).foldl (fun s w =>
    if s.get (.THR_WIN_A v w) THR_WIN_A.STATE = 1 then s.put (.THR_WIN_A v w) THR_WIN_A.STATE 2 else s) s

/-- Step 4: admission stops, the pass is asked to pause, tail steps are abandoned, windows close. -/
def State.quiesce (s : State) (p : Nat) : State :=
  let s := { s with closed := s.closed ++ [p] }
  let s := (s.stepsOn p).foldl (fun s i => s.setReq i { s.req i with step := none }) s
  let s := match s.passOn p with
    | some q =>
      (q.members.map Prod.fst).foldl (fun (s : State) j =>
        let y := s.req j
        (s.setReq j { y with want := some (y.want.getD { cpl := none }) }).shReqPause j)
        (s.setPass { q with want := true, byReeve := true })
    | none => s
  let s := (s.vatsOf p).foldl (fun s v => s.shutWindows v) s
  (s.pausePart p).put (.LAYOUT_PART p) LAYOUT_PART.STATE 2

def State.relayoutCmd (s : State) (k : Nat) (b : List Byte) : State × Option Nat :=
  let len := cbArg b 8 4
  if s.relaying.isSome || s.get .LAYOUT_STATUS LAYOUT_STATUS.BUSY = 1 then (s, some eCfgLocked)
  else if 65536 + 192 < len then (s.layoutErr eLayoutInvalid, some eLayoutInvalid)
  else
    let (img, s) := s.hostIn (cbArg b 0 8) len
    let e := s.partErr img
    if e ≠ 0 then (s.layoutErr e, some e)
    else
      let p := imgPart img
      let s := { s with relaying := some { cls := k, part := p, img := img }
                        sec := { s.sec with queue := s.sec.queue.filter fun j => j ≠ k } }
      ((s.put .LAYOUT_STATUS LAYOUT_STATUS.BUSY 1).quiesce p, none)

def execRelayout (k : SecClass) (s : State) : Host.Outcome State Fault Refusal :=
  .next (s.secRow (clsIdx k) 2 (fun _ => true) fun s b => s.relayoutCmd (clsIdx k) b)

/-- No context of the partition runs, no batch of it is queued, no pass of it is unsaved, no operation of it moves. -/
def State.quiet (s : State) (p : Nat) : Bool :=
  let vs := s.vatsOf p
  s.partStill p && (s.passOn p).isNone && vs.all (fun v => (List.range 64).all fun i => (s.stream v i).queue.isEmpty) &&
    s.ops.all fun (o : ShOp) => o.paused || !(match o.req with
      | some i => (s.req i).part = p
      | none => vs.contains (lVat o.desc))

/-- A Vat's and its Cellar's counters and sample are zeroed (R618). -/
def State.clearPerf (s : State) (v : Nat) : State :=
  let s := s.resetRegs (Reg.PERF_CFG v 0).off (Reg.PERF_CFG (v + 1) 0).off
  let s := s.resetRegs (Reg.PERF_CFG (16 + v) 0).off (Reg.PERF_CFG (17 + v) 0).off
  let s := s.resetRegs (Reg.PERF_SAMPLE v).off (Reg.PERF_SAMPLE (v + 1)).off
  s.setVat v { s.vat v with samples := [] }

/-- Zero a range of module memory. -/
def State.zeroMem (s : State) (keep : Nat → Bool) (a n : Nat) : State :=
  { s with mem := s.mem.filter (fun x => x.1 < a || a + n ≤ x.1 || keep x.1)
           poison := s.poison.filter fun x => x.1 * 64 < a || a + n ≤ x.1 * 64 || keep (x.1 * 64) }

/-- A Vat leaves its partition: zeroed as by a kill, out of the map, its groups OFF. -/
def State.leaveVat (s : State) (v : Nat) : State :=
  let s := (s.killVats [v]).clearPerf v
  let s := s.setMap v (s.phys v) false
  ((s.setVat v {}).zeroCtxs v).setVst v vsOff |> fun s => [0, 1, 2, 3].foldl (fun s g => s.applyGroup v g false) s

/-- A Vat joins a partition on its position. -/
def State.joinVat (s : State) (v ph : Nat) : State :=
  (((s.setVst v vsOff).setMap v ph true).loadMaps v ph).clearPerf v

/-- Step 5. -/
def State.relayApply (s : State) (img : List Byte) : State :=
  let p := imgPart img
  let l := s.patched img
  let sec := partIn (sectOf img stPart)
  let was := s.vatsOf p
  let now := l.vatsOf sec
  let old := ((s.partSec p).getD {}).regions
  let back := reinstated img
  let s := { s with retired := s.retired.filter fun e => !(reKind.get e = 1 && back.contains (reUnit.get e)) }
  let s := (was.filter fun v => !now.contains v).foldl (fun s v => s.leaveVat v) s
  let s := { s with layout := l }
  let s := (now.filter fun v => !was.contains v).foldl (fun s v => s.joinVat v (l.phys v)) s
  let s := sec.regions.foldl (fun s (r : Region) => s.zeroMem (fun a => inRegion old a 1) r.base r.size) s
  s.applyPart p sec

/-- Passes of the partition that Reeve paused and that no longer fit it start again from layer 0. -/
def State.refitPasses (s : State) (p : Nat) : State :=
  let n := (s.vatsOf p).length
  if n = 0 then s.shrink p
  else { s with passes := s.passes.map fun (q : Pass) => if q.part = p && q.vats ≠ n then { q with vats := n, save := [] } else q }

/-- RELAYOUT ends: admission again, the result to its class. -/
def State.relayEnd (s : State) (r : Relay) (code : Nat) : State :=
  let s := { s with relaying := none, closed := s.closed.erase r.part }
  let s := s.put .LAYOUT_STATUS LAYOUT_STATUS.BUSY 0
  let s := s.put (.LAYOUT_PART r.part) LAYOUT_PART.STATE (if (s.vatsOf r.part).isEmpty then 0 else 1)
  let s := if code = eOk then s else s.layoutErr code
  (s.secEnd r.cls 2 code).secDrain 3

/-- RELAYOUT_APPLY: the partition is quiet; positions to be reinstated have run their self-test. -/
def State.relayoutApply (s : State) (selfTest : Bool) : State :=
  match s.relaying with
  | none => s
  | some r =>
    if !s.quiet r.part then s
    else if !(reinstated r.img).isEmpty && !selfTest then s.relayEnd r eCapacityDegraded
    else
      let s := (s.vatsOf r.part).foldl (fun s v => s.closeWindows v fun w => s.get (.THR_WIN_A v w) THR_WIN_A.STATE = 2) s
      let s := (s.relayApply r.img).refitPasses r.part
      (s.put (.LAYOUT_PART r.part) LAYOUT_PART.SERIAL (imgSerial r.img)).relayEnd r eOk

def execRelayoutApply (selfTest : Bool) (s : State) : Host.Outcome State Fault Refusal :=
  .next (s.relayoutApply selfTest)

/-! KEY_CHANGE (R344, R530). -/

/-- The key-encryption key under a slot's key. -/
def State.kek (s : State) (slot : Nat) (b : List Byte) : List Byte := hmac256 (s.key slot) ((b.drop 8).take 16)

/-- Install, or with none erase, a command key. -/
def State.setKey (s : State) (slot : Nat) (key : Option (List Byte)) (perm masters : Nat) : State :=
  let s := { s with sec := { s.sec with keys := Tab.set (fun _ => []) s.sec.keys slot (key.getD []) } }
  let w := SEC_SLOT.PERM.put 0 (if slot = 0 then perm ||| 4 else perm)
  let w := SEC_SLOT.KEYED.put (SEC_SLOT.MASTERS.put w masters) 1
  let s := s.wr (.SEC_SLOT slot) (if key.isSome then w else 0)
  if slot = 0 then s.put .SEC_STATUS SEC_STATUS.ENROLLED key.isSome.toNat else s

def State.keySlot (s : State) (b : List Byte) : State × Option Nat :=
  let i := cbArg b 1 1
  if 64 ≤ i || 2 ≤ cbArg b 2 1 || 8 ≤ cbArg b 6 1 then (s, some eLayoutInvalid)
  else if cbArg b 2 1 = 1 then (s.setKey i none 0 0, some eOk)
  else match kwUnwrap (s.kek 0 b) (cbArgBytes b 8 40) with
    | some key => (s.setKey i (some key) (cbArg b 4 2) (cbArg b 6 1), some eOk)
    | none => (s, some eAuthFail)

def execKeyChangeSlot (k : SecClass) (s : State) : Host.Outcome State Fault Refusal :=
  .next (s.secRow (clsIdx k) 3 (fun a => a = 0) State.keySlot)

/-- A tenant key is installed: GEN moves on and entries of the old key go (R344). -/
def State.tenantKeyed (s : State) (t : Nat) (key : List Byte) : State :=
  let s := { s with tenant := Tab.set zero128 s.tenant t (BitVec.ofNat 128 (leNat key)) }
  let s := s.put (.PFX_TENANT_GEN t) PFX_TENANT_GEN.GEN (s.tenantGen t + 1)
  (s.put (.PFX_TENANT_GEN t) PFX_TENANT_GEN.KEYED 1).pfxRekey t

def State.keyTenant (s : State) (b : List Byte) : State × Option Nat :=
  match kwUnwrap (s.kek (cbSlot b) b) (cbArgBytes b 8 24) with
  | some key => (s.tenantKeyed (cbArg b 1 1) key, some eOk)
  | none => (s, some eAuthFail)

def execKeyChangeTenant (k : SecClass) (s : State) : Host.Outcome State Fault Refusal :=
  .next (s.secRow (clsIdx k) 3 (fun a => a = 1) State.keyTenant)

/-- ENROLMENT: slot 0 takes its key in clear, with every permission and master. -/
def execEnrolment (s : State) : Host.Outcome State Fault Refusal :=
  .next (s.secRow 0 3 (fun a => a = 2) fun s b => (s.setKey 0 (some (cbArgBytes b 8 32)) 65535 7, some eOk))

/-! POWER_CAP, FW_UPDATE (R529, R549). -/

def State.powerCap (s : State) (b : List Byte) : State × Option Nat :=
  let w := cbArg b 0 2
  if w < 800 || 2000 < w then (s, some eLayoutInvalid) else (s.put .PWR_CAP PWR_CAP.CAP_W w, some eOk)

def execPowerCap (k : SecClass) (s : State) : Host.Outcome State Fault Refusal :=
  .next (s.secRow (clsIdx k) 4 (fun _ => true) State.powerCap)

def State.fwUpdate (s : State) (b : List Byte) : State × Option Nat :=
  let len := cbArg b 8 4
  let slot := cbArg b 12 1
  if 2097152 < len || 2 ≤ slot then (s, some eLayoutInvalid)
  else
    let (img, s) := s.hostIn (cbArg b 0 8) len
    if !imgSized img false then (s, some eLayoutInvalid)
    else if !s.imgSigned img then (s, some eAuthFail)
    else if !s.imgHeader img false then (s, some eLayoutInvalid)
    else ({ s with flash := Tab.setAll flashByte s.flash (0x200000 * slot) img }, some eOk)

def execFwUpdate (k : SecClass) (s : State) : Host.Outcome State Fault Refusal :=
  .next (s.secRow (clsIdx k) 5 (fun _ => true) State.fwUpdate)

/-! WINDOW (R422, R424). -/

/-- Why a window does not open, or 0. -/
def State.openErr (s : State) (v w base len : Nat) : Nat :=
  let rows := (List.range len).map (base + ·)
  let groups := (List.range 4).filter fun g => base < (g + 1) * 32768 && g * 32768 < base + len
  if s.get (.THR_WIN_A v w) THR_WIN_A.STATE ≠ 0 then eCfgLocked
  else if rowsPerCellar < base + len || 2 ^ 17 ≤ len || !groups.all (fun g => s.owned v g) then eLayoutInvalid
  else if !groups.all (fun g => s.gs v g = gsOn) || rows.any (fun r => s.rowDirty v r) then eWindowClosed
  else if (banksOf rows).any fun b => s.claimErr v b portRemote ≠ 0 then eBankClaimConflict
  else eOk

def State.windowOpen (s : State) (b : List Byte) : State × Option Nat :=
  let v := cbArg b 1 1
  let w := cbArg b 2 1
  let base := cbArg b 4 4
  let len := cbArg b 8 4
  if 16 ≤ v || !s.valid v then (s, some eLayoutInvalid)
  else
    let e := s.openErr v w base len
    if e ≠ 0 then (s, some e)
    else
      let s := s.claim v portRemote (.window v w) (banksOf ((List.range len).map (base + ·)))
      let a := THR_WIN_A.BASE.put (THR_WIN_A.LEN.put 0 len) base
      let a := THR_WIN_A.STATE.put (THR_WIN_A.CTR.put a (cbArg b 3 1)) 1
      let c := THR_WIN_B.SRC_LO.put (s.rd (.THR_WIN_B v w)) (cbArg b 12 2)
      ((s.wr (.THR_WIN_A v w) a).wr (.THR_WIN_B v w) (THR_WIN_B.SRC_HI.put c (cbArg b 14 2)), some eOk)

/-- WINDOW_OPEN: evaluated once no scrub runs in the Cellar. -/
def execWindowOpen (k : SecClass) (s : State) : Host.Outcome State Fault Refusal :=
  .next (s.secRow (clsIdx k) 6 (fun a => a = 0 &&
    s.get (.CELLAR_STATUS (cbArg (s.secBlock (clsIdx k)) 1 1 % 16)) CELLAR_STATUS.SCRUB_BUSY = 0) State.windowOpen)

def State.windowShut (s : State) (b : List Byte) : State × Option Nat :=
  let v := cbArg b 1 1
  let w := cbArg b 2 1
  if 16 ≤ v then (s, some eLayoutInvalid)
  else (if s.get (.THR_WIN_A v w) THR_WIN_A.STATE = 1 then s.put (.THR_WIN_A v w) THR_WIN_A.STATE 2 else s, some eOk)

def execWindowClose (k : SecClass) (s : State) : Host.Outcome State Fault Refusal :=
  .next (s.secRow (clsIdx k) 6 (fun a => a = 1) State.windowShut)

/-! PART_KILL (R534). -/

/-- How often the partition is closed by a kill: a re-layout closes it once more. -/
def State.killClosed (s : State) (p : Nat) : Bool :=
  (if s.relaying.any fun r => r.part = p then 1 else 0) < s.closed.count p

def State.killPart (s : State) (p : Nat) : State :=
  let vs := s.vatsOf p
  let s := if s.killClosed p then s else { s with closed := s.closed ++ [p] }
  let s := (s.stepsOn p).foldl (fun s i => s.setReq i { s.req i with step := none }) s
  let s := ((s.cancelPart p).shKill p).pfxKill p
  let s := vs.foldl (fun s v => s.clearPerf v) (s.killVats vs)
  let rs := ((s.partSec p).getD {}).regions.filter fun (r : Region) => r.kind = 1 || r.kind = 2
  rs.foldl (fun s (r : Region) => s.zeroMem (fun _ => false) r.base r.size) s

def State.partKillCmd (s : State) (b : List Byte) : State × Option Nat :=
  let p := cbArg b 0 1
  if 16 ≤ p then (s, some eLayoutInvalid) else (s.killPart p, some eOk)

def execPartKill (k : SecClass) (s : State) : Host.Outcome State Fault Refusal :=
  .next (s.secRow (clsIdx k) 7 (fun _ => true) State.partKillCmd)

/-- PART_READMIT: the scrub has ended and the Vats are zeroed. -/
def State.readmit (s : State) (p : Nat) : State :=
  let done := (s.vatsOf p).all fun v => !(s.vat v).zeroing && s.get (.CELLAR_STATUS v) CELLAR_STATUS.SCRUB_BUSY = 0
  if s.killClosed p && done then { s with closed := s.closed.erase p } else s

def execPartReadmit (p : PartId) (s : State) : Host.Outcome State Fault Refusal :=
  .next (s.readmit p)

/-! COUNTER_RECORD_WRITE, AUTH_THROTTLE_END (R527, R532). -/

/-- x + 2^16, no further than the largest counter. -/
def ahead (x : Nat) : W64 := BitVec.ofNat 64 (min (2 ^ 64 - 1) (x + 65536))

/-- The marks that must move: of the head command that waits, and of slots whose LAST has come within 2^15 of H. -/
def State.marksDue (s : State) : List (Nat × W64) :=
  let waits := match s.sec.queue with
    | k :: _ =>
      let b := s.secBlock k
      let slot := cbTakes b
      if s.secCheck k b = 0 && (s.mark slot).toNat < cbCounter b then [(slot, ahead (cbCounter b))] else []
    | [] => []
  let near := (List.range 64).filterMap fun k =>
    if (s.mark k).toNat < s.lastOf k + 32768 && (s.mark k).toNat < (ahead (s.lastOf k)).toNat then some (k, ahead (s.lastOf k)) else none
  near ++ waits

def State.recordWrite (s : State) : State :=
  if s.boot.phase < 4 || s.marksDue.isEmpty then s
  else ((s.marksDue.foldl (fun s x => s.setMark x.1 x.2) s).writeRecord).secDrain 3

def execCounterRecordWrite (s : State) : Host.Outcome State Fault Refusal := .next s.recordWrite

def State.throttleEnd (s : State) (k : Nat) : State :=
  if s.throttled k && Tab.get (fun _ => 0) s.sec.until_ k ≤ s.now.toNat then
    { s with sec := { s.sec with until_ := Tab.set (fun _ => 0) s.sec.until_ k 0 } }.put .SEC_STATUS (thrFld k) 0
  else s

def execAuthThrottleEnd (k : SecClass) (s : State) : Host.Outcome State Fault Refusal :=
  .next (s.throttleEnd (clsIdx k))

end Sys2Proof.Machine
end

