-- ==== Sys2Proof/Machine/HostLink.lean ====
section
/-! DEFINITION. The host link (R477, R568-R578, R594, R595) and what befalls the module memory (R514, R517, R599,
R600). -/

namespace Sys2Proof.Machine

/-! HOST_ACC. -/

/-- A refused access of function `f` is recorded (R571, R585, R595). -/
def State.hostAcc (s : State) (f code off : Nat) (bar2 : Bool) : State :=
  let s := s.bump (.HOST_ACC f) HOST_ACC.COUNT
  let w := HOST_ACC.ERR.put (s.rd (.HOST_ACC f)) code
  let w := HOST_ACC.OFFSET.put w off
  let w := HOST_ACC.BAR2.put w bar2.toNat
  s.wr (.HOST_ACC f) (HOST_ACC.VALID.put w 1)

/-! Link and configuration. -/

/-- The PCIe functions serve requests: released, or in a core reset, which spares link and configuration (R477, R495). -/
def State.served (s : State) : Bool := s.boot.level.isNone || s.boot.level = some 2

/-- PCIE_LINK_UP (R594): the link trains in P4 and any time after a hot reset. -/
def State.linkUp (s : State) (speed width flit : Nat) : State :=
  let w := HOST_STATUS.LINK_UP.put (s.rd .HOST_STATUS) 1
  let w := HOST_STATUS.SPEED.put w speed
  let w := HOST_STATUS.WIDTH.put w width
  s.wr .HOST_STATUS (HOST_STATUS.FLIT.put w flit)

def execPcieLinkUp (speed : BitVec 3) (width : BitVec 5) (flit : Bool) (s : State) : Host.Outcome State Fault Refusal :=
  .next (if s.served || s.boot.phase = 4 then s.linkUp speed.toNat width.toNat flit.toNat else s)

/-- What a function's configuration space names it (R568, R569): Vendor ID, Device ID, Revision ID, class code. -/
def State.cfgIds (s : State) (f : Nat) : List Byte :=
  leBytes 2 0x4C56 ++ leBytes 2 (if f = 0 then 0x0016 else 0x0017) ++ leBytes 1 (s.get .GLB_ID GLB_ID.STEPPING) ++
    leBytes 3 0x120000

/-- CONFIGURATION_REQUEST (R477, R569): NumVFs up to TotalVFs and VF Enable belong to the physical function. -/
def State.config (s : State) (f : Nat) (q : CfgReq) : State :=
  if s.boot.phase = 0 || !s.funcOn f then s
  else if !s.served then s.emit (.cpl f .retry [] false)
  else
    match q with
    | .setNumVfs n =>
      if f = 0 && n ≤ s.get .HOST_STATUS HOST_STATUS.TOTAL_VFS
      then { s with numVfs := n }.put .HOST_STATUS HOST_STATUS.NUM_VFS n else s
    | .setVfEnable b => if f = 0 then { s with vfEnable := b } else s
    | .read => s.emit (.cpl f .ok (s.cfgIds f) false)
    | .other => s

def execConfigurationRequest (f : FuncId) (q : CfgReq) (s : State) : Host.Outcome State Fault Refusal :=
  .next (s.config f.val q)

/-- COALESCED_INTERRUPT_DUE: 5 µs after the last message the one held back goes out (R577). -/
def State.msiDue (s : State) (f vec : Nat) : State :=
  let m := Tab.get (fun _ => {}) s.msi (2 * f + vec)
  match m.last with
  | some t =>
    if m.held && t + 5000 ≤ s.now.toNat then
      { s.emit (.msix f vec) with msi := Tab.set (fun _ => {}) s.msi (2 * f + vec) { last := some s.now.toNat } }
    else s
  | none => s

def execCoalescedInterruptDue (f : FuncId) (vec : Fin 2) (s : State) : Host.Outcome State Fault Refusal :=
  .next (s.msiDue f.val vec.val)

/-! Function Level Reset (R578). -/

/-- One function: its host memory is not written again, its ring stops, its requests are cancelled, its Sheaf launches
are dropped. -/
def State.flrOne (s : State) (f : Nat) : State :=
  let l := s.liveReqs.filter fun i => (s.req i).func = f
  let s := l.foldl (fun (s : State) i => s.setReq i { s.req i with mute := true }) s
  let s := (s.put (.REEVE_RING_CFG f) REEVE_RING_CFG.ENABLE 0).ringRestart f
  let s := l.foldl (fun (s : State) i => (s.cancelReq i).1) s
  s.shReset f

/-- Of the physical function: of every function, and VF Enable is cleared. -/
def State.flr (s : State) (f : Nat) : State :=
  if f = 0 then { (List.range 64).foldl (fun s g => s.flrOne g) s with vfEnable := false } else s.flrOne f

def execFlr (f : FuncId) (s : State) : Host.Outcome State Fault Refusal :=
  .next (if s.served && s.funcOn f.val then s.flr f.val else s)

/-- HOT_RESET: also link down and PERST#; the link is down until it has trained again. -/
def State.hotReset (s : State) : State :=
  let s := if s.served then s.flr 0 else s
  let w := HOST_STATUS.LINK_UP.put (s.rd .HOST_STATUS) 0
  let w := HOST_STATUS.SPEED.put w 0
  let w := HOST_STATUS.WIDTH.put w 0
  s.wr .HOST_STATUS (HOST_STATUS.FLIT.put w 0)

def execHotReset (s : State) : Host.Outcome State Fault Refusal := .next s.hotReset

/-! BAR2 (R573, R574). -/

/-- Whether function `f` reaches `n` bytes of module memory, and the Cellar of `v`. -/
def State.reachMem (s : State) (f a n : Nat) : Bool := f = 0 || (s.partsOf f).any fun p => s.inHbm p a n
def State.reachVat (s : State) (f v : Nat) : Bool := s.valid v && (f = 0 || (s.partsOf f).contains (s.part v))

/-- What an access at offset `x` meets: how a request that is refused ends, and the code; none where it is not. -/
def State.bar2Err (s : State) (f x n : Nat) (write : Bool) : Option (Cpl × Nat) :=
  if s.boot.phase = 6 then some (.ur, eCfgLocked)
  else if x < memTop then
    if s.reachMem f x n then none else some (.ur, eLayoutInvalid)
  else
    let v := (x - memTop) / 2 ^ 32
    let y := (x - memTop) % 2 ^ 32
    if !s.reachVat f v then some (.ur, eLayoutInvalid)
    else if write && (y % 512 ≠ 0 || n ≠ 512) then some (.ca, eFormatInvalid)
    else if write && y / 512 < rowsPerCellar && s.gs v (bankOf (y / 512) / 32) = gsOff then some (.ca, eWindowClosed)
    else
      let e := s.claimErr v (bankOf (y / 512)) portRemote
      if e = 0 then none else some (.ca, e)

/-- A refusal is recorded; one by a claim rule counts in its Cellar (R605). -/
def State.bar2Refuse (s : State) (f x code : Nat) : State :=
  let s := if code = eBankUnclaimed || code = eBankClaimConflict
    then s.perf (puCellar ((x - memTop) / 2 ^ 32)) 0x04 [0, portRemote] 1 else s
  s.hostAcc f code (x / 4096) true

def State.bar2Write (s : State) (f x : Nat) (data : List Byte) : State :=
  match s.bar2Err f x data.length true with
  | some (st, code) =>
    let s := if code = eWindowClosed then s.lateDrop ((x - memTop) / 2 ^ 32) ((x - memTop) % 2 ^ 32 / 512) stopHost else s
    ((s.bar2Refuse f x code).log { code := code, cls := clsHost, verdict := 0, unit := f, sub := x / 4096 }).emit (.aer f st)
  | none =>
    if x < memTop then (s.store x data).perfs puGlb 0x01 [x / 2048 % 6, 6] data.length
    else
      let v := (x - memTop) / 2 ^ 32
      (s.setRow v ((x - memTop) % 2 ^ 32 / 512) data).perf (puCellar v) 0x02 [0, portRemote] 1

def execBar2Write (f : FuncId) (off : BitVec 38) (data : List Byte) (s : State) : Host.Outcome State Fault Refusal :=
  if bar2Shape off data.length 512
  then .next (if s.served && s.funcOn f.val then s.bar2Write f.val off.toNat data else s)
  else .fault .illFormed

def State.bar2Read (s : State) (f x n : Nat) : State :=
  match s.bar2Err f x n false with
  | some (st, code) => (s.bar2Refuse f x code).emit (.cpl f st [] false)
  | none =>
    let a := if x < memTop then x else 0x100000000000 + (x - memTop)
    let s := if x < memTop then s.perfs puGlb 0x00 [x / 2048 % 6, 6] n
      else s.perf (puCellar ((x - memTop) / 2 ^ 32)) 0x01 [0, portRemote] ((x + n - 1) / 512 - x / 512 + 1)
    s.emit (.cpl f .ok (s.bytes a n) (s.poisoned a n))

def execBar2Read (f : FuncId) (off : BitVec 38) (len : Nat) (s : State) : Host.Outcome State Fault Refusal :=
  if bar2Shape off len 4096
  then .next (if s.served && s.funcOn f.val then s.bar2Read f.val off.toNat len else s)
  else .fault .illFormed

/-! Units without spares (R518). -/

def outBit : OutUnit → Nat
  | .thresher => 0
  | .kvx => 1
  | .pfx => 2
  | .host => 3
  | .regBus => 4
  | .alwaysOn => 5

/-- The class under which a unit's loss is logged (log 135). -/
def outClass : OutUnit → Nat
  | .thresher => clsPort
  | .kvx => clsKvx
  | .pfx => clsPfx
  | .host | .regBus => clsHost
  | .alwaysOn => clsPwr

/-- A lasting fault puts a unit out of service: its bit, the log entry, and the live requests that need it fail. -/
def State.unitOut (s : State) (u : OutUnit) : State :=
  let k := outBit u
  if s.isOut k then s else
  let s := s.degrade fun w => ERR_DEGRADED.OUT.put w (ERR_DEGRADED.OUT.get w ||| 2 ^ k)
  let s := s.log { code := eCapacityDegraded, cls := outClass u, verdict := 4, unit := k }
  (s.liveReqs.filter fun i => (s.req i).needs k).foldl (fun s i => s.reqFail i eUncorrectable) s

/-! Module memory (R266, R514, R517, R522). -/

/-- The internal address of offset `off` of stack `h` (R266). -/
def stackAddr (h off : Nat) : Nat := (off / 2048 * 6 + h) * 2048 + off % 2048

/-- A pseudo-channel that no spare replaces: the module serves nothing more. -/
def State.hbmBreak (s : State) (h pc : Nat) : State :=
  let s := (s.retire 4 h pc).bump (.HBM_STATUS h) HBM_STATUS.RETIRED_PC
  let s := s.liveReqs.foldl (fun (s : State) i => s.reqFail i eUncorrectable) s
  let s := s.degrade fun w => ERR_DEGRADED.MODULE_DOWN.put w 1
  s.log { code := eCapacityDegraded, cls := clsHbm, verdict := 4, unit := h, sub := pc }

/-- The tags whose requests are in flight to a pseudo-channel of stack `h`, other than those of a killed partition. -/
def State.pcTags (s : State) (h pc : Nat) : List TagUse :=
  s.tags.filter fun t => !t.again && !(t.owner.any fun o => (s.vat o.1).killed) && match t.req with
    | .dnet p => p.dest = .stop h && match p.load with
      | .bytes a _ | .read a _ => a / 12288 % 64 = pc
      | _ => false
    | _ => false

/-- A pseudo-channel is retired to a spare: the copy begins, and requests in flight to it are reissued (R267, R514). -/
def State.hbmRetire (s : State) (h pc : Nat) : State :=
  let spares := s.get (.HBM_STATUS h) HBM_STATUS.PC_SPARES
  let due := s.pcTags h pc
  if spares = 0 then s.hbmBreak h pc
  else
    let s := (s.retire 4 h pc).bump (.HBM_STATUS h) HBM_STATUS.RETIRED_PC
    let s := s.put (.HBM_STATUS h) HBM_STATUS.PC_SPARES (spares - 1)
    let s := s.put (.HBM_STATUS h) HBM_STATUS.COPYING 1
    let s := s.log { code := eUncorrectable, cls := clsHbm, verdict := 3, unit := h, sub := pc, done := false }
    due.foldl State.tagReissue s

/-- The 64-byte access at an address is delivered poisoned. -/
def State.hbmPoison (s : State) (h a : Nat) : State :=
  (s.setPoison (a / 64 * 64) 64 true).bump (.HBM_ECC h) HBM_ECC.POISONED

/-- A second error while the pseudo-channel's copy still runs escalates (R522). -/
def State.hbmError (s : State) (h pc : Nat) (g : State → State) : State :=
  if s.logDepth clsHbm h pc = 0 then g s else s.hbmBreak h pc

/-- The pseudo-channel failed within the last 24 hours; it fails now (R514). -/
def State.failedToday (s : State) (h pc : Nat) : Bool :=
  match Tab.get (fun _ => none) s.pcFailed (64 * h + pc) with
  | some t => s.now.toNat < t + 86400000000000
  | none => false
def State.noteFailure (s : State) (h pc : Nat) : State :=
  { s with pcFailed := Tab.set (fun _ => none) s.pcFailed (64 * h + pc) (some s.now.toNat) }

def State.patrol (s : State) (h pc off : Nat) (r : Patrol) : State :=
  if s.get (.HBM_STATUS h) HBM_STATUS.TRAINED = 0 || off / 2048 % 64 ≠ pc then s
  else
    let rec_ : LogRec := { code := eOk, cls := clsHbm, verdict := 1, unit := h, sub := pc }
    match r with
    | .clean => s
    | .corrected => (s.bump (.HBM_ECC h) HBM_ECC.CORR).perfs puGlb 0x02 [h, 6] 1
    | .rereadClean => (s.bump (.HBM_ECC h) HBM_ECC.REREAD_OK).hbmError h pc fun s => s.log rec_
    | .failed resources => ((s.hbmPoison h (stackAddr h off)).noteFailure h pc).hbmError h pc fun t =>
        if !resources || s.failedToday h pc then t.hbmRetire h pc
        else (t.bump (.HBM_STATUS h) HBM_STATUS.REPAIRS).log { rec_ with code := eUncorrectable, verdict := 2 }

def execHbmPatrolScrub (h : StackId) (pc : Fin 64) (off : BitVec 35) (r : Patrol) (s : State) :
    Host.Outcome State Fault Refusal := .next (s.patrol h.val pc.val off.toNat r)

/-- HBM_PC_COPY_DONE: the handling of the retirement has ended (R521). -/
def execHbmPcCopyDone (h : StackId) (s : State) : Host.Outcome State Fault Refusal :=
  .next (if s.get (.HBM_STATUS h.val) HBM_STATUS.COPYING = 1
    then (s.put (.HBM_STATUS h.val) HBM_STATUS.COPYING 0).logDone clsHbm h.val else s)

end Sys2Proof.Machine
end

