-- ==== Sys2Proof/Machine/Perf.lean ====
section
/-! DEFINITION. The performance counters' own commands: samples, snapshots, bandwidth windows (R610-R616). -/

namespace Sys2Proof.Machine

/-- PERF_SAMPLE: which of its candidates the Vat records is not defined (R611): a free value (log 2). -/
def State.takeSample (s : State) (u i : Nat) : State :=
  let x := s.vat u
  match x.samples.find? fun y => y.1 = i with
  | none => s
  | some (_, t, cands) =>
    if cands.isEmpty then s else
    let (k, s) := s.fresh
    let (pc, c) := cands.getD ((Config.freeWord k).toNat % cands.length) (0, 0)
    let s := s.setVat u { x with samples := x.samples.filter fun y => y.1 ≠ i }
    let w := PERF_SAMPLE.PC.put 0 pc
    let w := PERF_SAMPLE.CTX.put w c
    let w := PERF_SAMPLE.CTR.put w i
    let s := s.wr (.PERF_SAMPLE u) (PERF_SAMPLE.VALID.put w 1)
    let s := s.wr (.PERF_SAMPLE_TIME u) (BitVec.ofNat 64 t)
    (s.traceRec t i u c 1 pc).emit (.reeveIrq clsVat u)

def execPerfSample (u i : Fin 16) (s : State) : Host.Outcome State Fault Refusal := .next (s.takeSample u.val i.val)

/-- A dump record (R612). -/
def State.dumpRecord (s : State) : List Byte :=
  let counts := (List.range 38).flatMap fun u =>
    (List.range 16).flatMap fun i => leBytes 8 (s.get (.PERF_VALUE u i) PERF_VALUE.COUNT)
  let ports := (List.range 18).flatMap fun p => leBytes 8 (s.rd (.PERF_BW_TX p)).toNat ++ leBytes 8 (s.rd (.PERF_BW_RX p)).toNat
  leBytes 8 0x4C565044 ++ leBytes 8 s.dumpSeq ++ leBytes 8 s.now.toNat ++
    leBytes 8 (s.get .PERF_DUMP_STAT PERF_DUMP_STAT.MISSED) ++ List.replicate 32 0 ++ counts ++ ports ++ List.replicate 32 0

/-- DUMP_SNAPSHOT: `busy`: the record before is still being written; SEQ advances all the same (R613). A new period
applies from here (R619). -/
def State.snapshot (s : State) (busy : Bool) : State :=
  if s.get .PERF_DUMP_CFG PERF_DUMP_CFG.EN = 0 then s
  else
    let slots := max 1 (s.get .PERF_DUMP_CFG PERF_DUMP_CFG.SLOTS)
    let a := s.get .PERF_DUMP_BASE PERF_DUMP_BASE.BASE * 4096 + s.dumpSeq % slots * 5248
    let s := if busy then s.bump .PERF_DUMP_STAT PERF_DUMP_STAT.MISSED
      else (s.store a s.dumpRecord).hbmCount 0x01 a 5248
    let s := { s with dumpSeq := s.dumpSeq + 1 }
    (s.put .PERF_DUMP_STAT PERF_DUMP_STAT.SEQ s.dumpSeq).apply .PERF_DUMP_CFG

def execDumpSnapshot (busy : Bool) (s : State) : Host.Outcome State Fault Refusal := .next (s.snapshot busy)

/-- One direction of a port: its window's bytes and rate; in ETH mode the bytes of Ethernet frames, which the header
sizes of other standards decide, are a free value (log 2). -/
def State.bwEnd (s : State) (r : Reg) (p rx us : Nat) : State :=
  let eth := s.get (.THR_PORT_CFG p) THR_PORT_CFG.MODE = 2
  let (k, t) := if eth then s.fresh else (0, s)
  let n := if eth then (Config.freeWord k).toNat % 2 ^ 40 else Tab.get (fun _ => 0) s.bw (2 * p + rx)
  let w := PERF_BW_TX.BYTES.put 0 n
  t.wr r (PERF_BW_TX.RATE.put w (n / (us * 100)))

/-- BW_WINDOW_END (R616): frozen, every window holds its values (R610); a new WIN_US applies from here (R619). -/
def State.windowEnd (s : State) : State :=
  if s.get .PERF_CTL PERF_CTL.FREEZE = 1 then s else
  let us := max 1 (s.getLive .PERF_BW_CFG PERF_BW_CFG.WIN_US)
  let s := (List.range 18).foldl (fun s p => (s.bwEnd (.PERF_BW_TX p) p 0 us).bwEnd (.PERF_BW_RX p) p 1 us) s
  { s with bw := [] }.apply .PERF_BW_CFG

def execBwWindowEnd (s : State) : Host.Outcome State Fault Refusal := .next s.windowEnd

end Sys2Proof.Machine
end

