-- ==== Sys2Proof/Machine/RegBus.lean ====
section
/-! DEFINITION. The register bus: what a master reaches, what it may write, when a field is idle, how a write applies,
who wins within a cycle (R4-R7, R12, R28, R103, R162, R234, R421, R477, R482, R495, R569-R572, R580-R585, R589, R615,
R617, R625). -/

namespace Sys2Proof.Machine

/-! Masters (R581, R582). -/

def isHost : Master → Bool
  | .host _ => true
  | _ => false
def isMgmt (m : Master) : Bool := m = .mgmt || m = .tap
def isFabric (m : Master) : Bool := m = .thrA || m = .thrB
/-- The physical function. -/
def isPf : Master → Bool
  | .host f => f.val = 0
  | _ => false
/-- The number of a host master's function. -/
def funcOf : Master → Nat
  | .host f => f.val
  | _ => 0
/-- The SEC class of a master (R536): 0 MGMT, 1 HOST, 2 FABRIC; none for Reeve firmware. -/
def secClassOf : Master → Nat
  | .host _ => 1
  | .mgmt => 0
  | .tap => 0
  | .thrA => 2
  | .thrB => 2
  | .reeve => 3

/-- The aliases of the MGMT mirror (R598). -/
def aliasOf (o : Nat) : Nat :=
  if 0xF01000 ≤ o ∧ o < 0xF01000 + 8 * 56 then 0x41000 + (o - 0xF01000)
  else if o = 0xF01800 then (Reg.SEC_CMD_CTRL 0).off
  else if o = 0xF01808 then (Reg.SEC_CMD_RESULT 0).off
  else o

/-! What shows. -/

/-- Spare lane positions neither in use nor bad (R105). -/
def lanesFree (w : W64) : Nat :=
  (1 - min 1 (VAT_LANE_REMAP.S0_VALID.get w + VAT_LANE_REMAP.SP0_BAD.get w)) +
    (1 - min 1 (VAT_LANE_REMAP.S1_VALID.get w + VAT_LANE_REMAP.SP1_BAD.get w))

def State.streamBusy (s : State) (v : Nat) : Nat := ((List.range 64).filter fun i => !(s.stream v i).queue.isEmpty).length

/-- The bits of a set of numbers below `n`. -/
def bitsOf (n : Nat) (l : List Nat) : Nat := (List.range n).foldl (fun w i => if l.contains i then w + 2 ^ i else w) 0

/-- State of a stream (R277). -/
def streamState (t : Stream) : Nat :=
  if t.stopped then 3
  else if t.queue.isEmpty then 0
  else match t.head with
    | some d => if d.taken then 1 else if dWkind d.bytes ≠ 0 then 2 else 1
    | none => 1

/-- The slots that the instruction at the context's PC reads, where it can be part-done (R171). -/
def State.partSlots (s : State) (v c : Nat) : List Nat :=
  match s.fetch v c with
  | none => []
  | some w =>
    let o := hOpc w
    sortSlots (if o = opTile then tlSlots w else if o = opDrain then drSlots w else if o = opAttn then atSlots w
      else if o = opRind then rdSlots w else if o = opSkim then skSlots w else [])

/-- The status fields that a register shows of state held elsewhere. -/
def State.view (s : State) (r : Reg) : W64 :=
  let w := s.rd r
  match r with
  | .VAT_STATUS v => VAT_STATUS.SPARES_FREE.put w (lanesFree (s.rd (.VAT_LANE_REMAP v)))
  | .VAT_PROG v a h => BitVec.ofNat 64 (s.word v (8192 * s.get (.VAT_PROG_WIN v) VAT_PROG_WIN.HALF + a) / 2 ^ (64 * h))
  | .VAT_CTX_RSLOT v c k =>
    if s.get (.VAT_CTX_RESUME v c) VAT_CTX_RESUME.MID = 1 ∧ k < (s.partSlots v c).length then w else 0
  | .CELLAR_STATUS v =>
    CELLAR_STATUS.SPARES_FREE.put (CELLAR_STATUS.DIRTY_ROWS.put w (s.dirtyRows v))
      ((List.range 4).filter fun i => s.spareFree v i).length
  | .SKIM_CTRL v => SKIM_CTRL.AVAIL.put w (s.skimAvail v).toNat
  | .CELLAR_CLAIM v b => s.claimView v b
  | .WAGON_GLB_TAGS =>
    WAGON_GLB_TAGS.SHARED_FREE.put w (7296 - (s.tags.filter fun (t : TagUse) => t.owner.isSome).length)
  | .WAGON_STATUS v =>
    let w := WAGON_STATUS.TAGS_USED.put 0 (s.wagonTags v)
    let w := WAGON_STATUS.ACTIVE.put w (s.streamBusy v)
    WAGON_STATUS.BUSY.put w (if s.wagonTags v = 0 ∧ s.streamBusy v = 0 then 0 else 1)
  | .WAGON_STREAM_STAT v i =>
    let t := s.stream v i
    let w := WAGON_STREAM_STAT.STATE.put w (streamState t)
    let w := WAGON_STREAM_STAT.QUEUED.put w t.queue.length
    let w := WAGON_STREAM_STAT.CTX.put w ((t.batch.map Batch.ctx).getD 0)
    if t.stopped then w else WAGON_STREAM_STAT.DIDX.put w (((t.descs.find? fun d => !d.complete).map Desc.idx |>.getD 0))
  | .KVX_STATUS =>
    let w := KVX_STATUS.DOWN_COUNT.put 0 ((List.range 4096).filter fun d => s.get (.KVX_DEST_CFG d) KVX_DEST_CFG.DOWN = 1).length
    let w := KVX_STATUS.QUEUED.put w (s.dests.foldl (fun n (x : Nat × DestX) => n + x.2.queue.length) 0)
    KVX_STATUS.TAGS_USED.put w s.kvxTags
  | .KVX_DEST_STAT d => KVX_DEST_STAT.QUEUED.put w (s.dest d).queue.length
  | .PFX_STATUS =>
    let n := (List.range 16).foldl (fun n g => n + ((List.range (s.pfxN g)).filter fun i => s.pfxState g i = peValid).length) 0
    PFX_STATUS.SPILLED.put (PFX_STATUS.VALID.put w n) (s.reqs.filter fun (x : Nat × ReqX) => x.2.spillHeld).length
  | .SHEAF_DEF_B d => s.shDefB d
  | .SHEAF_STATUS => SHEAF_STATUS.ACTIVE.put (SHEAF_STATUS.QUEUED.put w s.launches.length) s.ops.length
  | .SHEAF_SEQ d => SHEAF_SEQ.ACTIVE.put w (s.ops.any fun (o : ShOp) => o.d = d).toNat
  | .REEVE_STATUS => REEVE_STATUS.ACTIVE.put w s.liveReqs.length
  | .RST_UNITS => RST_UNITS.RETIRED.put (RST_UNITS.FREE.put 0 (bitsOf 18 s.freePhys)) (bitsOf 18 s.retiredVats)
  | _ => w

/-- What a write starts from: the stored value, of a program word the word itself (R175). -/
def State.stored (s : State) (r : Reg) : W64 :=
  match r with
  | .VAT_PROG _ _ _ => s.view r
  | _ => s.rd r

/-! What a master reaches. -/

/-- The block is none of a Vat, or one of a logical Vat in service (R12). -/
def State.vatThere (s : State) (b : Block) : Bool :=
  match b with
  | .vat v | .cellar v | .wagon v => s.valid v
  | _ => true

/-- The power domain of a block of registers (R26). -/
def State.blockDom (s : State) (b : Block) : Domain :=
  match b with
  | .vat v | .wagon v => .control (s.phys v)
  | .cellar v => .periphery (s.phys v)
  | .thr | .kvx => .thresher
  | .port i => .portLogic i
  | .reeve | .pfx => .reeve
  | .host => .pcieCtl
  | _ => .regBus

/-- The block answers the master: its domain is on, its Vat valid, recovery and the time before release leave it in
(R12, R28, R477, R482, R495, R589). -/
def State.blockOn (s : State) (m : Master) (o : Nat) (b : Block) : Bool :=
  let ph := s.boot.phase
  let early := match b with
    | .glb => o < 8
    | .rst | .layout | .sec => true
    | .mgmt => isMgmt m
    | _ => false
  if ph = 0 || !s.domOn (s.blockDom b) then false
  else if ph = 6 then
    match b with
    | .glb | .rst | .layout | .sec | .err => true
    | .mgmt => isMgmt m
    | _ => false
  else if !s.served then early || (m = .reeve && 3 ≤ ph && s.vatThere b)
  else
    let up := s.boot.level.isNone || (m = .reeve && 3 ≤ ph)
    match b with
    | .vat _ | .cellar _ | .wagon _ => up && s.vatThere b
    | .wagonGlb | .reeve | .kvx | .pfx => up
    | _ => true

/-- Whether counter `i` lies in the range of function `f` (R316). -/
def State.budgetIn (s : State) (f i : Nat) : Bool :=
  let base := s.get (.REEVE_RING_CFG f) REEVE_RING_CFG.BUDGET_BASE
  base ≤ i && i < base + s.get (.REEVE_RING_CFG f) REEVE_RING_CFG.BUDGET_COUNT

/-- What a virtual function reaches (R572, R617). -/
def State.vfReach (s : State) (f : Nat) (b : Block) (r : Option Reg) (write : Bool) : Bool :=
  let mine := fun (v : Nat) => s.valid v && (s.partsOf f).contains (s.part v)
  let user := !write && s.get .PERF_FUNC PERF_FUNC.PERF_USER / 2 ^ (f - 1) % 2 = 1
  match b with
  | .glb | .rst | .pwr | .layout | .thr | .pfx => !write
  | .port _ => !write
  | .vat v | .cellar v | .wagon v => (s.partsOf f).contains (s.part v)
  | .reeve =>
    match r with
    | some .REEVE_STATUS => !write
    | some .REEVE_MBOX_CMD | some .REEVE_MBOX_RESULT => true
    | some (.REEVE_MBOX_ARG _) => true
    | some (.REEVE_RING_BASE g) | some (.REEVE_RING_CFG g) | some (.REEVE_RING_PTR g) => g = f
    | some (.REEVE_BUDGET_CFG i) | some (.REEVE_BUDGET_BAL i) => s.budgetIn f i
    | _ => false
  | .kvx =>
    let own := fun (d : Nat) => s.get (.KVX_DEST_CFG d) KVX_DEST_CFG.OWNER = f
    match r with
    | some .KVX_STATUS => !write
    | some (.KVX_DEST_CFG d) | some (.KVX_DEST_BASE d) | some (.KVX_DEST_KEY d) | some (.KVX_DEST_QP d)
    | some (.KVX_DEST_CREDIT d) | some (.KVX_DEST_SEQ d) | some (.KVX_DEST_STAT d) => own d
    | _ => false
  | .host =>
    match r with
    | some .HOST_STATUS => !write
    | some (.HOST_ACC g) => g = f
    | _ => false
  | .perf =>
    match r with
    | some (.PERF_CFG u _) | some (.PERF_VALUE u _) => user && u < 32 && mine (u % 16)
    | some (.PERF_SAMPLE u) | some (.PERF_SAMPLE_TIME u) => user && mine u
    | _ => false
  | _ => false

/-- SEC and ERR are read only through the physical function and the management class, and by Reeve firmware, which writes
the log (R533; log 171). -/
def secretFrom (m : Master) (b : Block) (write : Bool) : Bool :=
  isFabric m && !write && match b with
    | .sec | .err => true
    | _ => false

/-- Whether an access reaches its block at all. -/
def State.reaches (s : State) (m : Master) (o : Nat) (b : Block) (r : Option Reg) (write : Bool) : Bool :=
  s.blockOn m o b && !secretFrom m b write && (!isHost m || isPf m || s.vfReach (funcOf m) b r write)

/-- Whether the master's class may write the register (R103, R234, R580, R582 and the chapters' own words). -/
def State.admits (s : State) (m : Master) (r : Reg) (b : Block) : Bool :=
  let job := isHost m || m = .reeve
  let pfJob := isPf m || m = .reeve
  match b with
  | .glb | .layout | .thr | .port _ => m = .reeve
  | .rst => m = .reeve && r = .RST_WDT
  | .pwr => isMgmt m || isPf m || isFabric m
  | .sec =>
    match r with
    | .SEC_CMD_BUF k _ | .SEC_CMD_CTRL k | .SEC_CMD_RESULT k => k = secClassOf m
    | _ => false
  | .err => pfJob && r = .ERR_HOST
  | .perf => if r = .PERF_FUNC then isPf m else pfJob
  | .reeve => job
  | .vat _ =>
    match r with
    | .VAT_CHK_CTRL _ | .VAT_LANE_REMAP _ | .VAT_CURD_SPLIT _ => m = .reeve
    | _ => job
  | .cellar _ => m = .reeve
  | .wagonGlb => m = .reeve
  | .wagon _ => job
  | .hbm =>
    match r with
    | .HBM_ECC _ => pfJob || isMgmt m
    | _ => m = .reeve
  | .kvx =>
    match r with
    | .KVX_DEST_BASE d | .KVX_DEST_KEY d | .KVX_DEST_QP d | .KVX_DEST_CREDIT d | .KVX_DEST_SEQ d | .KVX_DEST_STAT d =>
      m = .reeve || (isHost m && s.get (.KVX_DEST_CFG d) KVX_DEST_CFG.OWNER = funcOf m)
    | .KVX_DEST_CFG _ => job
    | _ => pfJob
  | .pfx => pfJob
  | .host =>
    match r with
    | .HOST_ACC g => isPf m || (isHost m && g = funcOf m)
    | _ => isHost m
  | .mgmt => isMgmt m

/-! IL fields: idle owners (R6). -/

/-- The bits of the fields of a type. -/
def Reg.bits (r : Reg) (tys : List FTy) : W64 :=
  r.flds.foldl (fun w f => if tys.contains f.ty then w ||| f.mask else w) 0

/-- No context of the partition of `v` is at work, or `v` is not in service (R234; R30 to R32). -/
def State.partIdle (s : State) (v : Nat) : Bool := !s.valid v || s.partStill (s.part v)

/-- Whether the Cellar holds no claim and runs no copy (R234). -/
def State.cellarIdle (s : State) (v : Nat) : Bool :=
  !(s.claims.any fun c => c.v = v) && (List.range 4).all fun i => s.get (.CELLAR_BANK_MAP v) (bmCopying i) = 0

/-- The enabled destinations for which `f` holds. -/
def State.enabledDest (s : State) (f : Nat → Bool) : Bool :=
  (List.range 4096).any fun d => s.get (.KVX_DEST_CFG d) KVX_DEST_CFG.ENABLE = 1 && f d

/-- Whether the spill area of a function holds a record: one that has expired is none (R352, R353). -/
def State.spills (s : State) (f : Nat) : Bool :=
  s.reqs.any fun (x : Nat × ReqX) => x.2.func = f && x.2.spillHeld

/-- Whether the owner of a register's IL fields is idle, where they have one owner (R6, R103, R162, R234, R311-R316,
R353-R372, R397-R399, R430-R437, R470, R528, R621-R624). -/
def State.ilIdle (s : State) (r : Reg) : Bool :=
  let dest := fun (d : Nat) => s.get (.KVX_DEST_CFG d) KVX_DEST_CFG.ENABLE = 0
  let onPort := fun (x : Nat) => !s.enabledDest fun d => s.get (.KVX_DEST_CFG d) KVX_DEST_CFG.PATH = x + 1
  let peer := fun (i : Nat) => !s.enabledDest fun d =>
    s.get (.KVX_DEST_CFG d) KVX_DEST_CFG.PATH ≠ 0 && s.get (.KVX_DEST_CFG d) KVX_DEST_CFG.PEER = i
  let spill := fun (f : Nat) => s.get (.PFX_FUNC_CFG f) PFX_FUNC_CFG.SPILL_EN = 0 && !s.spills f
  match r with
  | .PERF_DUMP_BASE | .PERF_DUMP_CFG => s.get .PERF_DUMP_CFG PERF_DUMP_CFG.EN = 0
  | .PERF_TRACE_BASE | .PERF_TRACE_CFG => s.get .PERF_TRACE_CFG PERF_TRACE_CFG.EN = 0
  | .REEVE_RING_BASE f | .REEVE_RING_CFG f => s.get (.REEVE_RING_CFG f) REEVE_RING_CFG.ENABLE = 0
  | .REEVE_GRAM_BASE g | .REEVE_GRAM_CFG g => s.get (.REEVE_GRAM_CFG g) REEVE_GRAM_CFG.ENABLE = 0
  | .REEVE_VARIANT_CFG x => !s.liveReqs.any fun i => (s.req i).variant = x
  | .VAT_LANE_REMAP v | .VAT_CURD_SPLIT v => (s.running v).isNone
  | .VAT_CTX_STATUS v c | .VAT_CTX_PROG v c | .VAT_CTX_RESUME v c | .VAT_CTX_LOOPEND v c | .VAT_CTX_KEPT v c => s.ctxIdle v c
  | .VAT_CTX_LOOP v c _ | .VAT_CTX_RSLOT v c _ | .VAT_CTX_GEN v c _ _ => s.ctxIdle v c
  | .VAT_PROG v a _ => (s.wordOwners v (8192 * s.get (.VAT_PROG_WIN v) VAT_PROG_WIN.HALF + a)).all fun c => s.ctxIdle v c
  | .CELLAR_GROUP_CTRL v => s.partIdle v
  | .CELLAR_BANK_MAP v => s.cellarIdle v
  | .THR_PORT_CFG p => [psOff, psFailed, psDetour].contains (s.portSt p)
  | .THR_GLB_CFG => (List.range 18).all fun p => s.portSt p = psOff
  | .THR_INBOUND_A i | .THR_INBOUND_B i => s.get (.THR_INBOUND_A i) THR_INBOUND_A.VALID = 0
  | .SHEAF_DEF_A d => !(s.launches.any fun (l : Launch) => l.d = d) && !s.ops.any fun (o : ShOp) => o.d = d
  | .KVX_PORT_CFG x | .KVX_PORT_NET x | .KVX_PORT_IP_HI x | .KVX_PORT_IP_LO x => onPort x
  | .KVX_PEER_MAC i | .KVX_PEER_IP_HI i | .KVX_PEER_IP_LO i => peer i
  | .KVX_DEST_CFG d | .KVX_DEST_BASE d | .KVX_DEST_KEY d | .KVX_DEST_QP d => dest d
  | .PFX_FUNC_CFG f | .PFX_SPILL_BASE f | .PFX_SPILL_SIZE f => spill f
  | _ => true

/-- The bits of the entries of logical Vats `v0` on, `w` bits each, whose partition is at work (R30 to R32). -/
def State.busyVats (s : State) (v0 w : Nat) : W64 :=
  BitVec.ofNat 64 ((List.range (64 / w)).foldl (fun n i => if s.partIdle (v0 + i) then n else n + (2 ^ w - 1) * 2 ^ (w * i)) 0)

/-- The IL bits of a register whose owner is at work. SPILL_EN may be cleared once its area is empty (R353). -/
def State.ilBusy (s : State) (r : Reg) : W64 :=
  let il := Reg.bits r [.il]
  match r with
  | .GLB_VAT_MAP_LO => il &&& s.busyVats 0 8
  | .GLB_VAT_MAP_HI => il &&& s.busyVats 8 8
  | .GLB_VAT_PART => il &&& s.busyVats 0 4
  | .PFX_FUNC_CFG f => if s.ilIdle r then 0 else if s.spills f then il else il &&& ~~~PFX_FUNC_CFG.SPILL_EN.mask
  | _ => if s.ilIdle r then 0 else il

/-! Rules of one register. -/

/-- Fields only the physical function may change (R314, R361), and registers that refuse every write while a command
runs (R306, R528). -/
def State.refuses (s : State) (m : Master) (r : Reg) (ch : W64) : Bool :=
  let owner := KVX_DEST_CFG.OWNER.mask
  match r with
  | .REEVE_MBOX_CMD | .REEVE_MBOX_RESULT => s.get .REEVE_MBOX_CMD REEVE_MBOX_CMD.GO = 1
  | .REEVE_MBOX_ARG _ => s.get .REEVE_MBOX_CMD REEVE_MBOX_CMD.GO = 1
  | .SEC_CMD_BUF k _ => s.get (.SEC_CMD_CTRL k) SEC_CMD_CTRL.GO = 1
  | .SEC_CMD_CTRL k => s.get (.SEC_CMD_CTRL k) SEC_CMD_CTRL.GO = 1
  | .REEVE_RING_CFG _ =>
    isHost m && !isPf m &&
      ch &&& (REEVE_RING_CFG.BUDGET_COUNT.mask ||| REEVE_RING_CFG.BUDGET_BASE.mask ||| REEVE_RING_CFG.PRIO_MAX.mask) ≠ 0
  | .REEVE_BUDGET_CFG i => isHost m && !s.budgetIn (funcOf m) i
  | .KVX_DEST_CFG d =>
    isHost m &&
      ((!isPf m && ch &&& owner ≠ 0) ||
        (s.get (.KVX_DEST_CFG d) KVX_DEST_CFG.OWNER ≠ funcOf m && ch &&& ~~~owner ≠ 0))
  | _ => false

/-- Whether a ring of `n` bytes at `a` lies in module memory outside every partition and group region (R615). -/
def State.ringFree (s : State) (a n : Nat) : Bool :=
  let rs := s.layout.parts.flatMap (fun (x : Nat × PartSec) => x.2.regions) ++
    s.layout.groups.flatMap fun (x : Nat × GroupSec) => x.2.regions
  a + n ≤ memTop && !rs.any fun r => r.base < a + n && a < r.base + r.size

/-- What setting or clearing an ENABLE meets (R340, R382, R361, R615); `w` is the value the register would take. -/
def State.enableErr (s : State) (r : Reg) (w : W64) : Nat :=
  let old := s.rd r
  let rises := fun (f : Fld) => f.get old = 0 && f.get w = 1
  let falls := fun (f : Fld) => f.get old = 1 && f.get w = 0
  match r with
  | .KVX_DEST_CFG d =>
    if rises KVX_DEST_CFG.ENABLE then s.destEnableErr w
    else if falls KVX_DEST_CFG.ENABLE && s.destNamed d then eCfgLocked else eOk
  | .REEVE_GRAM_CFG g =>
    if rises REEVE_GRAM_CFG.ENABLE then if (s.wr r w).gramOk g then eOk else eLayoutInvalid
    else if falls REEVE_GRAM_CFG.ENABLE && s.gramNamed g then eCfgLocked else eOk
  | .PERF_DUMP_CFG =>
    if rises PERF_DUMP_CFG.EN &&
        !s.ringFree (s.get .PERF_DUMP_BASE PERF_DUMP_BASE.BASE * 4096) (max 1 (PERF_DUMP_CFG.SLOTS.get w) * 5248)
    then eLayoutInvalid else eOk
  | .PERF_TRACE_CFG =>
    if rises PERF_TRACE_CFG.EN &&
        !s.ringFree (s.get .PERF_TRACE_BASE PERF_TRACE_BASE.BASE * 4096) (max 1 (PERF_TRACE_CFG.SLOTS.get w) * 16)
    then eLayoutInvalid else eOk
  | _ => eOk

/-- CLEAR zeroes a register's counts: those of PWR_STAT with every PWR_DROOP count (R564). -/
def State.clearStat (s : State) (r : Reg) : State :=
  let s := s.wr r 0
  if r = .PWR_STAT then (List.range 65).foldl (fun s i => s.wr (.PWR_DROOP i) 0) s else s

/-- The two halves of the program word that the window shows (R175). -/
def State.setProg (s : State) (v a h : Nat) (x : W64) : State :=
  let a := 8192 * s.get (.VAT_PROG_WIN v) VAT_PROG_WIN.HALF + a
  let old := s.word v a
  let w := if h = 0 then old / 2 ^ 64 * 2 ^ 64 + x.toNat else x.toNat * 2 ^ 64 + old % 2 ^ 64
  { s with prog := Tab.set zero128 s.prog (v * 0x4000 + a) (BitVec.ofNat 128 w) }

/-- The groups whose PWR bit the write changes (R227). -/
def State.setPwr (s : State) (v : Nat) (w : W64) : State :=
  [0, 1, 2, 3].foldl (fun s g =>
    let on := decide ((pwrFld g).get w = 1)
    if s.get (.CELLAR_GROUP_CTRL v) (pwrFld g) = on.toNat then s else s.pwrBit v g on) s

/-- A write that nothing refuses takes effect: `val` is what was written, `w` the value the register takes. -/
def State.effect (s : State) (m : Master) (r : Reg) (val w : W64) : State × Nat :=
  let clear := fun (f : Fld) => if f.get val = 1 then (s.clearStat r, eOk) else (s, eOk)
  match r with
  | .GLB_DNET_ERR => clear GLB_DNET_ERR.CLEAR
  | .VAT_CHK_STAT _ => clear VAT_CHK_STAT.CLEAR
  | .VAT_ECC_STAT _ => clear VAT_ECC_STAT.CLEAR
  | .CELLAR_ERR_STAT _ => clear CELLAR_ERR_STAT.CLEAR
  | .SKIM_STAT _ => clear SKIM_STAT.CLEAR
  | .THR_PORT_ERR _ => clear THR_PORT_ERR.CLEAR
  | .SHEAF_STAT => clear SHEAF_STAT.CLEAR
  | .HBM_ECC _ => clear HBM_ECC.CLEAR
  | .KVX_STAT => clear KVX_STAT.CLEAR
  | .PFX_STAT => clear PFX_STAT.CLEAR
  | .PFX_SPILL_STAT => clear PFX_SPILL_STAT.CLEAR
  | .PWR_STAT => clear PWR_STAT.CLEAR
  | .HOST_ACC _ =>
    (if HOST_ACC.VALID.get val = 1 then s.wr r (HOST_ACC.COUNT.put (HOST_ACC.VALID.put (s.rd r) 0) 0) else s.wr r w, eOk)
  | .GLB_VAT_PART =>
    ((List.range 16).foldl (fun s v => s.put (.VAT_STATUS v) VAT_STATUS.PART ((mapPart v).get w)) (s.wr r w), eOk)
  | .RST_WDT =>
    let s := s.wr r w
    (if RST_WDT.KICK.get val = 1 then { s with boot := { s.boot with wdt := s.now.toNat } } else s, eOk)
  | .SEC_CMD_CTRL k => (if SEC_CMD_CTRL.GO.get val = 1 then s.secGo k else s, eOk)
  | .PERF_DUMP_CFG =>
    let start := PERF_DUMP_CFG.EN.get (s.rd r) = 0 && PERF_DUMP_CFG.EN.get w = 1
    let s := s.wr r w
    (if start then ({ s with dumpSeq := 0 }.put .PERF_DUMP_STAT PERF_DUMP_STAT.SEQ 0).apply r else s, eOk)
  | .REEVE_MBOX_CMD =>
    let s := s.wr r w
    if REEVE_MBOX_CMD.GO.get val = 0 then (s, eOk)
    else
      let s := { s with mboxFunc := funcOf m }
      (if [1, 2, 3, 4, 5].contains (REEVE_MBOX_CMD.OPCODE.get w) then s else s.mboxEnd eIllegalOp, eOk)
  | .REEVE_RING_CFG f =>
    let moved := REEVE_RING_CFG.ENABLE.get (s.rd r) ≠ REEVE_RING_CFG.ENABLE.get w
    let s := s.wr r w
    (if moved then s.ringRestart f else s, eOk)
  | .KVX_DEST_CFG d =>
    let start := KVX_DEST_CFG.ENABLE.get (s.rd r) = 0 && KVX_DEST_CFG.ENABLE.get w = 1
    let s := s.wr r w
    (if start then s.destStart d else s, eOk)
  | .KVX_DEST_CREDIT d => s.creditSet d val.toNat
  | .VAT_CTX_CTRL v c => s.ctxCtrl v c val
  | .VAT_PROG v a h => (s.setProg v a h w, eOk)
  | .CELLAR_GROUP_CTRL v =>
    let keep := s.rd r &&& Reg.bits r [.rw]
    ((s.wr r ((w &&& ~~~Reg.bits r [.rw]) ||| keep)).setPwr v w, eOk)
  | .WAGON_STREAM_CFG v i =>
    if WAGON_STREAM_CFG.RESET.get val = 1 then
      if (s.stream v i).stopped then ((s.wr r w).streamReset v i, eOk) else (s, eCfgLocked)
    else (s.wr r w, eOk)
  | _ => (s.wr r w, eOk)

/-! One access. -/

/-- The value a register takes from a write of `val` (R4). -/
def regNew (r : Reg) (old val : W64) : W64 :=
  let plain := Reg.bits r [.rw, .st, .il]
  (((old &&& ~~~plain) ||| (val &&& plain)) &&& ~~~(val &&& Reg.bits r [.w1c])) ||| (val &&& Reg.bits r [.w1s])

/-- A write of `size` bytes as one of the whole register (R571): the other half keeps its values. -/
def wholeWrite (r : Reg) (old : W64) (o size : Nat) (val : W64) : W64 :=
  let keep := old &&& Reg.bits r [.rw, .st, .il]
  if size = 8 then val
  else if o % 8 = 0 then (keep &&& 0xFFFFFFFF00000000) ||| (val &&& 0xFFFFFFFF)
  else (keep &&& 0xFFFFFFFF) ||| (val <<< 32)

/-- The functions a REEVE register belongs to and that do not exist: a write has no effect (R569). -/
def State.noFunc (s : State) (r : Reg) : Bool :=
  match r with
  | .REEVE_RING_BASE f | .REEVE_RING_CFG f | .REEVE_RING_PTR f => !s.funcOn f
  | _ => false

/-- Why a write is refused before the register is looked at: CFG_LOCKED where it does not reach or is not admitted. -/
def State.writeRight (s : State) (m : Master) (o : Nat) : Nat :=
  match Block.ofOff o with
  | none => eOk
  | some (b, _) =>
    let r := Reg.ofOff (o / 8 * 8)
    if !s.reaches m o b r true then eCfgLocked
    else match r with
      | some r => if s.admits m r b then eOk else eCfgLocked
      | none => eOk

/-- What keeps a write of the register out: the code, or 0. -/
def State.writeErr (s : State) (m : Master) (r : Reg) (w : W64) : Nat :=
  let ch := (s.stored r ^^^ w) &&& Reg.bits r [.rw, .st, .il, .w1s]
  if s.refuses m r ch then eCfgLocked
  else
    let e := s.regRange r w
    if e ≠ eOk then e else s.enableErr r w

/-- The bits of a register that a write of `size` bytes at `o` reaches (R571). -/
def wholeMask (o size : Nat) : W64 :=
  if size = 8 then BitVec.allOnes 64 else if o % 8 = 0 then 0xFFFFFFFF else 0xFFFFFFFF00000000

/-- The IL bits that a write reaches and that keep their value because their owner is at work (R6). -/
def State.ilKept (s : State) (r : Reg) (off size : Nat) : W64 := s.ilBusy r &&& wholeMask off size

/-- Whether the block of a register leaves idle in this cycle (R584). -/
def leavesIdle (hw : List HwUpdate) (r : Reg) : Bool := hw.any fun u => match u with
  | .leavesIdle o => o.toNat = r.off
  | _ => false

/-- A write on the bus: its effect and its result code. Offsets that hold no register ignore it (R7); an IL field whose
owner is at work keeps its value, reported CFG_LOCKED, and the register's other fields take theirs (R4, R6). -/
def State.busDo (s : State) (m : Master) (off size : Nat) (val : W64) (hw : List HwUpdate := []) : State × Nat :=
  let o := aliasOf (off / 8 * 8)
  let e := s.writeRight m o
  if s.isOut 4 then (s, eUncorrectable)
  else if e ≠ eOk then (s, e)
  else match Reg.ofOff o with
    | none => (s, eOk)
    | some r =>
      if s.noFunc r then (s, eOk)
      else
        let old := s.stored r
        let val := wholeWrite r old off size val
        let kept := if leavesIdle hw r then Reg.bits r [.il] &&& wholeMask off size else s.ilKept r off size
        let w := (regNew r old val &&& ~~~kept) ||| (old &&& kept)
        let e := s.writeErr m r w
        if e ≠ eOk then (s, e)
        else
          let (s, e) := s.effect m r val w
          (s, if kept = 0 then e else eCfgLocked)

/-- A read: the value and the result code. WO fields read zero (R4), and so does a refused read (R571). -/
def State.busRead (s : State) (m : Master) (off : Nat) : W64 × Nat :=
  let o := aliasOf (off / 8 * 8)
  if s.isOut 4 then (0, eUncorrectable) else
  match Block.ofOff o with
  | none => (0, eOk)
  | some (b, _) =>
    let r := Reg.ofOff o
    if !s.reaches m o b r false then (0, eCfgLocked)
    else match r with
      | some r => (s.view r &&& ~~~Reg.bits r [.wo], eOk)
      | none => (0, eOk)

/-- Where the result of a write appears (R585): HOST_ACC, the management port's status, the TAP's. -/
def State.accResult (s : State) (m : Master) (off code : Nat) : State :=
  match m with
  | .host f => if code = eOk then s else s.hostAcc f.val code off false
  | .mgmt => { s with mgmtStatus := code }
  | .tap => { s with tapStatus := code }
  | _ => s

/-- Sizes and alignments the masters have (R571, R587). -/
def accessOk (m : Master) (off size : Nat) : Bool := (size = 8 && off % 8 = 0) || (isHost m && size = 4 && off % 4 = 0)

/-- Before release the host function shows no BAR, and functions beyond NumVFs do not exist (R477, R569). -/
def State.hostGone (s : State) (m : Master) : Bool :=
  isHost m && (!s.funcOn (funcOf m) || !s.served)

/-- A write and its result code; of another size or alignment it accesses nothing. -/
def State.busCode (s : State) (m : Master) (off size : Nat) (val : W64) (hw : List HwUpdate := []) : State × Nat :=
  if accessOk m off size then s.busDo m off size val hw else (s, eIllegalOp)

/-- A write by a master, its result delivered. A host access of another size or alignment is an Unsupported Request. -/
def State.busWrite (s : State) (m : Master) (off size : Nat) (val : W64) (hw : List HwUpdate := []) : State :=
  if s.hostGone m then s
  else if isHost m && !accessOk m off size then s.emit (.aer (funcOf m) .ur)
  else
    let (s, e) := s.busCode m off size val hw
    s.accResult m off e

/-! Same-cycle writes (R582, R583). -/

/-- A writer's place in the order of R582, which is one order for every category, then by port: lower wins. -/
def writeRank (m : Master) : Nat :=
  8 * (if m = .reeve then 0 else if isMgmt m then 1 else if isHost m then 2 else 3) + m.port

/-- A write takes part in the race where its form is right and its class is admitted. -/
def State.competes (s : State) (x : RegWrite) : Bool :=
  !s.hostGone x.master && accessOk x.master x.off.toNat x.size &&
    s.writeRight x.master (aliasOf (x.off.toNat / 8 * 8)) = eOk

/-- Whether another admitted write of the cycle reaches the same register ahead of this one. -/
def State.loses (s : State) (ws : List RegWrite) (x : RegWrite) : Bool :=
  ws.any fun y =>
    aliasOf (y.off.toNat / 8 * 8) = aliasOf (x.off.toNat / 8 * 8) && s.competes y && writeRank y.master < writeRank x.master

/-! Hardware updates in the cycle of a write (R584). -/

/-- A boundary that falls in the cycle applies what was staged before it: a value staged in the cycle waits for the
boundary that follows. -/
def State.hwFirst (s : State) (u : HwUpdate) : State :=
  match u with
  | .boundary o => match Reg.ofOff o.toNat with
    | some r => s.apply r
    | none => s
  | .snapshot => s.snapshot false
  | _ => s

/-- Add 1 to each counter of a register that a CLEAR can zero and whose lowest bit stands in `bits`; to a performance counter,
which does not overflow where it is `written` in the cycle (R619). -/
def State.hwCount (s : State) (r : Reg) (bits : W64) (written : Bool) : State :=
  match r with
  | .PERF_VALUE u i =>
    if bits.getLsbD 0 then
      if written then s.put r PERF_VALUE.COUNT ((s.get r PERF_VALUE.COUNT + 1) % 2 ^ 48) else s.perfChain u i 1
    else s
  | _ =>
    if r.flds.any fun f => f.ty = .wo then
      r.flds.foldl (fun s f => if f.ty = .ro && bits.getLsbD f.lo then s.bump r f else s) s
    else s

/-- A W1C bit that the hardware sets ends set, and a counter that is cleared or written ends at its increment. -/
def State.hwLast (ws : List RegWrite) (s : State) (u : HwUpdate) : State :=
  match u with
  | .sets o bits => match Reg.ofOff o.toNat with
    | some r => s.wr r (s.rd r ||| (bits &&& Reg.bits r [.w1c]))
    | none => s
  | .counts o bits => match Reg.ofOff o.toNat with
    | some r => s.hwCount r bits (ws.any fun x => x.off.toNat / 8 = o.toNat / 8)
    | none => s
  | .unitLost u => s.unitOut u
  | _ => s

/-- The writes of one cycle: a loser that its class admits completes with LOST_RACE; SEC commands start in the order
MGMT, HOST, FABRIC (R528). Hardware updates `hw` of the cycle fall before or after them as R584 has it. -/
def State.busCycle (s : State) (ws : List RegWrite) (hw : List HwUpdate) : State :=
  let order := [1, 2, 0, 3, 4, 5].flatMap fun n => ws.filter fun x => x.master.port = n
  let t := s
  let s := hw.foldl State.hwFirst s
  let s := order.foldl (fun s x =>
    if t.competes x && t.loses ws x then s.accResult x.master x.off.toNat eLostRace
    else s.busWrite x.master x.off.toNat x.size x.val hw) s
  hw.foldl (State.hwLast ws) s

end Sys2Proof.Machine
end

