-- ==== Sys2Proof/Machine/RegCmds.lean ====
section
/-! DEFINITION. The commands that reach the register bus: register writes with a row of their own, clears, REG packets,
the management port and the test access port (R421, R583, R586-R593). -/

namespace Sys2Proof.Machine

/-- A write of a whole register. -/
def State.write (s : State) (m : Master) (r : Reg) (val : W64) : State := s.busWrite m r.off 8 val

/-- `val` with a one-bit field set, or clear. -/
def withBit (f : Fld) (val : W64) (b : Bool) : W64 := f.put val b.toNat

def execRegisterWrite (ws : BusCycle) (s : State) : Host.Outcome State Fault Refusal :=
  if onePerPort (ws.writes.map RegWrite.master) then .next (s.busCycle ws.writes ws.hw) else .fault .illFormed

/-! The sequencer and the Wagon. -/

def execCtxStart (m : Master) (v : VatId) (c : CtxId) (val : W64) (s : State) : Host.Outcome State Fault Refusal :=
  .next (s.write m (.VAT_CTX_CTRL v.val c.val) (withBit VAT_CTX_CTRL.START val true))

def execCtxPause (m : Master) (v : VatId) (c : CtxId) (val : W64) (s : State) : Host.Outcome State Fault Refusal :=
  .next (s.write m (.VAT_CTX_CTRL v.val c.val) (withBit VAT_CTX_CTRL.PAUSE val true))

def execCtxResume (m : Master) (v : VatId) (c : CtxId) (val : W64) (s : State) : Host.Outcome State Fault Refusal :=
  .next (s.write m (.VAT_CTX_CTRL v.val c.val) (withBit VAT_CTX_CTRL.RESUME val true))

def execCtxAbort (m : Master) (v : VatId) (c : CtxId) (val : W64) (s : State) : Host.Outcome State Fault Refusal :=
  .next (s.write m (.VAT_CTX_CTRL v.val c.val) (withBit VAT_CTX_CTRL.ABORT val true))

def execSemWrite (m : Master) (v : VatId) (empty : Bool) (i : Fin 64) (val : W64) (s : State) :
    Host.Outcome State Fault Refusal :=
  .next (s.write m (if empty then .VAT_SEM_EMPTY v.val i.val else .VAT_SEM_FULL v.val i.val) val)

def execArrivalWrite (m : Master) (v : VatId) (i : Fin 256) (val : W64) (s : State) : Host.Outcome State Fault Refusal :=
  .next (s.write m (.VAT_ARRIVAL v.val i.val) val)

def execStreamReset (m : Master) (v : VatId) (sid : StreamId) (val : W64) (s : State) : Host.Outcome State Fault Refusal :=
  .next (s.write m (.WAGON_STREAM_CFG v.val sid.val) (withBit WAGON_STREAM_CFG.RESET val true))

/-! Rings, automata, destinations. -/

def execRingEnable (m : Master) (f : FuncId) (val : W64) (s : State) : Host.Outcome State Fault Refusal :=
  .next (s.write m (.REEVE_RING_CFG f.val) (withBit REEVE_RING_CFG.ENABLE val true))

def execRingDisable (m : Master) (f : FuncId) (val : W64) (s : State) : Host.Outcome State Fault Refusal :=
  .next (s.write m (.REEVE_RING_CFG f.val) (withBit REEVE_RING_CFG.ENABLE val false))

def execGramEnable (m : Master) (g : Fin 256) (val : W64) (s : State) : Host.Outcome State Fault Refusal :=
  .next (s.write m (.REEVE_GRAM_CFG g.val) (withBit REEVE_GRAM_CFG.ENABLE val true))

def execGramDisable (m : Master) (g : Fin 256) (val : W64) (s : State) : Host.Outcome State Fault Refusal :=
  .next (s.write m (.REEVE_GRAM_CFG g.val) (withBit REEVE_GRAM_CFG.ENABLE val false))

def execDestEnable (m : Master) (d : DestId) (val : W64) (s : State) : Host.Outcome State Fault Refusal :=
  .next (s.write m (.KVX_DEST_CFG d.val) (withBit KVX_DEST_CFG.ENABLE val true))

def execDestDisable (m : Master) (d : DestId) (val : W64) (s : State) : Host.Outcome State Fault Refusal :=
  .next (s.write m (.KVX_DEST_CFG d.val) (withBit KVX_DEST_CFG.ENABLE val false))

/-- A native destination writes its CREDIT as a fabric packet (R331, R410). -/
def State.creditFabric (s : State) (module d n : Nat) : State :=
  let nak := fun (s : State) => s.send (s.pkt pkNak 0 0 module 0 0 0 eLayoutInvalid 0 [])
  if s.get (.KVX_DEST_CFG d) KVX_DEST_CFG.PATH ≠ 0 || s.get (.KVX_DEST_CFG d) KVX_DEST_CFG.MODULE ≠ module then
    (nak s).log { code := eLayoutInvalid, cls := clsKvx, verdict := 0, sub := d }
  else
    let (s, e) := s.creditSet d n
    if e = eOk then s else nak s

def execCreditWrite (src : CreditSrc) (d : DestId) (val : W64) (s : State) : Host.Outcome State Fault Refusal :=
  match src with
  | .bus m => .next (s.write m (.KVX_DEST_CREDIT d.val) val)
  | .fabric module => .next (s.creditFabric module.toNat d.val val.toNat)

/-! Counters, watchdog. -/

def execWdtKick (m : Master) (val : W64) (s : State) : Host.Outcome State Fault Refusal :=
  .next (s.write m .RST_WDT (withBit RST_WDT.KICK val true))

def execDumpEnable (m : Master) (val : W64) (s : State) : Host.Outcome State Fault Refusal :=
  .next (s.write m .PERF_DUMP_CFG (withBit PERF_DUMP_CFG.EN val true))

def execTraceEnable (m : Master) (val : W64) (s : State) : Host.Outcome State Fault Refusal :=
  .next (s.write m .PERF_TRACE_CFG (withBit PERF_TRACE_CFG.EN val true))

/-! Clears. -/

def execDnetErrClear (m : Master) (s : State) : Host.Outcome State Fault Refusal :=
  .next (s.write m .GLB_DNET_ERR GLB_DNET_ERR.CLEAR.mask)

def execChkStatClear (m : Master) (v : VatId) (s : State) : Host.Outcome State Fault Refusal :=
  .next (s.write m (.VAT_CHK_STAT v.val) VAT_CHK_STAT.CLEAR.mask)

def execEccStatClear (m : Master) (v : VatId) (s : State) : Host.Outcome State Fault Refusal :=
  .next (s.write m (.VAT_ECC_STAT v.val) VAT_ECC_STAT.CLEAR.mask)

def execCellarErrClear (m : Master) (v : VatId) (s : State) : Host.Outcome State Fault Refusal :=
  .next (s.write m (.CELLAR_ERR_STAT v.val) CELLAR_ERR_STAT.CLEAR.mask)

def execSkimStatClear (m : Master) (v : VatId) (s : State) : Host.Outcome State Fault Refusal :=
  .next (s.write m (.SKIM_STAT v.val) SKIM_STAT.CLEAR.mask)

def execKvxStatClear (m : Master) (s : State) : Host.Outcome State Fault Refusal :=
  .next (s.write m .KVX_STAT KVX_STAT.CLEAR.mask)

def execPfxStatClear (m : Master) (spillStat : Bool) (s : State) : Host.Outcome State Fault Refusal :=
  .next (if spillStat then s.write m .PFX_SPILL_STAT PFX_SPILL_STAT.CLEAR.mask else s.write m .PFX_STAT PFX_STAT.CLEAR.mask)

def execThrPortErrClear (m : Master) (p : PortId) (s : State) : Host.Outcome State Fault Refusal :=
  .next (s.write m (.THR_PORT_ERR p.val) THR_PORT_ERR.CLEAR.mask)

def execSheafStatClear (m : Master) (s : State) : Host.Outcome State Fault Refusal :=
  .next (s.write m .SHEAF_STAT SHEAF_STAT.CLEAR.mask)

def execPwrStatClear (m : Master) (s : State) : Host.Outcome State Fault Refusal :=
  .next (s.write m .PWR_STAT PWR_STAT.CLEAR.mask)

def execHbmEccClear (m : Master) (h : StackId) (s : State) : Host.Outcome State Fault Refusal :=
  .next (s.write m (.HBM_ECC h.val) HBM_ECC.CLEAR.mask)

def execHostAccClear (m : Master) (f : FuncId) (s : State) : Host.Outcome State Fault Refusal :=
  .next (s.write m (.HOST_ACC f.val) HOST_ACC.VALID.mask)

/-! REG packets (R421, R585). -/

/-- The access of a REG packet: the data and the code its response carries (R421). -/
def State.regAct (s : State) (m : Master) (write : Bool) (off : Nat) (val : W64) : State × List Byte × Nat :=
  if write then ((s.busCode m off 8 val).1, [], (s.busCode m off 8 val).2)
  else if off % 8 = 0 then (s, leBytes 8 (s.busRead m off).1.toNat, (s.busRead m off).2)
  else (s, leBytes 8 0, eIllegalOp)

/-- REG_PACKET: the access, and the REG_RSP it is owed. -/
def State.regPacket (s : State) (k : Pkt) (write : Bool) (off : Nat) (val : W64) : State :=
  if !s.forMe k pkReg then s
  else if s.get .THR_GLB_CFG THR_GLB_CFG.FABRIC_REG = 0 || k.src.toNat / 8 ≠ s.me / 8 then s.answer k pkNak eCfgLocked
  else
    let m := if k.port.val < 9 then Master.thrA else Master.thrB
    let (s, x, e) := s.regAct m write off val
    let rsp := s.pkt pkRegRsp 0 (k.flags.toNat &&& pfSeqb) k.src.toNat 0 k.tag.toNat 0 e 0 x
    { s with regOut := s.regOut ++ [rsp] }

def execRegPacket (pkt : Pkt) (write : Bool) (off : BitVec 26) (val : W64) (s : State) : Host.Outcome State Fault Refusal :=
  if pkt.wf then .next (s.regPacket pkt write off.toNat val) else .fault .illFormed

/-- REG_RSP: the oldest response owed goes out. -/
def execRegRsp (s : State) : Host.Outcome State Fault Refusal :=
  match s.regOut with
  | [] => .next s
  | k :: rest => .next ({ s with regOut := rest }.send k)

/-! The management port (R586-R590). -/

/-- A transaction: none is acknowledged in P0; one without a good PEC is ignored and counted. -/
def State.smbus (s : State) (pec : Bool) (f : State → State) : State :=
  if s.boot.phase = 0 then s
  else if pec then f s else s.bump .MGMT_STATUS MGMT_STATUS.PEC_ERR

/-- The offset of a register command of the right byte count, where it is aligned and within BAR0. -/
def smbusOff (bytes : List Byte) (n : Nat) : Option Nat :=
  let o := dfield bytes 0 4
  if bytes.length = n && o % 8 = 0 && o < 0x4000000 then some o else none

def State.smbusRead (s : State) (bytes : List Byte) : State :=
  let (x, e) := match smbusOff bytes 4 with
    | some o => s.busRead .mgmt o
    | none => (0, eIllegalOp)
  s.emit (.smbus (leBytes 1 e ++ leBytes 8 x.toNat))

def execSmbusRegRead (bytes : List Byte) (pec : Bool) (s : State) : Host.Outcome State Fault Refusal :=
  .next (s.smbus pec fun s => s.smbusRead bytes)

def State.smbusWrite (s : State) (bytes : List Byte) : State :=
  match smbusOff bytes 12 with
  | some o => s.busWrite .mgmt o 8 (BitVec.ofNat 64 (dfield bytes 4 8))
  | none => { s with mgmtStatus := eIllegalOp }

def execSmbusRegWrite (bytes : List Byte) (pec : Bool) (s : State) : Host.Outcome State Fault Refusal :=
  .next (s.smbus pec fun s => s.smbusWrite bytes)

def execSmbusStatus (pec : Bool) (s : State) : Host.Outcome State Fault Refusal :=
  .next (s.smbus pec fun s => s.emit (.smbus (leBytes 1 s.mgmtStatus)))

/-- IDENT: GLB_ID, fuse SERIAL, module address, PHASE, SEC_STATE. -/
def State.identBytes (s : State) : List Byte :=
  leBytes 4 (s.rd .GLB_ID).toNat ++ leBytes 8 s.boot.fuses.serial.toNat ++ leBytes 2 s.me ++
    leBytes 1 (s.get .RST_STATUS RST_STATUS.PHASE) ++ leBytes 1 s.boot.fuses.secState.toNat

def execSmbusIdent (pec : Bool) (s : State) : Host.Outcome State Fault Refusal :=
  .next (s.smbus pec fun s => s.emit (.smbus s.identBytes))

/-- SMBALERT# is asserted (R590). -/
def State.alerting (s : State) : Bool := s.rd .MGMT_ALERT &&& s.rd .MGMT_ALERT_EN ≠ 0

def execAlertResponse (pec : Bool) (s : State) : Host.Outcome State Fault Refusal :=
  .next (s.smbus pec fun s => s.emit (.alert (s.get .MGMT_STATUS MGMT_STATUS.ADDR)))

def execSmbusTimeout (s : State) : Host.Outcome State Fault Refusal :=
  .next (if s.boot.phase = 0 then s else s.bump .MGMT_STATUS MGMT_STATUS.TIMEOUTS)

/-! The test access port (R591-R593). -/

/-- What IDCODE shifts out (R591): version 1 for A1, part number, manufacturer identity, 1. -/
def tapIdcode : W32 := 1#4 ++ 0x0016#16 ++ 0x4C4#11 ++ 1#1

/-- The port is locked by fuse and has not been unlocked: its instructions behave as BYPASS. -/
def State.tapLocked (s : State) : Bool := s.boot.fuses.opt.getLsbD 2 && !s.tapUnlocked

/-- TAP_REGACC: what the next Capture-DR loads; in P0 the register bus is stopped. -/
def State.regacc (s : State) (write : Bool) (off : Nat) (val : W64) : State :=
  if s.tapLocked then s
  else if s.boot.phase = 0 then { s with tapStatus := eCfgLocked, tapData := 0 }
  else if write then { s.busWrite .tap off 8 val with tapData := val }
  else
    let (x, e) := if off % 8 = 0 then s.busRead .tap off else (0, eIllegalOp)
    { s with tapStatus := e, tapData := x }

def execTapRegacc (dr : BitVec 91) (s : State) : Host.Outcome State Fault Refusal :=
  .next (s.regacc (dr.getLsbD 90) (dr.toNat / 2 ^ 64 % 2 ^ 26) (dr.truncate 64))

/-- What the checks of R526, without PERM, give an UNLOCK block. -/
def State.unlockErr (s : State) (b : List Byte) : Nat :=
  if !cbForm b 0x4C564455 [0] || cbSlot b ≠ 0 then eIllegalOp
  else if dfield b 8 8 ≠ s.boot.fuses.serial.toNat || !s.keyed 0 ||
      SEC_SLOT.MASTERS.get (s.rd (.SEC_SLOT 0)) % 2 = 0 || (b.drop 32).take 16 ≠ cbTag (s.key 0) b then eAuthFail
  else if cbCounter b ≤ s.lastOf 0 then eCounterStale
  else eOk

/-- The counter of an UNLOCK block is taken; above H, behind a new record (R532). -/
def State.takeCounter (s : State) (slot n : Nat) : State :=
  let s := if (s.mark slot).toNat < n then (s.setMark slot (ahead n)).writeRecord else s
  s.wr (.SEC_SLOT_LAST slot) (BitVec.ofNat 64 n)

/-- TAP_UNLOCK: a block that fails counts toward the MGMT throttle, and a throttled class is not evaluated (R527). -/
def State.unlock (s : State) (b : List Byte) : State :=
  if s.boot.phase < 4 || s.throttled 0 then s
  else if s.unlockErr b = eOk then { s.takeCounter 0 (cbCounter b) with tapUnlocked := true }
  else s.authFailed 0

def execTapUnlock (block : List Byte) (s : State) : Host.Outcome State Fault Refusal :=
  if block.length = 448 then .next (s.unlock block) else .fault .illFormed

def execTapRelock (s : State) : Host.Outcome State Fault Refusal := .next { s with tapUnlocked := false }

end Sys2Proof.Machine
end

