-- ==== Sys2Proof/Machine/Dispatch.lean ====
section
/-! DEFINITION. `exec`: the meaning of every command, one arm for each row of spec/opcode_table.json. -/

namespace Sys2Proof.Machine

def exec (i : Instr) (s : State) : Host.Outcome State Fault Refusal :=
  match i with
  | .tile v c run => Sys2Proof.Machine.execTile v c run s
  | .segmentVerdict v seg => Sys2Proof.Machine.execSegmentVerdict v seg s
  | .mould v c run => Sys2Proof.Machine.execMould v c run s
  | .press v c run => Sys2Proof.Machine.execPress v c run s
  | .drain v c run => Sys2Proof.Machine.execDrain v c run s
  | .drainFill v c run => Sys2Proof.Machine.execDrainFill v c run s
  | .attn v c run => Sys2Proof.Machine.execAttn v c run s
  | .rind v c run => Sys2Proof.Machine.execRind v c run s
  | .skim v c run => Sys2Proof.Machine.execSkim v c run s
  | .wagon v c => Sys2Proof.Machine.execWagon v c s
  | .semw v c => Sys2Proof.Machine.execSemw v c s
  | .semp v c => Sys2Proof.Machine.execSemp v c s
  | .fence v c => Sys2Proof.Machine.execFence v c s
  | .loop v c => Sys2Proof.Machine.execLoop v c s
  | .endl v c => Sys2Proof.Machine.execEndl v c s
  | .brc v c => Sys2Proof.Machine.execBrc v c s
  | .tick v c => Sys2Proof.Machine.execTick v c s
  | .halt v c => Sys2Proof.Machine.execHalt v c s
  | .flags v c => Sys2Proof.Machine.execFlags v c s
  | .seed v c => Sys2Proof.Machine.execSeed v c s
  | .contextSwitch v => Sys2Proof.Machine.execContextSwitch v s
  | .ctxStart m v c val => Sys2Proof.Machine.execCtxStart m v c val s
  | .ctxPause m v c val => Sys2Proof.Machine.execCtxPause m v c val s
  | .ctxPauseEffect v c => Sys2Proof.Machine.execCtxPauseEffect v c s
  | .ctxResume m v c val => Sys2Proof.Machine.execCtxResume m v c val s
  | .ctxAbort m v c val => Sys2Proof.Machine.execCtxAbort m v c val s
  | .ctxAbortEffect v c => Sys2Proof.Machine.execCtxAbortEffect v c s
  | .semaphoreCycle v => Sys2Proof.Machine.execSemaphoreCycle v s
  | .remotePost n => Sys2Proof.Machine.execRemotePost n s
  | .semWrite m v empty idx val => Sys2Proof.Machine.execSemWrite m v empty idx val s
  | .arrivalWrite m v idx val => Sys2Proof.Machine.execArrivalWrite m v idx val s
  | .vatZeroingDone v => Sys2Proof.Machine.execVatZeroingDone v s
  | .batchHeaderFetch v sid => Sys2Proof.Machine.execBatchHeaderFetch v sid s
  | .descriptorHead v sid => Sys2Proof.Machine.execDescriptorHead v sid s
  | .descriptorStart v sid => Sys2Proof.Machine.execDescriptorStart v sid s
  | .descriptorComplete v sid => Sys2Proof.Machine.execDescriptorComplete v sid s
  | .chunkGrant v => Sys2Proof.Machine.execChunkGrant v s
  | .tagTimeout n => Sys2Proof.Machine.execTagTimeout n s
  | .streamReset m v sid val => Sys2Proof.Machine.execStreamReset m v sid val s
  | .streamWaitLate v c => Sys2Proof.Machine.execStreamWaitLate v c s
  | .deadlineMiss v c => Sys2Proof.Machine.execDeadlineMiss v c s
  | .dnetPacketArrival n e => Sys2Proof.Machine.execDnetPacketArrival n e s
  | .bankCopyDone v idx => Sys2Proof.Machine.execBankCopyDone v idx s
  | .dirtyScrubDone v => Sys2Proof.Machine.execDirtyScrubDone v s
  | .backgroundScrub v r e => Sys2Proof.Machine.execBackgroundScrub v r e s
  | .groupPowerOn v g => Sys2Proof.Machine.execGroupPowerOn v g s
  | .groupPowerOff v g => Sys2Proof.Machine.execGroupPowerOff v g s
  | .groupClockStart v g => Sys2Proof.Machine.execGroupClockStart v g s
  | .groupCloseDone v g late => Sys2Proof.Machine.execGroupCloseDone v g late s
  | .doorbell f off size val => Sys2Proof.Machine.execDoorbell f off size val s
  | .ringEnable m f val => Sys2Proof.Machine.execRingEnable m f val s
  | .ringDisable m f val => Sys2Proof.Machine.execRingDisable m f val s
  | .ringNop f => Sys2Proof.Machine.execRingNop f s
  | .ringEntrySkipped f => Sys2Proof.Machine.execRingEntrySkipped f s
  | .submit f => Sys2Proof.Machine.execSubmit f s
  | .cancel f => Sys2Proof.Machine.execCancel f s
  | .pause f => Sys2Proof.Machine.execPause f s
  | .pauseEffect r => Sys2Proof.Machine.execPauseEffect r s
  | .resume f => Sys2Proof.Machine.execResume f s
  | .restoreDone r ok => Sys2Proof.Machine.execRestoreDone r ok s
  | .packWaitExpiry p => Sys2Proof.Machine.execPackWaitExpiry p s
  | .passStart p => Sys2Proof.Machine.execPassStart p s
  | .passCommit p logits => Sys2Proof.Machine.execPassCommit p logits s
  | .pfxInsertDone g idx cache => Sys2Proof.Machine.execPfxInsertDone g idx cache s
  | .preemption r => Sys2Proof.Machine.execPreemption r s
  | .spill r => Sys2Proof.Machine.execSpill r s
  | .spillWriteDone r ok => Sys2Proof.Machine.execSpillWriteDone r ok s
  | .spillExpiry r => Sys2Proof.Machine.execSpillExpiry r s
  | .budgetRefill => Sys2Proof.Machine.execBudgetRefill s
  | .dutyEvaluation waits => Sys2Proof.Machine.execDutyEvaluation waits s
  | .heartbeat => Sys2Proof.Machine.execHeartbeat s
  | .requestRerun p code => Sys2Proof.Machine.execRequestRerun p code s
  | .vatSubstitution v => Sys2Proof.Machine.execVatSubstitution v s
  | .tailStepStart p drafts => Sys2Proof.Machine.execTailStepStart p drafts s
  | .tokenSelect r zs => Sys2Proof.Machine.execTokenSelect r zs s
  | .specCompactionDone r => Sys2Proof.Machine.execSpecCompactionDone r s
  | .tailStepCommit p => Sys2Proof.Machine.execTailStepCommit p s
  | .mboxQuery => Sys2Proof.Machine.execMboxQuery s
  | .mboxVersion => Sys2Proof.Machine.execMboxVersion s
  | .mboxStats => Sys2Proof.Machine.execMboxStats s
  | .mboxBudgetAdjust => Sys2Proof.Machine.execMboxBudgetAdjust s
  | .mboxCancelFunction => Sys2Proof.Machine.execMboxCancelFunction s
  | .gramEnable m g val => Sys2Proof.Machine.execGramEnable m g val s
  | .gramDisable m g val => Sys2Proof.Machine.execGramDisable m g val s
  | .kvxRecordSend d krows vrows poison => Sys2Proof.Machine.execKvxRecordSend d krows vrows poison s
  | .creditWrite src d val => Sys2Proof.Machine.execCreditWrite src d val s
  | .creditTimeout d => Sys2Proof.Machine.execCreditTimeout d s
  | .destEnable m d val => Sys2Proof.Machine.execDestEnable m d val s
  | .destDisable m d val => Sys2Proof.Machine.execDestDisable m d val s
  | .roceAck d psn => Sys2Proof.Machine.execRoceAck d psn s
  | .roceNak d k psn => Sys2Proof.Machine.execRoceNak d k psn s
  | .roceAckTimeout d => Sys2Proof.Machine.execRoceAckTimeout d s
  | .cnpReceive d => Sys2Proof.Machine.execCnpReceive d s
  | .rateStep d => Sys2Proof.Machine.execRateStep d s
  | .roceRequestIn x => Sys2Proof.Machine.execRoceRequestIn x s
  | .ctrlRingBreak dim pos withdraw => Sys2Proof.Machine.execCtrlRingBreak dim pos withdraw s
  | .memWrite pkt => Sys2Proof.Machine.execMemWrite pkt s
  | .winWrite pkt => Sys2Proof.Machine.execWinWrite pkt s
  | .getReq pkt => Sys2Proof.Machine.execGetReq pkt s
  | .getData pkt => Sys2Proof.Machine.execGetData pkt s
  | .fabricAck pkt => Sys2Proof.Machine.execFabricAck pkt s
  | .fabricNak pkt => Sys2Proof.Machine.execFabricNak pkt s
  | .getReissue v => Sys2Proof.Machine.execGetReissue v s
  | .regPacket pkt write off val => Sys2Proof.Machine.execRegPacket pkt write off val s
  | .regRsp => Sys2Proof.Machine.execRegRsp s
  | .tsync t1 t2 t3 t4 => Sys2Proof.Machine.execTsync t1 t2 t3 t4 s
  | .tsyncExchange => Sys2Proof.Machine.execTsyncExchange s
  | .timeHoldover => Sys2Proof.Machine.execTimeHoldover s
  | .frameReceive p f => Sys2Proof.Machine.execFrameReceive p f s
  | .portRetrain p ok far => Sys2Proof.Machine.execPortRetrain p ok far s
  | .linkTrainingDone p ok partner pport => Sys2Proof.Machine.execLinkTrainingDone p ok partner pport s
  | .spareTakeover p partnerOk => Sys2Proof.Machine.execSpareTakeover p partnerOk s
  | .portRetryTrain p => Sys2Proof.Machine.execPortRetryTrain p s
  | .rampStep p => Sys2Proof.Machine.execRampStep p s
  | .spareChannelReturn vc => Sys2Proof.Machine.execSpareChannelReturn vc s
  | .windowCloseDone v w => Sys2Proof.Machine.execWindowCloseDone v w s
  | .bseqGrant => Sys2Proof.Machine.execBseqGrant s
  | .bseqTimeout => Sys2Proof.Machine.execBseqTimeout s
  | .bpresLoss slot => Sys2Proof.Machine.execBpresLoss slot s
  | .sheafLaunch f val => Sys2Proof.Machine.execSheafLaunch f val s
  | .sheafOpStart d => Sys2Proof.Machine.execSheafOpStart d s
  | .hello h hash mismatched => Sys2Proof.Machine.execHello h hash mismatched s
  | .go h => Sys2Proof.Machine.execGo h s
  | .mismatch h => Sys2Proof.Machine.execMismatch h s
  | .sheafData k => Sys2Proof.Machine.execSheafData k s
  | .chunkAck h step chunk => Sys2Proof.Machine.execChunkAck h step chunk s
  | .chunkNak h step chunk => Sys2Proof.Machine.execChunkNak h step chunk s
  | .sheafDone h flags members => Sys2Proof.Machine.execSheafDone h flags members s
  | .sheafCommit h flags => Sys2Proof.Machine.execSheafCommit h flags s
  | .sheafAbort h code reason => Sys2Proof.Machine.execSheafAbort h code reason s
  | .stepDeadline d => Sys2Proof.Machine.execStepDeadline d s
  | .doneTimeout d => Sys2Proof.Machine.execDoneTimeout d s
  | .pauseReq h => Sys2Proof.Machine.execPauseReq h s
  | .sheafPause h => Sys2Proof.Machine.execSheafPause h s
  | .resumeReq h => Sys2Proof.Machine.execResumeReq h s
  | .sheafResume h => Sys2Proof.Machine.execSheafResume h s
  | .inputPowerUp => Sys2Proof.Machine.execInputPowerUp s
  | .powerGood slot bpos => Sys2Proof.Machine.execPowerGood slot bpos s
  | .fuseReadDone a b => Sys2Proof.Machine.execFuseReadDone a b s
  | .imageCheckDone probe octal => Sys2Proof.Machine.execImageCheckDone probe octal s
  | .layoutApply bad skimOk => Sys2Proof.Machine.execLayoutApply bad skimOk s
  | .release bad => Sys2Proof.Machine.execRelease bad s
  | .phaseLimitExpiry => Sys2Proof.Machine.execPhaseLimitExpiry s
  | .mrstNAssert => Sys2Proof.Machine.execMrstNAssert s
  | .mrstNRelease => Sys2Proof.Machine.execMrstNRelease s
  | .wdtKick m val => Sys2Proof.Machine.execWdtKick m val s
  | .wdtExpiry => Sys2Proof.Machine.execWdtExpiry s
  | .lockstepMismatch => Sys2Proof.Machine.execLockstepMismatch s
  | .secViolation => Sys2Proof.Machine.execSecViolation s
  | .inputExcursion mv long => Sys2Proof.Machine.execInputExcursion mv long s
  | .powerEvaluation raw pt pf mv ci valid => Sys2Proof.Machine.execPowerEvaluation raw pt pf mv ci valid s
  | .calibration a p valid => Sys2Proof.Machine.execCalibration a p valid s
  | .fixedFloorUpdate w => Sys2Proof.Machine.execFixedFloorUpdate w s
  | .thermalSample t => Sys2Proof.Machine.execThermalSample t s
  | .thermalStep => Sys2Proof.Machine.execThermalStep s
  | .thermTrip sensor => Sys2Proof.Machine.execThermTrip sensor s
  | .droopStretch idx => Sys2Proof.Machine.execDroopStretch idx s
  | .droopEnd idx => Sys2Proof.Machine.execDroopEnd idx s
  | .cmdResetSystem k => Sys2Proof.Machine.execCmdResetSystem k s
  | .cmdResetCore k => Sys2Proof.Machine.execCmdResetCore k s
  | .cmdResetPartition k => Sys2Proof.Machine.execCmdResetPartition k s
  | .relayout k => Sys2Proof.Machine.execRelayout k s
  | .relayoutApply selfTest => Sys2Proof.Machine.execRelayoutApply selfTest s
  | .keyChangeSlot k => Sys2Proof.Machine.execKeyChangeSlot k s
  | .keyChangeTenant k => Sys2Proof.Machine.execKeyChangeTenant k s
  | .enrolment => Sys2Proof.Machine.execEnrolment s
  | .powerCap k => Sys2Proof.Machine.execPowerCap k s
  | .fwUpdate k => Sys2Proof.Machine.execFwUpdate k s
  | .windowOpen k => Sys2Proof.Machine.execWindowOpen k s
  | .windowClose k => Sys2Proof.Machine.execWindowClose k s
  | .partKill k => Sys2Proof.Machine.execPartKill k s
  | .partReadmit p => Sys2Proof.Machine.execPartReadmit p s
  | .counterRecordWrite => Sys2Proof.Machine.execCounterRecordWrite s
  | .authThrottleEnd k => Sys2Proof.Machine.execAuthThrottleEnd k s
  | .hbmPatrolScrub h pc off r => Sys2Proof.Machine.execHbmPatrolScrub h pc off r s
  | .hbmPcCopyDone h => Sys2Proof.Machine.execHbmPcCopyDone h s
  | .flr f => Sys2Proof.Machine.execFlr f s
  | .hotReset => Sys2Proof.Machine.execHotReset s
  | .bar2Read f off len => Sys2Proof.Machine.execBar2Read f off len s
  | .bar2Write f off data => Sys2Proof.Machine.execBar2Write f off data s
  | .smbusRegRead bytes pec => Sys2Proof.Machine.execSmbusRegRead bytes pec s
  | .smbusRegWrite bytes pec => Sys2Proof.Machine.execSmbusRegWrite bytes pec s
  | .smbusStatus pec => Sys2Proof.Machine.execSmbusStatus pec s
  | .smbusIdent pec => Sys2Proof.Machine.execSmbusIdent pec s
  | .alertResponse pec => Sys2Proof.Machine.execAlertResponse pec s
  | .tapRegacc dr => Sys2Proof.Machine.execTapRegacc dr s
  | .tapUnlock block => Sys2Proof.Machine.execTapUnlock block s
  | .tapRelock => Sys2Proof.Machine.execTapRelock s
  | .dumpEnable m val => Sys2Proof.Machine.execDumpEnable m val s
  | .dumpSnapshot busy => Sys2Proof.Machine.execDumpSnapshot busy s
  | .traceEnable m val => Sys2Proof.Machine.execTraceEnable m val s
  | .perfSample u idx => Sys2Proof.Machine.execPerfSample u idx s
  | .bwWindowEnd => Sys2Proof.Machine.execBwWindowEnd s
  | .dnetErrClear m => Sys2Proof.Machine.execDnetErrClear m s
  | .chkStatClear m v => Sys2Proof.Machine.execChkStatClear m v s
  | .eccStatClear m v => Sys2Proof.Machine.execEccStatClear m v s
  | .cellarErrClear m v => Sys2Proof.Machine.execCellarErrClear m v s
  | .skimStatClear m v => Sys2Proof.Machine.execSkimStatClear m v s
  | .kvxStatClear m => Sys2Proof.Machine.execKvxStatClear m s
  | .pfxStatClear m spillStat => Sys2Proof.Machine.execPfxStatClear m spillStat s
  | .thrPortErrClear m p => Sys2Proof.Machine.execThrPortErrClear m p s
  | .sheafStatClear m => Sys2Proof.Machine.execSheafStatClear m s
  | .pwrStatClear m => Sys2Proof.Machine.execPwrStatClear m s
  | .hbmEccClear m h => Sys2Proof.Machine.execHbmEccClear m h s
  | .hostAccClear m f => Sys2Proof.Machine.execHostAccClear m f s
  | .registerWrite ws => Sys2Proof.Machine.execRegisterWrite ws s
  | .illegalOpcode v c ecc => Sys2Proof.Machine.execIllegalOpcode v c ecc s
  | .smbusTimeout => Sys2Proof.Machine.execSmbusTimeout s
  | .pcieLinkUp speed width flit => Sys2Proof.Machine.execPcieLinkUp speed width flit s
  | .configurationRequest f q => Sys2Proof.Machine.execConfigurationRequest f q s
  | .rnrTimerExpiry d => Sys2Proof.Machine.execRnrTimerExpiry d s
  | .pfcPauseFrame x prio pause => Sys2Proof.Machine.execPfcPauseFrame x prio pause s
  | .coalescedInterruptDue f vec => Sys2Proof.Machine.execCoalescedInterruptDue f vec s

end Sys2Proof.Machine
end

