-- ==== Sys2Proof/Machine/Step.lean ====
section
/-! DEFINITION. One step: the command at the front of the queue; on an empty queue a core cycle of time (log 10). -/

namespace Sys2Proof.Machine

/-- 10 ns pass: the time base advances (R25), less what a slew holds it back (R428); passes and tail steps may complete a
layer (R286), and the ports send (R411). -/
def State.idle (s : State) : State :=
  { s.wr .GLB_TIME (s.now + (10 - BitVec.ofNat 64 (min 9 s.slowBy))) with slowBy := 0 }.layerTick.linkTick

def step (s : State) : Host.Outcome State Fault Refusal :=
  match s.pending with
  | c :: rest => exec c { s with pending := rest }
  | [] => .next s.idle

/-- `s` with the command the word spells in front of its queue. -/
def State.withFetchWord (s : State) (nbits w : Nat) : State :=
  match decodeTableWord nbits w with
  | some c => { s with pending := c :: s.pending }
  | none => s

end Sys2Proof.Machine
end

