-- ==== Sys2Proof/Machine/Experts.lean ====
section
/-! DEFINITION. Routed experts (R393-R395): what the gating and the dispatch programs of a model compute between their TILEs.
They are programs of Vats, so no command is theirs; the numbers of a model's experts and of its selections are EXPERT_K of
REEVE_MODEL and the length of the router's logits. -/

namespace Sys2Proof.Machine

/-- The tokens of a pass of `m` that Vat `v` of `n` gates: its own 1/n of their range (R393, log 161). -/
def gateShare (n v m : Nat) : List Nat := (List.range m).drop (v * m / n) |>.take ((v + 1) * m / n - v * m / n)

/-- The finish of gating for one token of router logits `g` (R393): the selected experts in rank order, each with its weight. -/
def gate (k : Nat) (g : List W32) : List (Nat × W32) :=
  let sel := topLogits (fun _ => true) k g
  let ex := sel.map fun c => c.1.toNat
  match sel with
  | [] => []
  | c :: r =>
    if c.2 = f32Inf then ex.zip (f32One :: r.map fun _ => 0)
    else
      let t0 := (fMul c.2 0x3FB8AA3B).1
      let e := sel.map fun d => (rExp2 (fSub (fMul d.2 0x3FB8AA3B).1 t0).1).1
      let sum := seqSum e
      ex.zip (e.map fun x => (fDiv x sum).1)

/-- One slot of a routing record (R394). -/
def routeSlot : Option (Nat × W32) → List Byte
  | some (e, w) => leBytes 2 e ++ [0, 0] ++ leBytes 4 w.toNat
  | none => [0xFF, 0xFF, 0, 0, 0, 0, 0, 0]

/-- The routing record of a token: 8 slots in rank order, those without an expert unused. -/
def routeRecord (l : List (Nat × W32)) : List Byte := (List.range 8).flatMap fun i => routeSlot l[i]?

/-- The used slots of a routing record. -/
def routeRead (b : List Byte) : List (Nat × W32) :=
  ((groupsOf 8 8 b).map fun q => (dfield q 0 2, BitVec.ofNat 32 (dfield q 4 4))).takeWhile fun x => x.1 ≠ 0xFFFF

/-- The tokens that selected an expert, ascending (R395). -/
def routeGroup (recs : List (List Byte)) (e : Nat) : List Nat :=
  (List.range recs.length).filter fun t => (routeRead (recs.getD t [])).any fun x => x.1 = e

/-- Dispatch: the experts that some token selected, in ascending index, each with its group; M of its TILEs is the group's
size (R395). -/
def routeDispatch (experts : Nat) (recs : List (List Byte)) : List (Nat × List Nat) :=
  ((List.range experts).map fun e => (e, routeGroup recs e)).filter fun x => !x.2.isEmpty

/-- The output of a token from its weights and its experts' outputs in rank order, each product and sum rounded once (R395). -/
def routeSum : List (W32 × W32) → Option W32
  | [] => none
  | x :: r => some (r.foldl (fun acc y => (fAdd acc (fMul y.1 y.2).1).1) (fMul x.1 x.2).1)

end Sys2Proof.Machine
end

