-- ==== Sys2Proof/Safety.lean ====
section
/-! DEFINITION. What counts as a safe step, the invariant every step keeps, and the words in which the statements say
what a command leaves alone. -/

namespace Sys2Proof

/-- The step answers a next state. -/
def Runs (s : Machine.State) : Prop := ∃ t, Machine.step s = .next t

/-- The registers and every memory are in canonical form: keys strictly rising, no entry that equals what an unlisted
key reads as. -/
structure Canon (s : Machine.State) : Prop where
  regs : Machine.Tab.wf Machine.regReset s.regs = true
  live : Machine.Tab.wf Machine.regReset s.live = true
  mem : Machine.Memory.wf s.mem = true
  poison : Machine.Tab.wf Machine.noBit s.poison = true
  host : Machine.Memory.wf s.host = true
  flash : Machine.Tab.wf Machine.flashByte s.flash = true
  sram : Machine.Memory.wf s.sram = true
  prog : Machine.Tab.wf Machine.zero128 s.prog = true
  curd : Machine.Tab.wf Machine.zero32 s.curd = true

/-- The queue holds only commands that can be sent, and the tables are canonical. -/
def Inv (s : Machine.State) : Prop := (∀ c ∈ s.pending, c.wf = true) ∧ Canon s

namespace Machine

/-- Outside the offsets `P`, every register reads as before, and so does its applied value. -/
def RegsKept (P : Nat → Prop) (s t : State) : Prop :=
  ∀ o, ¬ P o → t.rdOff o = s.rdOff o ∧ Tab.get regReset t.live o = Tab.get regReset s.live o

/-- The offsets of these registers. -/
def offs (l : List Reg) (o : Nat) : Prop := o ∈ l.map Reg.off

/-- The offsets of the performance counters (R601-R609). -/
def perfOff (o : Nat) : Prop := (Reg.PERF_CFG 0 0).off ≤ o ∧ o < (Reg.PERF_SAMPLE 0).off

/-- Of what a Vat holds beside its registers only the record of issued instructions (R611) may change. -/
def VatsKept (s t : State) : Prop :=
  ∀ u, t.vat u = { s.vat u with last := (t.vat u).last, samples := (t.vat u).samples }

/-- Context `c` of Vat `v` may issue, and the instruction at its PC is the word `w` of opcode `op` with a legal header
(R113, R115, R124). -/
structure Issues (s : State) (v c op w : Nat) : Prop where
  fetch : s.fetch v c = some w
  can : s.canIssue v c = true
  opc : hOpc w = op
  header : headerOk w = true

/-- Nothing but registers changes, and of those only the ones at offsets `P`. -/
structure OnlyRegs (P : Nat → Prop) (s t : State) : Prop where
  rest : t = { s with regs := t.regs, live := t.live }
  kept : RegsKept P s t

/-- What an instruction may change beside the registers at `P`: the performance counters and the issue record. -/
structure OnlyInstr (P : Nat → Prop) (s t : State) : Prop where
  rest : t = { s with regs := t.regs, live := t.live, vats := t.vats }
  vats : VatsKept s t
  kept : RegsKept (fun o => P o ∨ perfOff o) s t

/-- Of the registers only those at `P` change, and of what the Vats hold beside them only what Vat `v` holds. -/
structure OnlyVat (P : Nat → Prop) (v : Nat) (s t : State) : Prop where
  rest : t = { s with regs := t.regs, live := t.live, vats := t.vats }
  vats : ∀ u, u ≠ v → t.vat u = s.vat u
  kept : RegsKept P s t

/-- A write of `val` to `r` by master `m` reaches the register and nothing keeps it out: the bus is in service, the master
is there, its class is admitted, no field of the register is locked, no range is broken (R6, R12, R518, R580, R581). -/
structure Writes (s : State) (m : Master) (r : Reg) (val : W64) : Prop where
  bus : s.isOut 4 = false
  here : s.hostGone m = false
  addr : Reg.ofOff r.off = some r
  right : s.writeRight m r.off = eOk
  func : s.noFunc r = false
  idle : s.ilKept r r.off 8 = 0
  err : s.writeErr m r (regNew r (s.stored r) val) = eOk

/-- A write of `val` to `r` by master `m` that is not refused whole: of `Writes` all but that IL fields whose owner is at work
keep their values (R4, R6). -/
structure Lands (s : State) (m : Master) (r : Reg) (val : W64) : Prop where
  bus : s.isOut 4 = false
  here : s.hostGone m = false
  addr : Reg.ofOff r.off = some r
  right : s.writeRight m r.off = eOk
  func : s.noFunc r = false
  err : s.writeErr m r
    ((regNew r (s.stored r) val &&& ~~~(s.ilKept r r.off 8)) ||| (s.stored r &&& s.ilKept r r.off 8)) = eOk

/-- The code such a write ends with. -/
def State.landCode (s : State) (r : Reg) : Nat := if s.ilKept r r.off 8 = 0 then eOk else eCfgLocked

/-- `s` once a write to `r` that was taken has been answered (R585): nothing but the answer. -/
def State.afterWrite (s : State) (m : Master) (r : Reg) (code : Nat := eOk) : State := s.accResult m r.off code

/-- Every byte of memory but the `n` at `a` reads as before. -/
def BytesKept (a n : Nat) (s t : State) : Prop := ∀ x, x < a ∨ a + n ≤ x → t.byte x = s.byte x

/-- Every byte of host memory but the `n` at `a` reads as before. -/
def HostKept (a n : Nat) (s t : State) : Prop := ∀ x, x < a ∨ a + n ≤ x → t.hostBytes x 1 = s.hostBytes x 1

/-- Every request but `i` is as before. -/
def ReqsKept (i : Nat) (s t : State) : Prop := ∀ j, j ≠ i → t.req j = s.req j

/-- Request `i` is live, in no pass, tail step or Sheaf operation, exports nothing and holds no prefix blocks; its status
word is written, and nobody asked for interrupts. -/
structure Alone (s : State) (i : Nat) : Prop where
  live : (s.req i).live = true
  pass : s.passOf i = none
  step : (s.req i).step = none
  sheaf : s.shReq i = none
  dest : (s.req i).dest = none
  hits : (s.req i).hits = []
  told : (s.req i).mute = false ∧ (s.req i).notify = false

/-- The offsets of the registers from `lo` up to `hi`. -/
def offsFrom (lo hi : Reg) (o : Nat) : Prop := lo.off ≤ o ∧ o < hi.off

/-- From `s` to `t` one packet left, of this kind, to this module, with this tag and AUX (R409). -/
def SentPkt (s t : State) (kind : Nat) (dst tag : W16) (aux : Nat) (data : List Byte) : Prop :=
  ∃ k, t.sent = s.sent ++ [.pkt k] ∧ k.kind.toNat = kind ∧ k.dst = dst ∧ k.tag = tag ∧ k.aux.toNat = aux ∧ k.data = data

/-- What sending a packet may change beside the registers at `P`: ports, bandwidth counts, the counters and what has left. -/
def OnlySend (P : Nat → Prop) (s t : State) : Prop :=
  OnlyInstr P { s with ports := t.ports, bw := t.bw, sent := t.sent } t

/-- Sheaf operation `o` has ended here with a code (R447, R450, R475): it has left the table, its staging claim is
released, its completion word stands at its address. -/
structure ShEnded (s t : State) (o : ShOp) (code flags : Nat) : Prop where
  ops : t.ops = s.ops.filter fun p => !(p.d = o.d && p.k = o.k)
  claims : t.claims = s.claims.filter fun c => c.holder ≠ .stage o.d o.k
  word : t.hostBytes (lCpl o.desc) 8 = leBytes 8 (2 ^ 63 + code * 2 ^ 48 + flags * 2 ^ 44 + s.now.toNat % 2 ^ 44)
  host : HostKept (lCpl o.desc) 8 s t

/-- The command block of class `k` is the only one that waits, is one of opcode `op` whose first argument passes `arg`, and
passes every check (R526, R532). -/
structure CmdPasses (s : State) (k op : Nat) (arg : Nat → Bool) : Prop where
  phase : s.boot.phase = 5
  queue : s.sec.queue = [k]
  throttled : s.throttled k = false
  opcode : cbOp (s.secBlock k) = op
  kind : arg (cbArg (s.secBlock k) 0 1) = true
  check : s.secCheck k (s.secBlock k) = eOk
  mark : cbCounter (s.secBlock k) ≤ (s.mark (cbTakes (s.secBlock k))).toNat

/-- The command of class `k` has ended with a code: the result is shown, GO is clear, nothing waits, and the slot's counter
is the block's (R526, R528). -/
structure CmdDone (s t : State) (k op code : Nat) : Prop where
  op : t.get (.SEC_CMD_RESULT k) SEC_CMD_RESULT.OPCODE = op
  code : t.get (.SEC_CMD_RESULT k) SEC_CMD_RESULT.ERR = code
  go : t.get (.SEC_CMD_CTRL k) SEC_CMD_CTRL.GO = 0
  queue : t.sec.queue = []
  last : t.rd (.SEC_SLOT_LAST (cbTakes (s.secBlock k))) = BitVec.ofNat 64 (cbCounter (s.secBlock k))

/-- The error log can take an entry: the one it would overwrite has been handled (R520, R523). -/
def LogFree (s : State) : Prop :=
  s.get .ERR_STATUS ERR_STATUS.PROD < 1024 ∨ lwState.get (s.rd (.ERR_ENTRY (s.get .ERR_STATUS ERR_STATUS.PROD % 1024) 1)) ≠ 0

/-- From `s` to `t` the log took an entry of this code, class and unit (R520). -/
structure Logged (s t : State) (code cls unit : Nat) : Prop where
  prod : t.get .ERR_STATUS ERR_STATUS.PROD = (s.get .ERR_STATUS ERR_STATUS.PROD + 1) % 2 ^ 32
  code : lwCode.get (t.rd (.ERR_ENTRY (s.get .ERR_STATUS ERR_STATUS.PROD % 1024) 1)) = code
  cls : lwClass.get (t.rd (.ERR_ENTRY (s.get .ERR_STATUS ERR_STATUS.PROD % 1024) 1)) = cls
  unit : lwUnit.get (t.rd (.ERR_ENTRY (s.get .ERR_STATUS ERR_STATUS.PROD % 1024) 1)) = unit
  time : t.rd (.ERR_ENTRY (s.get .ERR_STATUS ERR_STATUS.PROD % 1024) 0) = s.now

/-- An instruction of context `c` of Vat `v` has raised `e` (R156): the context is in ERROR at that instruction, no part
of it done; the Vat has logged it and interrupted Reeve. -/
structure Raised (s t : State) (v c e : Nat) : Prop where
  st : t.cst v c = csError
  err : t.get (.VAT_CTX_STATUS v c) VAT_CTX_STATUS.ERR = e
  pc : t.pc v c = s.pc v c
  time : t.rd (.VAT_CTX_ERRTIME v c) = s.now
  mid : t.rd (.VAT_CTX_RESUME v c) = 0
  log : Logged s t e clsVat (s.phys v)
  irq : t.sent.getLast? = some (.reeveIrq clsVat (s.phys v))

/-- An instruction of context `c` of Vat `v` has ended complete on `s`: PC has moved on by one, no part of it is left to
resume, and nothing else changed. -/
structure Completed (s t : State) (v c : Nat) : Prop where
  pc : t.pc v c = (s.pc v c + 1) % 16384
  st : t.cst v c = s.cst v c
  mid : t.rd (.VAT_CTX_RESUME v c) = 0
  slots : ∀ k, k < 12 → t.rd (.VAT_CTX_RSLOT v c k) = 0
  only : OnlyRegs (fun o => offs [.VAT_CTX_STATUS v c, .VAT_CTX_RESUME v c] o ∨
    ((Reg.VAT_CTX_RSLOT v c 0).off ≤ o ∧ o < (Reg.VAT_CTX_RSLOT v c 12).off)) s t

/-- What an instruction of Vat `v` reaches: the Vat's registers, its Curd buffer, its record, and the rows of its own
Cellar; of everything else only the counters change, and claims that an instruction of the Vat held while it waited go. -/
structure VatLocal (s t : State) (v : Nat) : Prop where
  rest : t = { s with regs := t.regs, live := t.live, mem := t.mem, poison := t.poison, curd := t.curd, vats := t.vats,
                      dirty := t.dirty, claims := t.claims }
  claims : ∀ x, (x ∈ t.claims → x ∈ s.claims) ∧ (x ∈ s.claims → (∀ c, x.holder ≠ .insn v c) → x ∈ t.claims)
  regs : RegsKept (fun o => ((Reg.VAT_GEOM v).off ≤ o ∧ o < (Reg.VAT_GEOM (v + 1)).off) ∨ perfOff o) s t
  mem : ∀ a, a < rowAddr v 0 ∨ rowAddr v rowsPerCellar ≤ a → t.byte a = s.byte a
  vats : ∀ u, u ≠ v → t.vat u = s.vat u

end Machine

end Sys2Proof
end

