-- ==== Sys2Proof/Certificates/Slice0/Obligations.lean ====
section
/-! DEFINITION. The statements for the provers. Each docstring says what the statement says; OBLIGATIONS.json names the
rules it rests on. -/

open Sys2Proof Sys2Proof.Machine

/-- A step on a queue that is not empty is exec of the command in front, on the state with the rest of the queue. The
model's choice (log 10): on an empty queue 10 ns pass, less what a slew holds the time base back by, and where no pass
runs, no request is live and no port carries traffic nothing else changes; R25 and R428 give the time base and the
slew, not the step's length. (R581, R583, R25, R428) -/
def Obligations.StepRunsFront : Prop :=
  (∀ (s : State) (c : Instr) (rest : List Instr), s.pending = c :: rest → step s = exec c { s with pending := rest }) ∧
  (∀ s : State, s.pending = [] → s.passes = [] → s.liveReqs = [] → (∀ p, p < 18 → s.carries p = false) →
    ∃ t, step s = .next t ∧ t.now = s.now + (10 - BitVec.ofNat 64 (min 9 s.slowBy)) ∧ t.slowBy = 0 ∧
      OnlyRegs (offs [.GLB_TIME]) { s with slowBy := 0 } t)

/-- The queue of the reset state is empty and every register and memory table is in canonical form. (R4, R8, R202,
R583) -/
def Obligations.ResetInv : Prop := Inv State.reset

/-- Whatever command is in front, a step that answers a next state leaves every waiting command well-formed and the
registers and all memories in canonical form, so equal contents are equal data. (R4, R8, R202, R583) -/
def Obligations.StepKeepsInv : Prop := ∀ s t : State, Inv s → step s = .next t → Inv t

/-- exec answers a next state for every well-formed command in every state, and the fault illFormed for every other;
it refuses nothing. (R581, R574, R587) -/
def Obligations.WellFormedRuns : Prop :=
  ∀ (c : Instr) (s : State), (c.wf = true → ∃ t, exec c s = .next t) ∧ (c.wf = false → exec c s = .fault .illFormed)

/-- With legal fields SEMW completes when the semaphore holds the threshold, subtracting it with TAKE, and else its
context waits with WAIT_ON 1 and PC unmoved; nothing but those registers, the counters and the issue record changes. A
local SEMP sets the semaphore or adds to it (where the sum fits), a remote one puts its post last on the die network,
both moving PC on; FENCE moves on unless it names batches and one is outstanding, when its context waits with WAIT_ON
2. Nothing else changes; a pause or an abort that waits for the boundary then takes effect. (R115, R140, R141, R142,
R143) -/
def Obligations.SemFenceRun : Prop :=
  (∀ (s : State) (v : VatId) (c : CtxId) (w : Nat), Issues s v c opSemw w → bits w 68 0 = 0 →
    semOk (semwKind w) (semwIdx w) = true →
    (semwVal w ≤ s.sem v (semwKind w) (semwIdx w) → ∃ t : State, exec (.semw v c) s = .next (t.atBoundary v c) ∧
      t.pc v c = (s.pc v c + 1) % 16384 ∧
      t.sem v (semwKind w) (semwIdx w) =
        (if semwTake w then s.sem v (semwKind w) (semwIdx w) - semwVal w else s.sem v (semwKind w) (semwIdx w)) ∧
      OnlyInstr (offs [.VAT_CTX_STATUS v c, semReg v (semwKind w) (semwIdx w)]) s t) ∧
    (s.sem v (semwKind w) (semwIdx w) < semwVal w → s.leaving v c = true →
      ∃ t : State, exec (.semw v c) s = .next (t.atBoundary v c) ∧ OnlyInstr (fun _ => False) s t) ∧
    (s.sem v (semwKind w) (semwIdx w) < semwVal w → s.leaving v c = false → ∃ t, exec (.semw v c) s = .next t ∧
      t.cst v c = csWait ∧ t.get (.VAT_CTX_STATUS v c) VAT_CTX_STATUS.WAIT_ON = 1 ∧ t.pc v c = s.pc v c ∧
      OnlyInstr (offs [.VAT_CTX_STATUS v c, .VAT_STATUS v]) s t)) ∧
  (∀ (s : State) (v : VatId) (c : CtxId) (w : Nat), Issues s v c opSemp w → bits w 63 0 = 0 →
    semOk (semwKind w) (semwIdx w) = true → bit w 68 = false →
    (semwTake w = false → s.sem v (semwKind w) (semwIdx w) + semwVal w < 2 ^ 32) →
    ∃ t : State, exec (.semp v c) s = .next (t.atBoundary v c) ∧ t.pc v c = (s.pc v c + 1) % 16384 ∧
      t.sem v (semwKind w) (semwIdx w) =
        (if semwTake w then semwVal w else s.sem v (semwKind w) (semwIdx w) + semwVal w) ∧
      OnlyInstr (offs [.VAT_CTX_STATUS v c, semReg v (semwKind w) (semwIdx w)]) s t) ∧
  (∀ (s : State) (v : VatId) (c : CtxId) (w : Nat), Issues s v c opSemp w → bits w 63 0 = 0 →
    semOk (semwKind w) (semwIdx w) = true → bit w 68 = true → semwKind w ≠ 2 → s.valid (bits w 67 64) = true →
    s.part (bits w 67 64) = s.part v →
    ∃ t : State, exec (.semp v c) s = .next (t.atBoundary v c) ∧ t.pc v c = (s.pc v c + 1) % 16384 ∧
      t.dnet = s.dnet ++ [{ src := 6 + s.phys v, part := s.part v, dest := .stop (6 + s.phys (bits w 67 64)),
                            load := .post (semwKind w) (semwIdx w) (semwVal w) (semwTake w) }] ∧
      OnlyInstr (offs [.VAT_CTX_STATUS v c]) { s with dnet := t.dnet } t) ∧
  (∀ (s : State) (v : VatId) (c : CtxId) (w : Nat), Issues s v c opFence w → bits w 110 0 = 0 →
    ((bit w 111 && s.outstanding v c) = false → ∃ t : State, exec (.fence v c) s = .next (t.atBoundary v c) ∧
      t.pc v c = (s.pc v c + 1) % 16384 ∧ OnlyInstr (offs [.VAT_CTX_STATUS v c]) s t) ∧
    ((bit w 111 && s.outstanding v c) = true → s.leaving v c = true →
      ∃ t : State, exec (.fence v c) s = .next (t.atBoundary v c) ∧ OnlyInstr (fun _ => False) s t) ∧
    ((bit w 111 && s.outstanding v c) = true → s.leaving v c = false → ∃ t, exec (.fence v c) s = .next t ∧
      t.cst v c = csWait ∧ t.get (.VAT_CTX_STATUS v c) VAT_CTX_STATUS.WAIT_ON = 2 ∧ t.pc v c = s.pc v c ∧
      OnlyInstr (offs [.VAT_CTX_STATUS v c, .VAT_STATUS v]) s t))

/-- LOOP with a legal END opens level d+1 with ITER 0, START after it and its END, or continues past END where COUNT
is 0; BRC with legal fields goes to TARGET where its condition holds and else to the next word. Nothing else changes.
(R144, R146) -/
def Obligations.LoopBrcRun : Prop :=
  (∀ (s : State) (v : VatId) (c : CtxId) (w : Nat), Issues s v c opLoop w → bits w 73 0 = 0 →
    s.inRegionPc v c (bits w 87 74) = true → s.pc v c < bits w 87 74 →
    (bits w 111 88 = 0 → ∃ t : State, exec (.loop v c) s = .next (t.atBoundary v c) ∧ t.pc v c = (bits w 87 74 + 1) % 16384 ∧
      t.depth v c = s.depth v c ∧ OnlyInstr (offs [.VAT_CTX_STATUS v c]) s t) ∧
    (bits w 111 88 ≠ 0 → s.depth v c < 4 → ∃ t : State, exec (.loop v c) s = .next (t.atBoundary v c) ∧ t.pc v c = (s.pc v c + 1) % 16384 ∧
      t.depth v c = s.depth v c + 1 ∧ t.iter v c (s.depth v c + 1) = 0 ∧
      t.get (.VAT_CTX_LOOP v c (s.depth v c)) VAT_CTX_LOOP.COUNT = bits w 111 88 ∧
      t.levelStart v c = (s.pc v c + 1) % 16384 ∧ t.levelEnd v c = bits w 87 74 ∧
      OnlyInstr (offs [.VAT_CTX_STATUS v c, .VAT_CTX_LOOP v c (s.depth v c), .VAT_CTX_LOOPEND v c]) s t)) ∧
  (∀ (s : State) (v : VatId) (c : CtxId) (w : Nat), Issues s v c opBrc w → s.brcOk v c w = true →
    ∃ t : State, exec (.brc v c) s = .next (t.atBoundary v c) ∧
      t.pc v c = (if s.brcHolds v c w then brcTarget w else (s.pc v c + 1) % 16384) ∧
      OnlyInstr (offs [.VAT_CTX_STATUS v c]) s t)

/-- ENDL raises ILLEGAL_OP where no level is open or its address is not the innermost level's END; otherwise it
increments ITER and continues at START where ITER is below COUNT, else it pops the level and goes on. (R145) -/
def Obligations.EndlRuns : Prop :=
  ∀ (s : State) (v : VatId) (c : CtxId) (w : Nat), Issues s v c opEndl w → bits w 111 0 = 0 → s.depth v c ≤ 4 →
    (s.depth v c = 0 ∨ s.pc v c ≠ s.levelEnd v c → LogFree s → ∃ t, exec (.endl v c) s = .next t ∧ Raised s t v c eIllegalOp) ∧
    (s.depth v c ≠ 0 → s.pc v c = s.levelEnd v c →
      let r := Reg.VAT_CTX_LOOP v c (s.depth v c - 1)
      let it := s.get r VAT_CTX_LOOP.ITER + 1
      (it < s.get r VAT_CTX_LOOP.COUNT → ∃ t : State, exec (.endl v c) s = .next (t.atBoundary v c) ∧ t.get r VAT_CTX_LOOP.ITER = it ∧
        t.pc v c = s.levelStart v c ∧ t.depth v c = s.depth v c ∧ OnlyInstr (offs [.VAT_CTX_STATUS v c, r]) s t) ∧
      (s.get r VAT_CTX_LOOP.COUNT ≤ it → ∃ t : State, exec (.endl v c) s = .next (t.atBoundary v c) ∧ t.pc v c = (s.pc v c + 1) % 16384 ∧
        t.depth v c = s.depth v c - 1 ∧ OnlyInstr (offs [.VAT_CTX_STATUS v c, r]) s t))

/-- TICK puts the time base in its slot and, where the trace is off, touches nothing else; FLAGS stores the Vat's
flags where asked and clears those it names; SEED gives every generator its splitmix64 seed. PC moves on by one in
each. (R147, R149, R150, R57, R614) -/
def Obligations.TickFlagsSeedRun : Prop :=
  (∀ (s : State) (v : VatId) (c : CtxId) (w : Nat), Issues s v c opTick w → bits w 89 0 = 0 →
    ∃ t : State, exec (.tick v c) s = .next (t.atBoundary v c) ∧ t.ps v c (bits w 111 106) = s.now ∧ t.pc v c = (s.pc v c + 1) % 16384 ∧
      (s.get .PERF_TRACE_CFG PERF_TRACE_CFG.EN = 0 →
        OnlyInstr (offs [.VAT_CTX_STATUS v c, .VAT_CTX_PS v c (bits w 111 106)]) s t)) ∧
  (∀ (s : State) (v : VatId) (c : CtxId) (w : Nat), Issues s v c opFlags w → bits w 100 0 = 0 →
    ∃ t : State, exec (.flags v c) s = .next (t.atBoundary v c) ∧ t.pc v c = (s.pc v c + 1) % 16384 ∧
      t.flags v = s.flags v &&& ~~~BitVec.ofNat 4 (bits w 111 108) ∧
      t.ps v c (bits w 106 101) =
        (if bit w 107 then (s.flags v).zeroExtend 64 else s.ps v c (bits w 106 101)) ∧
      OnlyInstr (offs [.VAT_CTX_STATUS v c, .VAT_FLAGS v, .VAT_CTX_PS v c (bits w 106 101)]) s t) ∧
  (∀ (s : State) (v : VatId) (c : CtxId) (w : Nat), Issues s v c opSeed w → bits w 37 0 = 0 →
    (bit w 47 = true → bits w 111 48 = 0 ∧ bits w 40 38 ≤ 4) →
    ∃ t : State, exec (.seed v c) s = .next (t.atBoundary v c) ∧ t.pc v c = (s.pc v c + 1) % 16384 ∧
      (∀ j, j < 256 → ∀ h, h < 2 → t.rd (.VAT_CTX_GEN v c j h) =
        (genSeed (if bit w 47 then s.ps v c (bits w 46 41) + BitVec.ofNat 64 (s.iter v c (bits w 40 38))
          else BitVec.ofNat 64 (bits w 111 48)) j).word h) ∧
      OnlyInstr (fun o => o = (Reg.VAT_CTX_STATUS v c).off ∨
        ((Reg.VAT_CTX_GEN v c 0 0).off ≤ o ∧ o < (Reg.VAT_CTX_GEN v c 256 0).off)) s t)

/-- HALT with no batch outstanding leaves its context HALTED with its code, the Vat idle of it, PC past it, and
interrupts Reeve with NOTIFY; WAGON with a legal header address puts its batch last in the stream's queue where the
stream takes it, and else waits with WAIT_ON 3, holding the address it has read (R161). Nothing else changes but what
a boundary takes. (R148, R242, R249, R143, R115) -/
def Obligations.HaltWagonRun : Prop :=
  (∀ (s : State) (v : VatId) (c : CtxId) (w : Nat), Issues s v c opHalt w → bits w 94 0 = 0 → s.outstanding v c = false →
    ∃ t, exec (.halt v c) s = .next t ∧ t.cst v c = csHalted ∧
      t.get (.VAT_CTX_STATUS v c) VAT_CTX_STATUS.HALT_CODE = bits w 111 96 ∧ t.pc v c = (s.pc v c + 1) % 16384 ∧
      (s.get (.VAT_STATUS v) VAT_STATUS.CTX = c → t.get (.VAT_STATUS v) VAT_STATUS.CTX_VALID = 0) ∧
      t.sent = (if bit w 95 then s.sent ++ [.reeveIrq 1 (s.phys v)] else s.sent) ∧
      t.claims = s.claims.filter (fun x => x.holder ≠ .insn v c) ∧
      t = { s with regs := t.regs, live := t.live, vats := t.vats, sent := t.sent, claims := t.claims } ∧
      (∀ u, u ≠ v.val → t.vat u = s.vat u) ∧
      RegsKept (fun o => offs [.VAT_CTX_STATUS v c, .VAT_CTX_CTRL v c, .VAT_STATUS v] o ∨ perfOff o) s t) ∧
  (∀ (s : State) (v : VatId) (c : CtxId) (w : Nat), Issues s v c opWagon w → bits w 99 0 = 0 →
    let a := s.wagonAddr v c w
    let i := bits w 105 100
    ((∀ h ∈ (s.vat v).hdrs, h.1 ≠ c.val) → a = (s.ps v c (bits w 111 106)).toNat % 2 ^ 48) ∧
    (a % 64 = 0 → s.get (.WAGON_STREAM_CFG v i) WAGON_STREAM_CFG.ENABLE = 1 → s.inHbm (s.part v) a 64 = true →
      (s.wagonReady v i = true → ∃ t : State, exec (.wagon v c) s = .next (t.atBoundary v c) ∧
        t.pc v c = (s.pc v c + 1) % 16384 ∧
        t.stream v i = { s.stream v i with queue := (s.stream v i).queue ++ [{ hdr := a, ctx := c }] } ∧
        (∀ u j, j < 64 → (u ≠ v.val ∨ j ≠ i) → t.stream u j = s.stream u j) ∧
        OnlyVat (fun o => offs [.VAT_CTX_STATUS v c] o ∨ perfOff o) v { s with streams := t.streams } t) ∧
      (s.wagonReady v i = false → s.leaving v c = true → ∃ t : State, exec (.wagon v c) s = .next (t.atBoundary v c) ∧
        OnlyVat perfOff v s t) ∧
      (s.wagonReady v i = false → s.leaving v c = false → ∃ t, exec (.wagon v c) s = .next t ∧ t.cst v c = csWait ∧
        t.get (.VAT_CTX_STATUS v c) VAT_CTX_STATUS.WAIT_ON = 3 ∧ t.pc v c = s.pc v c ∧ (c.val, a) ∈ (t.vat v).hdrs ∧
        OnlyVat (fun o => offs [.VAT_CTX_STATUS v c, .VAT_STATUS v] o ∨ perfOff o) v s t)))

/-- A context switch runs the READY context of highest PRIO, the one that ran becomes READY, and the Mould carries
nothing over; with none to take nothing changes. A fetch outside the region or of an opcode that is none of R123
raises ILLEGAL_OP, an uncorrectable word UNCORRECTABLE, in the context that fetches. (R116, R118, R85, R113, R124,
R156, R514) -/
def Obligations.SwitchAndBadFetch : Prop :=
  (∀ (s : State) (v : VatId),
    (∀ c, s.switchTo v = some c → s.cst v c = csReady ∧ (∀ d, d < 4 → s.cst v d = csReady → s.prio v d ≤ s.prio v c) ∧
      ∃ t, exec (.contextSwitch v) s = .next t ∧ t.cst v c = csRun ∧ (∀ r, s.running v = some r → t.cst v r = csReady) ∧
        t.get (.VAT_STATUS v) VAT_STATUS.CTX = c ∧ t.get (.VAT_STATUS v) VAT_STATUS.CTX_VALID = 1 ∧ t.vst v = vsRun ∧
        (t.vat v).mould = none ∧
        t = { s with regs := t.regs, live := t.live, vats := t.vats, claims := t.claims } ∧
        (∀ x, x ∈ t.claims ↔ x ∈ s.claims ∧ ∀ d, d < 4 → d = c ∨ x.holder ≠ .insn v d) ∧
        RegsKept (fun o => offs ([0, 1, 2, 3].map (Reg.VAT_CTX_STATUS v.val) ++ [.VAT_STATUS v]) o ∨ perfOff o) s t) ∧
    (s.switchTo v = none → exec (.contextSwitch v) s = .next s)) ∧
  (∀ (s : State) (v : VatId) (c : CtxId) (ecc : Bool), s.canIssue v c = true → LogFree s →
    (s.fetch v c = none → ∃ t, exec (.illegalOpcode v c ecc) s = .next t ∧ Raised s t v c eIllegalOp) ∧
    (∀ w, s.fetch v c = some w → ecc = true → ∃ t, exec (.illegalOpcode v c ecc) s = .next t ∧ Raised s t v c eUncorrectable) ∧
    (∀ w, s.fetch v c = some w → ecc = false → opcodes.contains (hOpc w) = false →
      ∃ t, exec (.illegalOpcode v c ecc) s = .next t ∧ Raised s t v c eIllegalOp))

/-- Each of TILE, MOULD, PRESS, DRAIN with and without FILL, ATTN, the Rind instructions and SKIM, where the checks at
issue find an error, raises exactly that error in its context, logs it and interrupts Reeve. (R125, R156, R124, R129,
R132, R133, R134, R138) -/
def Obligations.IssueChecksRaise : Prop :=
  ∀ (s : State) (v : VatId) (c : CtxId) (run : Run) (w : Nat), LogFree s →
    (Issues s v c opTile w → s.tileErr v c w (s.readSlots v c (tlSlots w)) ≠ 0 →
      ∃ t, exec (.tile v c run) s = .next t ∧ Raised s t v c (s.tileErr v c w (s.readSlots v c (tlSlots w)))) ∧
    (Issues s v c opMould w → mouldErr w (s.readSlots v c [moWp w]) ≠ 0 →
      ∃ t, exec (.mould v c run) s = .next t ∧ Raised s t v c (mouldErr w (s.readSlots v c [moWp w]))) ∧
    (Issues s v c opPress w → s.pressErr v c w (s.readSlots v c [prXp w]) ≠ 0 →
      ∃ t, exec (.press v c run) s = .next t ∧ Raised s t v c (s.pressErr v c w (s.readSlots v c [prXp w]))) ∧
    (Issues s v c opDrain w → s.drainErr v c w (s.readSlots v c (drSlots w)) ≠ 0 →
      (drFill w = false → ∃ t, exec (.drain v c run) s = .next t ∧
        Raised s t v c (s.drainErr v c w (s.readSlots v c (drSlots w)))) ∧
      (drFill w = true → ∃ t, exec (.drainFill v c run) s = .next t ∧
        Raised s t v c (s.drainErr v c w (s.readSlots v c (drSlots w))))) ∧
    (Issues s v c opAttn w → s.attnErr v c w (s.readSlots v c (atSlots w)) ≠ 0 →
      ∃ t, exec (.attn v c run) s = .next t ∧ Raised s t v c (s.attnErr v c w (s.readSlots v c (atSlots w)))) ∧
    (Issues s v c opRind w → s.rindErr w (s.readSlots v c (rdSlots w)) ≠ 0 →
      ∃ t, exec (.rind v c run) s = .next t ∧ Raised s t v c (s.rindErr w (s.readSlots v c (rdSlots w)))) ∧
    (Issues s v c opSkim w → skimErr w (s.readSlots v c (skSlots w)) ≠ 0 →
      ∃ t, exec (.skim v c run) s = .next t ∧ Raised s t v c (skimErr w (s.readSlots v c (skSlots w))))

/-- Each of TILE, PRESS, DRAIN with and without FILL, ATTN, the Rind instructions and SKIM that passes its checks at
issue, and whose run meets no conflict, no poison, no stop and no boundary it leaves at (it stays live), moves PC on
by one and leaves no part of itself to resume. (R156, R166, R171, R85, R222) -/
def Obligations.InstructionsComplete : Prop :=
  ∀ (s : State) (v : VatId) (c : CtxId) (run : Run) (w : Nat),
    (Issues s v c opTile w → s.tileErr v c w (s.readSlots v c (tlSlots w)) = 0 →
      ((s.issued v c opTile).tileRun v c run w).live = true →
      ∃ t : State, exec (.tile v c run) s = .next (t.atBoundary v c) ∧ Completed ((s.issued v c opTile).tileRun v c run w).s t v c) ∧
    (Issues s v c opPress w → s.pressErr v c w (s.readSlots v c [prXp w]) = 0 →
      ((s.issued v c opPress).pressRun v c run w).live = true →
      ∃ t : State, exec (.press v c run) s = .next (t.atBoundary v c) ∧ Completed ((s.issued v c opPress).pressRun v c run w).s t v c) ∧
    (Issues s v c opDrain w → s.drainErr v c w (s.readSlots v c (drSlots w)) = 0 →
      (drFill w = false → ((s.issued v c opDrain).drainRun v c run w).live = true →
        ∃ t : State, exec (.drain v c run) s = .next (t.atBoundary v c) ∧ Completed ((s.issued v c opDrain).drainRun v c run w).s t v c) ∧
      (drFill w = true → ((s.issued v c opDrain).fillRun v c run w).live = true →
        ∃ t : State, exec (.drainFill v c run) s = .next (t.atBoundary v c) ∧ Completed ((s.issued v c opDrain).fillRun v c run w).s t v c)) ∧
    (Issues s v c opAttn w → s.attnErr v c w (s.readSlots v c (atSlots w)) = 0 →
      ((s.issued v c opAttn).attnRun v c run w).live = true →
      ∃ t : State, exec (.attn v c run) s = .next (t.atBoundary v c) ∧ Completed ((s.issued v c opAttn).attnRun v c run w).s t v c) ∧
    (Issues s v c opRind w → s.rindErr w (s.readSlots v c (rdSlots w)) = 0 →
      ((s.issued v c opRind).rindRun v c run w).live = true →
      ∃ t : State, exec (.rind v c run) s = .next (t.atBoundary v c) ∧ Completed ((s.issued v c opRind).rindRun v c run w).s t v c) ∧
    (Issues s v c opSkim w → skimErr w (s.readSlots v c (skSlots w)) = 0 →
      s.copying v (s.skimRows v c w (s.skimOuts v c run w).1 (s.skimOuts v c run w).2) = false →
      ((s.issued v c opSkim).skimRun v c run w).live = true →
      ∃ t : State, exec (.skim v c run) s = .next (t.atBoundary v c) ∧ Completed ((s.issued v c opSkim).skimRun v c run w).s t v c)

/-- TILE, MOULD, PRESS, DRAIN with and without FILL, ATTN without a ring, the Rind instructions and SKIM, run without
hardware faults and without checks and staying live, move PC on by one and change nothing outside their Vat: no byte
of memory outside its Cellar, no register of another unit but the counters, nothing another Vat holds. (R71, R91,
R113, R205, R209, R210) -/
def Obligations.InstructionsStayInTheirVat : Prop :=
  ∀ (s : State) (v : VatId) (c : CtxId) (run : Run) (w : Nat), run.faults = [] → s.checksOn v (hChk w) = false →
    (Issues s v c opTile w → s.tileErr v c w (s.readSlots v c (tlSlots w)) = 0 →
      ((s.issued v c opTile).tileRun v c run w).live = true →
      ∃ t : State, exec (.tile v c run) s = .next (t.atBoundary v c) ∧ t.pc v c = (s.pc v c + 1) % 16384 ∧ VatLocal s t v) ∧
    (Issues s v c opMould w → mouldErr w (s.readSlots v c [moWp w]) = 0 →
      ((s.issued v c opMould).mouldRun v c run w).live = true →
      ∃ t : State, exec (.mould v c run) s = .next (t.atBoundary v c) ∧ t.pc v c = (s.pc v c + 1) % 16384 ∧ VatLocal s t v) ∧
    (Issues s v c opPress w → s.pressErr v c w (s.readSlots v c [prXp w]) = 0 →
      ((s.issued v c opPress).pressRun v c run w).live = true →
      ∃ t : State, exec (.press v c run) s = .next (t.atBoundary v c) ∧ t.pc v c = (s.pc v c + 1) % 16384 ∧ VatLocal s t v) ∧
    (Issues s v c opDrain w → s.drainErr v c w (s.readSlots v c (drSlots w)) = 0 →
      (drFill w = false → ((s.issued v c opDrain).drainRun v c run w).live = true →
        ∃ t : State, exec (.drain v c run) s = .next (t.atBoundary v c) ∧ t.pc v c = (s.pc v c + 1) % 16384 ∧ VatLocal s t v) ∧
      (drFill w = true → ((s.issued v c opDrain).fillRun v c run w).live = true →
        ∃ t : State, exec (.drainFill v c run) s = .next (t.atBoundary v c) ∧ t.pc v c = (s.pc v c + 1) % 16384 ∧ VatLocal s t v)) ∧
    (Issues s v c opAttn w → s.attnErr v c w (s.readSlots v c (atSlots w)) = 0 →
      swRing ((s.readSlots v c (atSlots w)).val (atMp w + 4)) = 0 →
      ((s.issued v c opAttn).attnRun v c run w).live = true →
      ∃ t : State, exec (.attn v c run) s = .next (t.atBoundary v c) ∧ t.pc v c = (s.pc v c + 1) % 16384 ∧ VatLocal s t v) ∧
    (Issues s v c opRind w → s.rindErr w (s.readSlots v c (rdSlots w)) = 0 →
      ((s.issued v c opRind).rindRun v c run w).live = true →
      ∃ t : State, exec (.rind v c run) s = .next (t.atBoundary v c) ∧ t.pc v c = (s.pc v c + 1) % 16384 ∧ VatLocal s t v) ∧
    (Issues s v c opSkim w → skimErr w (s.readSlots v c (skSlots w)) = 0 →
      s.copying v (s.skimRows v c w (s.skimOuts v c run w).1 (s.skimOuts v c run w).2) = false →
      ((s.issued v c opSkim).skimRun v c run w).live = true →
      ∃ t : State, exec (.skim v c run) s = .next (t.atBoundary v c) ∧ t.pc v c = (s.pc v c + 1) % 16384 ∧ VatLocal s t v)

/-- MOULD that goes through leaves the tile of its rows in the Mould; PRESS of one token that stores, without checks
or faults, leaves the lane outputs of its row in its Curd slot, +0 beyond the valid columns; DRAIN with FILL sets the
kept marker to its count and mode. (R132, R74, R75, R133, R40, R82, R130, R134) -/
def Obligations.MouldPressFillValues : Prop :=
  ∀ (s : State) (v : VatId) (c : CtxId) (run : Run) (w : Nat), run.faults = [] →
    (Issues s v c opMould w → mouldErr w (s.readSlots v c [moWp w]) = 0 →
      ((s.issued v c opMould).mouldRun v c run w).live = true →
      ∃ t : State, exec (.mould v c run) s = .next (t.atBoundary v c) ∧ t.pc v c = (s.pc v c + 1) % 16384 ∧ (t.vat v).moulded = true ∧
        (t.vat v).mould = some
          { fmt := multFmt (hFmt w), kv := moKv w
            cols := tileCols (hFmt w) (hTrn w) (moNv w) (moKv w)
              ((List.range (if hTrn w then moKv w else moNv w)).map fun j =>
                s.row v ((s.ptr v c (s.readSlots v c [moWp w]) (moWp w)).wt 0 j)) }) ∧
    (∀ m, Issues s v c opPress w → s.pressErr v c w (s.readSlots v c [prXp w]) = 0 →
      s.checksOn v (hChk w) = false → prCount w = 1 → prHow w = 0 → (s.vat v).mould = some m →
      ((s.issued v c opPress).pressRun v c run w).live = true →
      ∃ t : State, exec (.press v c run) s = .next (t.atBoundary v c) ∧ t.pc v c = (s.pc v c + 1) % 16384 ∧
        t.curdRow v (s.shareBase v c + prSlot w) = sliceD 0 (lanes m m.cols
          (elems16 (s.row v ((s.ptr v c (s.readSlots v c [prXp w]) (prXp w)).tok 0 0 1 0)))).1 0 256) ∧
    (Issues s v c opDrain w → drFill w = true → s.drainErr v c w (s.readSlots v c (drSlots w)) = 0 →
      ((s.issued v c opDrain).fillRun v c run w).live = true →
      ∃ t : State, exec (.drainFill v c run) s = .next (t.atBoundary v c) ∧ t.pc v c = (s.pc v c + 1) % 16384 ∧
        t.get (.VAT_CTX_KEPT v c) VAT_CTX_KEPT.VALID = 1 ∧ t.get (.VAT_CTX_KEPT v c) VAT_CTX_KEPT.M = drCount w ∧
        t.get (.VAT_CTX_KEPT v c) VAT_CTX_KEPT.MODE = (if drPair w then 1 else 0))

/-- With no other segment staged, a pressed segment whose checks pass, or pass on the retry, commits every staged
result as its kind says: stored, added, stored with an error of +0, or added by TwoSum; one whose retry names
positions that spares can take commits nothing and remaps them; one whose retry fails and names none stops the Vat,
its four contexts FAULTED and its results dropped. (R86, R94, R96, R97, R98, R99, R108, R133, R157) -/
def Obligations.SegmentVerdict : Prop :=
  let keys := fun (v : VatId) (x : SegWrite) =>
    curdKey v x.slot x.col :: if 2 ≤ x.how.val then [curdKey v ((x.slot.val + 1) % 4096) x.col] else []
  let commits := fun (v : VatId) (g : Segment) (s t : State) =>
    (∀ x ∈ g.writes,
      let old := s.curdAt v x.slot x.col
      let err := s.curdAt v ((x.slot.val + 1) % 4096) x.col
      (x.how = 0 → t.curdAt v x.slot x.col = x.val) ∧
      (x.how = 1 → t.curdAt v x.slot x.col = (fAdd old x.val).1) ∧
      (x.how = 2 → t.curdAt v x.slot x.col = x.val ∧ t.curdAt v ((x.slot.val + 1) % 4096) x.col = 0) ∧
      (x.how = 3 → t.curdAt v x.slot x.col = (twoSum old x.val).1 ∧
        t.curdAt v ((x.slot.val + 1) % 4096) x.col = (fAdd err (twoSum old x.val).2.1).1)) ∧
    ∀ k, (∀ x ∈ g.writes, k ∉ keys v x) → Tab.get zero32 t.curd k = Tab.get zero32 s.curd k
  ∀ (s : State) (v : VatId) (g : Segment), s.canIssue v g.ctx = true → (s.vat v).staged = [] →
    (attPasses g.first = true → (g.writes.flatMap (keys v)).Nodup → ∃ t, exec (.segmentVerdict v g) s = .next t ∧
      commits v g s t ∧ t.vat v = s.vat v ∧ OnlyVat (offs [.VAT_CHK_STAT v, .VAT_FLAGS v]) v { s with curd := t.curd } t) ∧
    (attPasses g.first = false → attPasses g.again = true → s.get (.VAT_CHK_CTRL v) VAT_CHK_CTRL.LOG_TRANSIENT = 0 →
      (g.writes.flatMap (keys v)).Nodup → ∃ t, exec (.segmentVerdict v g) s = .next t ∧ commits v g s t ∧
      t.get (.VAT_CHK_STAT v) VAT_CHK_STAT.TRANSIENT =
        min VAT_CHK_STAT.TRANSIENT.max (s.get (.VAT_CHK_STAT v) VAT_CHK_STAT.TRANSIENT + 1)) ∧
    (attPasses g.first = false → attPasses g.again = false → attNamed g.again ≠ [] → (attNamed g.again).length ≤ 2 →
      (attNamed g.again).length ≤ sparesFree (s.rd (.VAT_LANE_REMAP v)) → s.get .ERR_STATUS ERR_STATUS.PROD < 1000 →
      ∃ t, exec (.segmentVerdict v g) s = .next t ∧ t.curd = s.curd ∧ t.vst v = s.vst v ∧
        t.rd (.VAT_LANE_REMAP v) = (attNamed g.again).foldl retirePos (s.rd (.VAT_LANE_REMAP v))) ∧
    (attPasses g.first = false → attPasses g.again = false → attNamed g.again = [] → LogFree s →
      ∃ t, exec (.segmentVerdict v g) s = .next t ∧ t.vst v = vsFaulted ∧ (∀ c, c < 4 → t.cst v c = csFaulted) ∧
        t.curd = s.curd ∧ Logged s t eUncorrectable clsVat (s.phys v))

/-- A START that is taken, alone of the four controls, puts PC at ENTRY, empties the loop stack, clears the kept
marker, ERR and the resume record, seeds the generators with gen_seed(0, j), keeps the parameter slots and makes the
context READY. (R158, R163, R102, R585) -/
def Obligations.CtxStartRuns : Prop :=
  ∀ (s : State) (m : Master) (v : VatId) (c : CtxId) (val : W64),
    Writes s m (.VAT_CTX_CTRL v c) (withBit VAT_CTX_CTRL.START val true) →
    VAT_CTX_CTRL.RESUME.get val = 0 → VAT_CTX_CTRL.ABORT.get val = 0 → VAT_CTX_CTRL.PAUSE.get val = 0 →
    s.cst v c = csEmpty ∨ s.cst v c = csHalted ∨ s.cst v c = csError →
    ∃ t, exec (.ctxStart m v c val) s = .next t ∧ t.cst v c = csReady ∧
      t.pc v c = s.get (.VAT_CTX_PROG v c) VAT_CTX_PROG.ENTRY ∧ t.depth v c = 0 ∧
      t.get (.VAT_CTX_STATUS v c) VAT_CTX_STATUS.ERR = 0 ∧ t.rd (.VAT_CTX_KEPT v c) = 0 ∧ t.rd (.VAT_CTX_RESUME v c) = 0 ∧
      (∀ k, k < 12 → t.rd (.VAT_CTX_RSLOT v c k) = 0) ∧
      (∀ j, j < 256 → ∀ h, h < 2 → t.rd (.VAT_CTX_GEN v c j h) = (genSeed 0 j).word h) ∧
      t.prio v c = VAT_CTX_CTRL.PRIO.get val ∧
      OnlyVat (fun o => offs [.VAT_CTX_CTRL v c, .VAT_CTX_STATUS v c, .VAT_CTX_RESUME v c, .VAT_CTX_KEPT v c] o ∨
        ((Reg.VAT_CTX_RSLOT v c 0).off ≤ o ∧ o < (Reg.VAT_CTX_RSLOT v c 12).off) ∨
        ((Reg.VAT_CTX_GEN v c 0 0).off ≤ o ∧ o < (Reg.VAT_CTX_GEN v (c + 1) 0 0).off)) v
        { s.afterWrite m (.VAT_CTX_CTRL v c) with claims := s.claims.filter fun x => x.holder ≠ .insn v c } t

/-- A PAUSE alone that is taken marks the request of a running context and stops a READY or WAIT one at once; at its
boundary the running context, with no abort waiting, stops: PAUSED, the request clear, PC unmoved; RESUME makes a
PAUSED context READY. Claims of a waiting instruction of the context go with a pause; nothing else of the block
changes. (R158, R159, R163, R85) -/
def Obligations.CtxPauseResumeRun : Prop :=
  (∀ (s : State) (m : Master) (v : VatId) (c : CtxId) (val : W64),
    Writes s m (.VAT_CTX_CTRL v c) (withBit VAT_CTX_CTRL.PAUSE val true) →
    VAT_CTX_CTRL.START.get val = 0 → VAT_CTX_CTRL.RESUME.get val = 0 → VAT_CTX_CTRL.ABORT.get val = 0 →
    (s.vat v).abortWait.contains c = false → (s.vat v).aborts.contains c = false →
    (s.cst v c = csRun → ∃ t, exec (.ctxPause m v c val) s = .next t ∧
      t.get (.VAT_CTX_CTRL v c) VAT_CTX_CTRL.PAUSE = 1 ∧
      OnlyRegs (offs [.VAT_CTX_CTRL v c]) (s.afterWrite m (.VAT_CTX_CTRL v c)) t) ∧
    (s.cst v c = csReady ∨ s.cst v c = csWait → ∃ t, exec (.ctxPause m v c val) s = .next t ∧
      t.cst v c = csPaused ∧ t.get (.VAT_CTX_CTRL v c) VAT_CTX_CTRL.PAUSE = 0 ∧ t.pc v c = s.pc v c ∧
      OnlyVat (offs [.VAT_CTX_CTRL v c, .VAT_CTX_STATUS v c, .VAT_STATUS v]) v
        { s.afterWrite m (.VAT_CTX_CTRL v c) with claims := s.claims.filter fun x => x.holder ≠ .insn v c } t)) ∧
  (∀ (s : State) (v : VatId) (c : CtxId), s.get (.VAT_CTX_CTRL v c) VAT_CTX_CTRL.PAUSE = 1 → s.cst v c = csRun →
    (s.vat v).aborts.contains c = false → ∃ t, exec (.ctxPauseEffect v c) s = .next t ∧ t.cst v c = csPaused ∧
      t.get (.VAT_CTX_CTRL v c) VAT_CTX_CTRL.PAUSE = 0 ∧ t.pc v c = s.pc v c ∧
      (s.get (.VAT_STATUS v) VAT_STATUS.CTX = c → t.get (.VAT_STATUS v) VAT_STATUS.CTX_VALID = 0) ∧
      OnlyVat (offs [.VAT_CTX_CTRL v c, .VAT_CTX_STATUS v c, .VAT_STATUS v]) v
        { s with claims := s.claims.filter fun x => x.holder ≠ .insn v c } t) ∧
  (∀ (s : State) (m : Master) (v : VatId) (c : CtxId) (val : W64),
    Writes s m (.VAT_CTX_CTRL v c) (withBit VAT_CTX_CTRL.RESUME val true) →
    VAT_CTX_CTRL.START.get val = 0 → VAT_CTX_CTRL.ABORT.get val = 0 → VAT_CTX_CTRL.PAUSE.get val = 0 →
    s.cst v c = csPaused → ∃ t, exec (.ctxResume m v c val) s = .next t ∧ t.cst v c = csReady ∧ t.pc v c = s.pc v c ∧
      OnlyRegs (offs [.VAT_CTX_CTRL v c, .VAT_CTX_STATUS v c]) (s.afterWrite m (.VAT_CTX_CTRL v c)) t)

/-- An ABORT alone that is taken waits for the boundary of a running context and stops any other at once: HALTED with
code 0xFFFF, or, with batches outstanding, WAIT on 2 until they end, no instruction left part-done; VAT_ZEROING_DONE
leaves every context EMPTY, the program buffer zero and the Vat idle. (R158, R159, R143, R157, R102) -/
def Obligations.CtxAbortRuns : Prop :=
  let ends := fun (s t : State) (v : VatId) (c : CtxId) =>
    t.rd (.VAT_CTX_RESUME v c) = 0 ∧ (∀ k, k < 12 → t.rd (.VAT_CTX_RSLOT v c k) = 0) ∧
    (s.outstanding v c = false → t.cst v c = csHalted ∧
      t.get (.VAT_CTX_STATUS v c) VAT_CTX_STATUS.HALT_CODE = 0xFFFF) ∧
    (s.outstanding v c = true → t.cst v c = csWait ∧ t.get (.VAT_CTX_STATUS v c) VAT_CTX_STATUS.WAIT_ON = 2 ∧
      (t.vat v).abortWait.contains c = true) ∧
    OnlyVat (fun o => offs [.VAT_CTX_CTRL v c, .VAT_CTX_STATUS v c, .VAT_CTX_RESUME v c, .VAT_STATUS v] o ∨
      ((Reg.VAT_CTX_RSLOT v c 0).off ≤ o ∧ o < (Reg.VAT_CTX_RSLOT v c 12).off)) v
      { s with claims := s.claims.filter fun x => x.holder ≠ .insn v c } t
  (∀ (s : State) (m : Master) (v : VatId) (c : CtxId) (val : W64),
    Writes s m (.VAT_CTX_CTRL v c) (withBit VAT_CTX_CTRL.ABORT val true) →
    VAT_CTX_CTRL.START.get val = 0 → VAT_CTX_CTRL.RESUME.get val = 0 → VAT_CTX_CTRL.PAUSE.get val = 0 →
    (s.cst v c = csRun → ∃ t, exec (.ctxAbort m v c val) s = .next t ∧ (t.vat v).aborts.contains c = true ∧
      t.get (.VAT_CTX_CTRL v c) VAT_CTX_CTRL.PAUSE = 0 ∧
      OnlyVat (offs [.VAT_CTX_CTRL v c]) v (s.afterWrite m (.VAT_CTX_CTRL v c)) t) ∧
    (s.cst v c = csReady ∨ s.cst v c = csWait ∨ s.cst v c = csPaused →
      ∃ t, exec (.ctxAbort m v c val) s = .next t ∧ ends (s.afterWrite m (.VAT_CTX_CTRL v c)) t v c)) ∧
  (∀ (s : State) (v : VatId) (c : CtxId), (s.vat v).aborts.contains c = true → s.cst v c = csRun →
    ∃ t, exec (.ctxAbortEffect v c) s = .next t ∧ ends s t v c) ∧
  (∀ (s : State) (v : VatId), (s.vat v).zeroing = true → ∃ t, exec (.vatZeroingDone v) s = .next t ∧
    (∀ c, c < 4 → t.rd (.VAT_CTX_STATUS v c) = 0 ∧ t.rd (.VAT_CTX_RESUME v c) = 0 ∧ t.rd (.VAT_CTX_KEPT v c) = 0) ∧
    (∀ a, a < 16384 → t.word v a = 0) ∧ t.vst v = vsIdle ∧ (t.vat v).zeroing = false ∧
    t = { s with regs := t.regs, live := t.live, vats := t.vats, prog := t.prog } ∧ (∀ u, u ≠ v.val → t.vat u = s.vat u) ∧
    (∀ u a, u < 16 → a < 16384 → u ≠ v.val → t.word u a = s.word u a) ∧
    RegsKept (fun o => (Reg.VAT_GEOM v).off ≤ o ∧ o < (Reg.VAT_GEOM (v + 1)).off) s t)

/-- In a semaphore cycle the one waiting SEMW whose threshold is reached takes its count and goes on, RUN in a STRICT
partition and READY in others, and with nothing waiting a stream whose start condition holds takes WVAL; a remote post
that arrives sets or adds its value; a register write sets a pair or an arrival counter. Nothing else changes. (R260,
R140, R251, R117, R142, R141, R265) -/
def Obligations.SemaphoresRun : Prop :=
  (∀ (s : State) (v : VatId) (c : CtxId) (w : Nat), s.cst v c = csWait →
    s.get (.VAT_CTX_STATUS v c) VAT_CTX_STATUS.WAIT_ON = 1 → s.fetch v c = some w → hOpc w = opSemw →
    semOk (semwKind w) (semwIdx w) = true → semwVal w ≤ s.sem v (semwKind w) (semwIdx w) →
    (∀ d, d < 4 → d ≠ c.val → s.cst v d ≠ csWait) → (∀ i, i < 64 → (s.stream v i).head = none) →
    ∃ t, exec (.semaphoreCycle v) s = .next t ∧ t.cst v c = (if s.strict v then csRun else csReady) ∧
      t.pc v c = (s.pc v c + 1) % 16384 ∧
      t.sem v (semwKind w) (semwIdx w) =
        (if semwTake w then s.sem v (semwKind w) (semwIdx w) - semwVal w else s.sem v (semwKind w) (semwIdx w)) ∧
      (s.strict v = false → t.claims = s.claims) ∧ (∀ x, x ∈ t.claims → x ∈ s.claims) ∧
      OnlyVat (offs [.VAT_CTX_STATUS v c, .VAT_STATUS v, semReg v (semwKind w) (semwIdx w)]) v
        { s with claims := t.claims } t) ∧
  (∀ (s : State) (v : VatId) (i : StreamId) (d : Desc), (∀ c, c < 4 → s.cst v c ≠ csWait) →
    (∀ j, j < 64 → j ≠ i.val → (s.stream v j).head = none) → (s.stream v i).head = some d →
    (s.stream v i).stopped = false → d.taken = false → orderOk (s.stream v i) d = true →
    dWkind d.bytes ≠ 0 → semOk (dWkind d.bytes - 1) (dWidx d.bytes) = true →
    dWval d.bytes ≤ s.sem v (dWkind d.bytes - 1) (dWidx d.bytes) →
    ∃ t, exec (.semaphoreCycle v) s = .next t ∧
      t.sem v (dWkind d.bytes - 1) (dWidx d.bytes) = s.sem v (dWkind d.bytes - 1) (dWidx d.bytes) - dWval d.bytes ∧
      (∀ u j, t.stream u j = (s.setDesc v i { d with taken := true }).stream u j) ∧
      OnlyRegs (offs [semReg v (dWkind d.bytes - 1) (dWidx d.bytes)]) { s with streams := t.streams } t) ∧
  (∀ (s : State) (n k kind i val stop w : Nat) (set : Bool) (p : DPkt), s.copyAt n = some (k, p, stop) →
    s.dnetFirst k p stop = true → p.load = .post kind i val set → semOk kind i = true → i < 256 → 6 ≤ stop → stop < 24 →
    s.domOn (.periphery (stop - 6)) = true → s.logical (stop - 6) = some w →
    p.src < 6 ∨ 24 ≤ p.src ∨ s.part w = p.part → (if set then val else s.sem w kind i + val) < 2 ^ 32 →
    ∃ t, exec (.remotePost n) s = .next t ∧
      t.sem w kind i = (if set then val else s.sem w kind i + val) ∧ t.dnet = (s.dnetTake k p stop).dnet ∧
      OnlyInstr (offs [semReg w kind i]) { s with dnet := t.dnet } t) ∧
  (∀ (s : State) (m : Master) (v : VatId) (e : Bool) (i : Fin 64) (val : W64),
    Writes s m (semReg v (if e then 1 else 0) i) val → ∃ t, exec (.semWrite m v e i val) s = .next t ∧
      t.sem v (if e then 1 else 0) i = val.toNat % 2 ^ 32 ∧
      OnlyRegs (offs [semReg v (if e then 1 else 0) i]) (s.afterWrite m (semReg v (if e then 1 else 0) i)) t) ∧
  (∀ (s : State) (m : Master) (v : VatId) (i : Fin 256) (val : W64), Writes s m (.VAT_ARRIVAL v i) val →
    ∃ t, exec (.arrivalWrite m v i val) s = .next t ∧ t.sem v 2 i = val.toNat % 2 ^ 32 ∧
      OnlyRegs (offs [.VAT_ARRIVAL v i]) (s.afterWrite m (.VAT_ARRIVAL v i)) t)

/-- A good batch header gives its batch COUNT, DESC, NEXT and IRQ and the first burst of descriptors; the next
descriptor fetched that passes its check stands at the head; a head descriptor that has none, or has its count after
the Vat's semaphore cycle, takes its claims and starts, the eighth of a burst bringing the next burst. Nothing else
changes. (R242, R250, R642, R248, R251, R255, R209) -/
def Obligations.WagonStarts : Prop :=
  (∀ (s : State) (v : VatId) (i : StreamId) (b : Batch) (q : List Batch), (s.stream v i).queue = b :: q →
    b.fetched = false → (s.stream v i).stopped = false → s.poisoned b.hdr 64 = false →
    s.headerErr v (s.bytes b.hdr 64) = 0 → ∃ t, exec (.batchHeaderFetch v i) s = .next t ∧
      (∃ held, t.stream v i = { s.stream v i with nextIdx := 0, queue := { b with
          fetched := true, count := fieldN (s.bytes b.hdr 64) 4 2, desc := fieldN (s.bytes b.hdr 64) 8 8,
          next := fieldN (s.bytes b.hdr 64) 16 8, irq := fieldN (s.bytes b.hdr 64) 6 1 = 1, held := held } :: q } ∧
        held.length = min 16 (fieldN (s.bytes b.hdr 64) 4 2) ∧
        ∀ k, k < held.length → held[k]? = some (s.bytes (fieldN (s.bytes b.hdr 64) 8 8 + 64 * k) 64,
          s.poisoned (fieldN (s.bytes b.hdr 64) 8 8 + 64 * k) 64)) ∧
      (∀ u j, j < 64 → (u ≠ v.val ∨ j ≠ i.val) → t.stream u j = s.stream u j) ∧ t = { s with streams := t.streams }) ∧
  (∀ (s : State) (v : VatId) (i : StreamId) (b : Batch) (q : List Batch) (bs : List Byte) (held : List (List Byte × Bool)),
    (s.stream v i).queue = b :: q → b.held = (bs, false) :: held → b.fetched = true →
    (s.stream v i).stopped = false → (s.stream v i).nextIdx ≠ b.count → (s.stream v i).head = none → s.descErr v bs = 0 →
    ∃ t, exec (.descriptorHead v i) s = .next t ∧
      t.stream v i = { s.stream v i with
        nextIdx := (s.stream v i).nextIdx + 1
        descs := (s.stream v i).descs ++ [{ idx := (s.stream v i).nextIdx, bytes := bs }]
        queue := { b with held := held } :: q } ∧
      (∀ u j, j < 64 → (u ≠ v.val ∨ j ≠ i.val) → t.stream u j = s.stream u j) ∧ t = { s with streams := t.streams }) ∧
  (∀ (s : State) (v : VatId) (i : StreamId) (d : Desc), (s.vat v).killed = false →
    let u := s.semCycle v
    (u.stream v i).head = some d → (u.stream v i).stopped = false → orderOk (u.stream v i) d = true →
    (dKind d.bytes = dkProg → u.progFree v d.bytes = true) → u.claimsErr v (u.descBanks v d.bytes) = 0 →
    (d.taken = true ∨ dWkind d.bytes = 0) →
    ∃ t, exec (.descriptorStart v i) s = .next t ∧
      t.claims = u.claims ++ (u.descBanks v d.bytes).map (fun b =>
        { v := v, bank := b, port := portWagon, holder := .desc v i d.idx }) ∧
      (∀ w j, j < 64 → (w ≠ v.val ∨ j ≠ i.val) → t.stream w j = u.stream w j) ∧
      (t.stream v i).descs = ((u.setDesc v i { d with taken := true, started := true }).stream v i).descs ∧
      (∀ b q, (u.stream v i).queue = b :: q → (t.stream v i).queue =
        { b with held := b.held ++ if d.idx % 16 = 7 then u.burst b (d.idx + 9) else [] } :: q) ∧
      t.stream v i = { u.stream v i with descs := (t.stream v i).descs, queue := (t.stream v i).queue } ∧
      t = { u with claims := t.claims, streams := t.streams })

/-- A grant whose stream's ready descriptor is a COPY within module memory, its last piece in one granule at each end,
takes a tag for the piece and sends its read to the stack; the stack answers a read with its bytes and their poison,
and a write, once its bytes stand in memory and no others have changed, with its completion; read bytes go out again
as the piece's write under the same tag; a completion that names no error frees the tag. The stream holds the deadline
of the grant. (R257, R258, R245, R246, R263, R264, R265, R266, R19, R20, R267) -/
def Obligations.ChunkGrantCopies : Prop :=
  (∀ (s : State) (v : VatId) (i : Nat) (d : Desc) (a x n : Nat) (p : DPkt), (s.vat v).killed = false →
    s.grantee v = some i → s.readyDesc v i = some d →
    (s.stream v i).descs.find? (fun e => e.idx = d.idx && e.err = 0) = some d →
    dKind d.bytes = dkCopy → d.moved + 1 = dPieces d.bytes → dSources d.bytes d.moved = [(a, n)] →
    dDest d.bytes d.moved = some (x, n) → s.place (s.part v) a n = .hbm → s.place (s.part v) x n = .hbm → 0 < n →
    a % 2048 + n ≤ 2048 → x % 2048 + n ≤ 2048 → s.pieceUses (some (v.val, i, d.idx)) d.moved = [] →
    p = { src := s.stopOf v, part := s.part v, dest := .stop (hbmStop a), load := .read a n
          owner := some (v.val, i, d.idx), tag := some s.newTag } →
    ∃ t, exec (.chunkGrant v) s = .next t ∧ t.dnet = s.dnet ++ [p] ∧
      t.tags = s.tags ++ [{ id := s.newTag, owner := some (v.val, i, d.idx), req := .dnet p, piece := d.moved, left := [hbmStop a] }] ∧
      t.stream v i = { s.stream v i with
        deadline := s.deadline v i
        descs := (s.stream v i).descs.map fun e => if e.idx = d.idx then { d with moved := d.moved + 1 } else e } ∧
      OnlyInstr (fun _ => False)
        { s with streams := t.streams, tags := t.tags, dnet := t.dnet, tagWait := t.tagWait, tagTurn := v } t) ∧
  (∀ (s : State) (n k a m stop : Nat) (p : DPkt), s.copyAt n = some (k, p, stop) → s.dnetFirst k p stop = true →
    p.load = .read a m → stop < 6 → s.domOn (.hbmCtl stop) = true →
    ∃ t, exec (.dnetPacketArrival n .none) s = .next t ∧
      t.dnet = (s.dnetTake k p stop).dnet ++
        [{ p with src := stop, part := 0, dest := .stop p.src, load := .got (s.bytes a m) (s.poisoned a m) }] ∧
      OnlyInstr (fun _ => False) { s with dnet := t.dnet } t) ∧
  (∀ (s : State) (n k a stop : Nat) (data : List Byte) (p : DPkt), s.copyAt n = some (k, p, stop) →
    s.dnetFirst k p stop = true → p.load = .bytes a data → stop < 6 → s.domOn (.hbmCtl stop) = true →
    ∃ t, exec (.dnetPacketArrival n .none) s = .next t ∧ t.bytes a data.length = data ∧ BytesKept a data.length s t ∧
      t.poisoned a data.length = false ∧
      t.dnet = (s.dnetTake k p stop).dnet ++ [{ p with src := stop, part := 0, dest := .stop p.src, load := .done eOk }] ∧
      OnlyInstr (fun _ => False) { s with mem := t.mem, poison := t.poison, dnet := t.dnet } t) ∧
  (∀ (s : State) (n k stop w i idx a m x r : Nat) (v : VatId) (p q u : DPkt) (tg : TagUse) (d : Desc) (data : List Byte),
    s.copyAt n = some (k, p, stop) → s.dnetFirst k p stop = true → p.load = .got data false → 6 ≤ stop → stop < 24 →
    s.domOn (.periphery (stop - 6)) = true → s.logical (stop - 6) = some w →
    (physOfStop p.src = none ∨ s.part w = p.part) → s.dnetTag p = some tg → tg.owner = some (v.val, i, idx) →
    tg.req = .dnet q → q.load = .read a m → s.ownerDesc tg.owner = some d → d.err = 0 → d.idx = idx →
    s.pieceUses tg.owner tg.piece = [tg] → (∀ y ∈ s.tags, y.id = tg.id → y = tg) → dKind d.bytes = dkCopy →
    dDest d.bytes tg.piece = some (x, r) → data.length = r → s.place (s.part v) x r = .hbm → 0 < r → x % 2048 + r ≤ 2048 →
    u = { src := s.stopOf v, part := s.part v, dest := .stop (hbmStop x), load := .bytes x data
          owner := tg.owner, tag := some tg.id, seq := tg.seq } →
    ∃ t, exec (.dnetPacketArrival n .none) s = .next t ∧ t.dnet = (s.dnetTake k p stop).dnet ++ [u] ∧
      t.tags = s.tags.map (fun y => if y.id = tg.id then { tg with req := .dnet u, left := [hbmStop x] } else y) ∧
      OnlyInstr (fun _ => False) { s with tags := t.tags, dnet := t.dnet } t) ∧
  (∀ (s : State) (n k stop w : Nat) (p : DPkt) (tg : TagUse), s.copyAt n = some (k, p, stop) →
    s.dnetFirst k p stop = true → p.load = .done eOk → 6 ≤ stop → stop < 24 → s.domOn (.periphery (stop - 6)) = true →
    s.logical (stop - 6) = some w → (physOfStop p.src = none ∨ s.part w = p.part) → s.dnetTag p = some tg →
    tg.left = [p.src] → (∀ u, (s.vat u).killed = false) →
    ∃ t, exec (.dnetPacketArrival n .none) s = .next t ∧ t.dnet = (s.dnetTake k p stop).dnet ∧
      t.tags = s.tags.filter (fun y => y.id ≠ tg.id) ∧ t.getRetry = s.getRetry.filter (fun y => y ≠ tg.id) ∧
      OnlyInstr (fun _ => False) { s with tags := t.tags, dnet := t.dnet, getRetry := t.getRetry } t)

/-- A completed descriptor alone in its stream leaves it, posts to its local semaphore or sends its post, and releases
its claims; where it is its batch's last, the batch's record says done at the local time, and the chained header, or
the next batch, is next. (R252, R254, R242, R141) -/
def Obligations.DescriptorsComplete : Prop :=
  ∀ (s : State) (v : VatId) (i : StreamId) (d : Desc) (b : Batch) (q : List Batch), (s.stream v i).descs = [d] →
    d.started = true → d.complete = false → d.err = 0 → d.moved = dPieces d.bytes →
    (∀ x ∈ s.tags, x.owner ≠ some (v.val, i.val, d.idx)) → dIrq d.bytes = false →
    (s.stream v i).queue = b :: q → b.fetched = true → b.irq = false → (s.stream v i).stopped = false →
    (∀ c, c < 4 → s.cst v c ≠ csWait) →
    (dPkind d.bytes = 0 ∨ dPtgt d.bytes / 16 % 2 = 1 ∨ ((dPkind d.bytes = 1 ∨ dPkind d.bytes = 2) ∧ dPidx d.bytes < 64 ∧
      s.sem v (dPkind d.bytes - 1) (dPidx d.bytes) + dPval d.bytes < 2 ^ 32)) →
    ∃ t, exec (.descriptorComplete v i) s = .next t ∧
      t.claims = s.claims.filter (fun c => c.holder ≠ .desc v i d.idx) ∧
      (dPkind d.bytes ≠ 0 → dPtgt d.bytes / 16 % 2 = 0 → t.sem v (dPkind d.bytes - 1) (dPidx d.bytes) =
        s.sem v (dPkind d.bytes - 1) (dPidx d.bytes) + dPval d.bytes) ∧
      (dPkind d.bytes = 0 ∨ dPtgt d.bytes / 16 % 2 = 0 → t.dnet = s.dnet) ∧
      (dPkind d.bytes ≠ 0 → dPtgt d.bytes / 16 % 2 = 1 → t.dnet = s.dnet ++
        [{ src := s.stopOf v, part := s.part v, dest := .stop (s.stopOf (dPtgt d.bytes % 16))
           load := .post (dPkind d.bytes - 1) (dPidx d.bytes) (dPval d.bytes) false }]) ∧
      ((s.stream v i).nextIdx ≠ b.count → t.stream v i = { s.stream v i with descs := [] } ∧ t.mem = s.mem) ∧
      ((s.stream v i).nextIdx = b.count →
        t.stream v i = { s.stream v i with
          descs := [], nextIdx := 0, queue := if b.next = 0 then q else { hdr := b.next, ctx := b.ctx } :: q } ∧
        t.bytes (b.hdr + 48) 16 = leBytes 1 1 ++ leBytes 1 0 ++ leBytes 2 0 ++ leBytes 4 0 ++ leBytes 8 s.now.toNat ∧
        BytesKept (b.hdr + 48) 16 s t) ∧
      (∀ u j, j < 64 → (u ≠ v.val ∨ j ≠ i.val) → t.stream u j = s.stream u j) ∧
      OnlyRegs (offs [semReg v (dPkind d.bytes - 1) (dPidx d.bytes)])
        { s with claims := t.claims, streams := t.streams, mem := t.mem, poison := t.poison, dnet := t.dnet } t

/-- RESET discards a stopped stream's batches, descriptors and claims; a late stream wait counts in LATE; in a STRICT
partition a wait whose condition still fails raises DEADLINE_MISS, with context, stream, time and deadline recorded;
the first expiry of a die-network tag sends its packet again to the stops that have not answered, the sequence bit
inverted. (R253, R262, R263, R265, R156, R264) -/
def Obligations.StreamsResetAndLate : Prop :=
  (∀ (s : State) (m : Master) (v : VatId) (i : StreamId) (val : W64),
    Writes s m (.WAGON_STREAM_CFG v i) (withBit WAGON_STREAM_CFG.RESET val true) → (s.stream v i).stopped = true →
    (∀ c, c < 4 → s.cst v c ≠ csWait) →
    ∃ t, exec (.streamReset m v i val) s = .next t ∧ t.stream v i = { deadline := (s.stream v i).deadline } ∧
      (∀ k, k < (s.stream v i).nextIdx → ∀ c ∈ t.claims, c.holder ≠ .desc v i k) ∧
      t.tags.length = s.tags.length ∧ t.dnet.length = s.dnet.length ∧
      (∀ u j, j < 64 → (u ≠ v.val ∨ j ≠ i.val) → t.stream u j = s.stream u j) ∧
      OnlyRegs (offs [.WAGON_STREAM_CFG v i])
        { s.afterWrite m (.WAGON_STREAM_CFG v i) with streams := t.streams, claims := t.claims, tags := t.tags, dnet := t.dnet } t) ∧
  (∀ (s : State) (v : VatId) (c : CtxId) (i : Nat), s.waitStream v c = some i → s.strict v = false →
    ∃ t, exec (.streamWaitLate v c) s = .next t ∧
      t.get (.WAGON_STREAM_STAT v i) WAGON_STREAM_STAT.LATE =
        min WAGON_STREAM_STAT.LATE.max (s.get (.WAGON_STREAM_STAT v i) WAGON_STREAM_STAT.LATE + 1) ∧
      OnlyRegs (offs [.WAGON_STREAM_STAT v i]) s t) ∧
  (∀ (s : State) (v : VatId) (c : CtxId) (i : Nat), s.strict v = true → (s.waitStream v c).isSome = true →
    (s.semCycle v).waitStream v c = some i → LogFree (s.semCycle v) →
    ∃ t, exec (.deadlineMiss v c) s = .next t ∧ Raised (s.semCycle v) t v c eDeadlineMiss ∧
      t.get (.WAGON_MISS_INFO v) WAGON_MISS_INFO.CTX = c ∧ t.get (.WAGON_MISS_INFO v) WAGON_MISS_INFO.STREAM = i ∧
      t.get (.WAGON_MISS_INFO v) WAGON_MISS_INFO.VALID = 1 ∧ t.rd (.WAGON_MISS_TIME v) = (s.semCycle v).now ∧
      t.rd (.WAGON_MISS_DEADLINE v) = BitVec.ofNat 64 (s.stream v i).deadline) ∧
  (∀ (s : State) (n : Nat) (x : TagUse) (p : DPkt), s.tags[n]? = some x → x.again = false → x.req = .dnet p →
    (∀ o, x.owner = some o → (s.vat o.1).killed = false) →
    ∃ dest, (∀ m, p.dest = .stop m → dest = .stop m) ∧
      (∀ m, p.dest = .mask m → ∃ m', dest = .mask m' ∧ ∀ q, q < 18 → m'.getLsbD q = x.left.contains (stopOfPhys q)) ∧
      exec (.tagTimeout n) s = .next { s with
        dnet := s.dnet ++ [{ p with dest := dest, seq := !x.seq }]
        tags := s.tags.map fun y => if y.id = x.id then
          { x with again := true, seq := !x.seq, req := .dnet { p with dest := dest, seq := !x.seq } } else y })

/-- A row that reaches a Cellar whose banks its descriptor may claim stands in that row, all 512 bytes; the last row
for another Vat's Cellar is answered with the completion, its claims there released, and any other row frees its tag.
A header that cannot be trusted is dropped and logged. Nothing outside the row's bytes changes in memory. (R16, R20,
R22, R28, R252, R255, R202, R514) -/
def Obligations.DnetArrives : Prop :=
  (∀ (s : State) (n k r stop w v i idx : Nat) (p : DPkt) (d : Desc) (data : List Byte), s.copyAt n = some (k, p, stop) →
    s.dnetFirst k p stop = true → p.load = .row r data → 6 ≤ stop → stop < 24 → s.domOn (.periphery (stop - 6)) = true →
    s.logical (stop - 6) = some w → s.part w = p.part → p.owner = some (v, i, idx) → s.ownerDesc p.owner = some d →
    d.refused.contains w = false → r < rowsPerCellar → data.length = 512 → s.gs w (bankOf r / 32) ≠ gsOff →
    (∀ c ∈ s.claimsOn w (bankOf r), c.holder ≠ p.holder) →
    (∀ b ∈ s.destBanks v w d.bytes, s.arriveErr w b portWagon portMould = 0) → (∀ u, (s.vat u).killed = false) →
    ∃ t, exec (.dnetPacketArrival n .none) s = .next t ∧ t.row w r = data ∧
      t.poisoned (rowAddr w r) 512 = false ∧ BytesKept (rowAddr w r) 512 s t ∧
      (s.moreRows p w = false → v ≠ w → t.tags = s.tags ∧
        t.dnet = (s.dnetTake k p stop).dnet ++
          [{ p with src := s.stopOf w, part := s.part w, dest := .stop p.src, load := .done eOk }] ∧
        ∀ c ∈ t.claims, c.v = w → c.holder ≠ p.holder) ∧
      (s.moreRows p w = true ∨ v = w → t.dnet = (s.dnetTake k p stop).dnet ∧
        ∀ tg, s.dnetTag p = some tg → tg.left = [s.stopOf w] → t.tags = s.tags.filter fun x => x.id ≠ tg.id) ∧
      OnlyInstr (fun _ => False) { s with
        dnet := t.dnet, mem := t.mem, poison := t.poison, dirty := t.dirty, claims := t.claims, tags := t.tags
        getRetry := t.getRetry } t) ∧
  (∀ (s : State) (n k stop : Nat) (p : DPkt), s.copyAt n = some (k, p, stop) → s.dnetFirst k p stop = true → LogFree s →
    ∃ t, exec (.dnetPacketArrival n .header) s = .next t ∧ t.dnet = (s.dnetTake k p stop).dnet ∧ t.mem = s.mem ∧
      t.gets = s.gets.filter (fun g => p.get ≠ some g.id) ∧
      Logged s t eUncorrectable clsDnet ((physOfStop stop).getD stop))

/-- PWR set on an OFF group of a Vat that is there wakes it, every row zero and DIRTY; clock start brings a WAKING
group ON and starts its scrub; PWR cleared on an ON group makes it CLOSING; a CLOSING group whose tags are in, or that
is late, goes OFF, its contents gone and its windows closed. No other row and no other group changes. (R224, R225,
R227, R228, R229, R230, R235, R236, R424) -/
def Obligations.GroupPowerRuns : Prop :=
  let lo := fun (v : VatId) (g : Fin 4) => rowAddr v (32768 * g)
  let rest := fun (s t : State) (v : VatId) (g : Fin 4) =>
    (∀ a, a < rowAddr v (32768 * g) ∨ rowAddr v (32768 * (g + 1)) ≤ a → t.byte a = s.byte a) ∧
    (∀ u b : Nat, b < 132 → (u ≠ v.val ∨ b / 32 ≠ g.val) → t.dirtyOf u b = s.dirtyOf u b)
  ∀ (s : State) (v : VatId) (g : Fin 4),
    (s.valid v = false → exec (.groupPowerOn v g) s = .next s ∧ exec (.groupPowerOff v g) s = .next s) ∧
    (s.valid v = true → s.gs v g = gsOff → ∃ t, exec (.groupPowerOn v g) s = .next t ∧ t.gs v g = gsWaking ∧
      t.get (.CELLAR_GROUP_CTRL v) (pwrFld g) = 1 ∧
      (∀ r, r < rowsPerCellar → bankOf r / 32 = g → t.rowDirty v r = true) ∧
      (∀ a, lo v g ≤ a → a < rowAddr v (32768 * (g + 1)) → t.byte a = 0) ∧ rest s t v g ∧
      OnlyRegs (offs [.CELLAR_GROUP_CTRL v, .CELLAR_STATUS v]) { s with mem := t.mem, poison := t.poison, dirty := t.dirty } t) ∧
    (s.valid v = true → s.gs v g = gsOn → ∃ t, exec (.groupPowerOff v g) s = .next t ∧ t.gs v g = gsClosing ∧
      t.get (.CELLAR_GROUP_CTRL v) (pwrFld g) = 0 ∧
      OnlyRegs (offs [.CELLAR_GROUP_CTRL v, .CELLAR_STATUS v]) s t) ∧
    (s.gs v g = gsWaking → ∃ t, exec (.groupClockStart v g) s = .next t ∧
      t.gs v g = (if s.get (.CELLAR_GROUP_CTRL v) (pwrFld g) = 1 then gsOn else gsClosing) ∧
      t.get (.CELLAR_STATUS v) CELLAR_STATUS.SCRUB_BUSY = 1 ∧
      (∀ r, r < rowsPerCellar → bankOf r / 32 = g → t.rowDirty v r = true) ∧ rest s t v g ∧
      OnlyRegs (offs [.CELLAR_STATUS v]) { s with mem := t.mem, poison := t.poison, dirty := t.dirty } t) ∧
    (∀ late, s.gs v g = gsClosing → (late || !s.groupTags v g) = true →
      s.get (.CELLAR_GROUP_CTRL v) (pwrFld g) = 0 → (∀ i, i < 4 → s.get (.CELLAR_BANK_MAP v) (bmCopying i) = 0) →
      ∃ t, exec (.groupCloseDone v g late) s = .next t ∧ t.gs v g = gsOff ∧
        (∀ a, lo v g ≤ a → a < rowAddr v (32768 * (g + 1)) → t.byte a = 0) ∧
        (∀ w, w < 256 → s.windowIn v w g = true → t.get (.THR_WIN_A v w) THR_WIN_A.STATE = 0) ∧ rest s t v g ∧
        OnlyRegs (fun o => o = (Reg.CELLAR_STATUS v).off ∨ ∃ w, w < 256 ∧ o = (Reg.THR_WIN_A v w).off)
          { s with mem := t.mem, poison := t.poison, dirty := t.dirty, claims := t.claims } t)

/-- The background scrub of a live row counts what it finds, marks a lastingly bad row poisoned and starts a bank's
copy to the lowest free spare when an error comes back; the DIRTY scrub's end leaves no DIRTY row in a powered group
or a spare bank; a copy's end puts the spare in the bank's place. Nothing else changes. (R204, R225, R231, R232, R224,
R239, R494) -/
def Obligations.ScrubsRun : Prop :=
  (∀ (s : State) (v : VatId) (r : BitVec 17), s.rowLive v r.toNat = true →
    exec (.backgroundScrub v r .clean) s = .next s ∧
    (∃ t, exec (.backgroundScrub v r .corrected) s = .next t ∧
      t.get (.CELLAR_ERR_STAT v) CELLAR_ERR_STAT.CORR =
        min CELLAR_ERR_STAT.CORR.max (s.get (.CELLAR_ERR_STAT v) CELLAR_ERR_STAT.CORR + 1) ∧
      t.get (.CELLAR_LAST_ERR v) CELLAR_LAST_ERR.ROW = r.toNat ∧
      OnlyRegs (offs [.CELLAR_ERR_STAT v, .CELLAR_LAST_ERR v]) s t) ∧
    (∃ t, exec (.backgroundScrub v r .rereadClean) s = .next t ∧
      t.get (.CELLAR_ERR_STAT v) CELLAR_ERR_STAT.REREAD_OK =
        min CELLAR_ERR_STAT.REREAD_OK.max (s.get (.CELLAR_ERR_STAT v) CELLAR_ERR_STAT.REREAD_OK + 1) ∧
      OnlyRegs (offs [.CELLAR_ERR_STAT v, .CELLAR_LAST_ERR v]) s t) ∧
    (∀ k, s.copyOf v (bankOf r.toNat) = none → s.spareOf v (bankOf r.toNat) = none → s.freeSpare v = some k → LogFree s →
      (∃ t, exec (.backgroundScrub v r .reappeared) s = .next t ∧
        t.get (.CELLAR_BANK_MAP v) (bmCopying k) = 1 ∧ t.get (.CELLAR_BANK_MAP v) (bmBank k) = bankOf r.toNat ∧
        t.mem = s.mem ∧ t.poison = s.poison ∧ Logged s t eOk clsBank (s.phys v)) ∧
      (∃ t, exec (.backgroundScrub v r .lasting) s = .next t ∧ t.poisoned (rowAddr v r.toNat) 512 = true ∧
        t.get (.CELLAR_ERR_STAT v) CELLAR_ERR_STAT.UNCORR =
          min CELLAR_ERR_STAT.UNCORR.max (s.get (.CELLAR_ERR_STAT v) CELLAR_ERR_STAT.UNCORR + 1) ∧
        t.get (.CELLAR_BANK_MAP v) (bmCopying k) = 1 ∧ t.get (.CELLAR_BANK_MAP v) (bmBank k) = bankOf r.toNat ∧
        t.mem = s.mem ∧ Logged s t eOk clsBank (s.phys v)))) ∧
  (∀ (s : State) (v : VatId), s.get (.CELLAR_STATUS v) CELLAR_STATUS.SCRUB_BUSY = 1 →
    ∃ t, exec (.dirtyScrubDone v) s = .next t ∧ t.get (.CELLAR_STATUS v) CELLAR_STATUS.SCRUB_BUSY = 0 ∧
      (∀ r, r < rowsPerCellar → s.gs v (bankOf r / 32) = gsOn ∨ s.gs v (bankOf r / 32) = gsClosing → t.rowDirty v r = false) ∧
      (∀ b, 128 ≤ b → b < 132 → t.dirtyOf v b = {}) ∧
      (∀ u b, b < 132 → u ≠ v.val → t.dirtyOf u b = s.dirtyOf u b) ∧
      OnlyInstr (offs [.CELLAR_STATUS v]) { s with dirty := t.dirty } t) ∧
  (∀ (s : State) (v : VatId) (i : Fin 4), s.get (.CELLAR_BANK_MAP v) (bmCopying i) = 1 →
    ∃ t, exec (.bankCopyDone v i) s = .next t ∧ t.get (.CELLAR_BANK_MAP v) (bmCopying i) = 0 ∧
      t.spareOf v (s.get (.CELLAR_BANK_MAP v) (bmBank i)) = some i.val ∧
      OnlyRegs (fun o => offs [.CELLAR_BANK_MAP v, .ERR_STATUS] o ∨ offsFrom (.ERR_ENTRY 0 0) (.ERR_ENTRY 1024 0) o) s t)

/-- ENABLE set or cleared starts a ring again with both indices 0 and FAULT clear; a doorbell interrupts Reeve and
shows its value in PROD, and within the ring moves the producer index, beyond it sets FAULT and is logged, at or
behind the consumer index does nothing more; the ring whose turn it is gives its entry: a NOP is taken, and an unknown
one is taken and logged. Nothing else changes. (R278, R279, R280, R281, R314, R315, R575) -/
def Obligations.RingsRun : Prop :=
  (∀ (s : State) (m : Master) (f : FuncId) (val : W64) (b : Bool),
    Lands s m (.REEVE_RING_CFG f) (withBit REEVE_RING_CFG.ENABLE val b) →
    s.get (.REEVE_RING_CFG f) REEVE_RING_CFG.ENABLE ≠ b.toNat →
    ∃ t, exec (if b then .ringEnable m f val else .ringDisable m f val) s = .next t ∧
      t.get (.REEVE_RING_CFG f) REEVE_RING_CFG.ENABLE = b.toNat ∧ t.ring f = {} ∧
      t.get (.REEVE_RING_PTR f) REEVE_RING_PTR.PROD = 0 ∧ t.get (.REEVE_RING_PTR f) REEVE_RING_PTR.CONS = 0 ∧
      t.get (.REEVE_RING_PTR f) REEVE_RING_PTR.FAULT = 0 ∧
      OnlyRegs (offs [.REEVE_RING_CFG f, .REEVE_RING_PTR f])
        { s.afterWrite m (.REEVE_RING_CFG f) (s.landCode (.REEVE_RING_CFG f)) with rings := t.rings } t) ∧
  (∀ (s : State) (f : FuncId) (val : W32), s.ringOn f = true → s.phase ≠ 7 →
    let ahead := (val.toNat + 2 ^ 32 - (s.ring f).cons) % 2 ^ 32
    (0 < ahead → ahead ≤ s.ringSizeOf f → ahead < 2 ^ 31 → ∃ t, exec (.doorbell f 0 4 val) s = .next t ∧
      t.ring f = { s.ring f with prod := val.toNat, bell := val.toNat } ∧
      t.get (.REEVE_RING_PTR f) REEVE_RING_PTR.PROD = val.toNat % 2 ^ 16 ∧ (∀ g, g ≠ f.val → t.ring g = s.ring g) ∧
      OnlyRegs (offs [.REEVE_RING_PTR f]) { s with rings := t.rings, sent := s.sent ++ [.reeveIrq clsHost f] } t) ∧
    (s.ringSizeOf f < ahead → ahead < 2 ^ 31 → LogFree s → ∃ t, exec (.doorbell f 0 4 val) s = .next t ∧
      t.get (.REEVE_RING_PTR f) REEVE_RING_PTR.FAULT = 1 ∧ t.ring f = { s.ring f with bell := val.toNat } ∧
      (∀ g, g ≠ f.val → t.ring g = s.ring g) ∧
      t.sent[s.sent.length]? = some (.reeveIrq clsHost f) ∧ Logged s t eQueueFull clsHost f) ∧
    ((ahead = 0 ∨ 2 ^ 31 ≤ ahead) → ∃ t, exec (.doorbell f 0 4 val) s = .next t ∧
      t.ring f = { s.ring f with bell := val.toNat } ∧
      t.get (.REEVE_RING_PTR f) REEVE_RING_PTR.PROD = val.toNat % 2 ^ 16 ∧ (∀ g, g ≠ f.val → t.ring g = s.ring g) ∧
      OnlyRegs (offs [.REEVE_RING_PTR f]) { s with rings := t.rings, sent := s.sent ++ [.reeveIrq clsHost f] } t)) ∧
  (∀ (s : State) (f : FuncId), s.ringNext = some f.val → ∃ b u, s.ringTake f = some (b, u)) ∧
  (∀ (s u : State) (f : FuncId) (b : List Byte), s.ringTake f = some (b, u) →
    b = s.hostBytes (s.get (.REEVE_RING_BASE f) REEVE_RING_BASE.BASE * 4096 + (s.ring f).cons % s.ringSizeOf f * 128) 128 ∧
    u.ring f = { s.ring f with cons := ((s.ring f).cons + 1) % 2 ^ 32 } ∧ (∀ g, g ≠ f.val → u.ring g = s.ring g) ∧
    u.ringTurn = f ∧ OnlyInstr (offs [.REEVE_RING_PTR f]) { s with rings := u.rings, ringTurn := u.ringTurn } u ∧
    (dfield b 0 1 = 0 → exec (.ringNop f) s = .next u) ∧
    (4 < dfield b 0 1 → LogFree u → ∃ t, exec (.ringEntrySkipped f) s = .next t ∧ t.rings = u.rings ∧
      Logged u t eIllegalOp clsReq f))

/-- A SUBMIT whose descriptor passes every check enters the table QUEUED in the entry the rule names, its status word
written as zero; one that fails a check is written once as FAILED with that check's code and enters nothing. No other
request and no other byte of host memory changes. (R282, R283, R284, R285, R286, R288) -/
def Obligations.SubmitRuns : Prop :=
  ∀ (s u : State) (f : FuncId) (b : List Byte), s.ringTake f = some (b, u) → dfield b 0 1 = 1 →
    let x : ReqX := { func := f, desc := b }
    x.statusAddr % 8 = 0 →
    (u.subErr x = eOk → x.prefix_ = false → x.sheaf = none →
      ∃ t, exec (.submit f) s = .next t ∧
        (t.req (u.freeEntry f x.tag)).st = qsQueued ∧ (t.req (u.freeEntry f x.tag)).used = true ∧
        (t.req (u.freeEntry f x.tag)).desc = b ∧ (t.req (u.freeEntry f x.tag)).func = f ∧
        (t.req (u.freeEntry f x.tag)).err = eOk ∧ (t.req (u.freeEntry f x.tag)).arrive = u.order ∧
        ReqsKept (u.freeEntry f x.tag) u t ∧ t.hostBytes x.statusAddr 8 = List.replicate 8 0 ∧
        HostKept x.statusAddr 8 u t ∧ t.order = u.order + 1 ∧
        OnlyInstr (fun _ => False) { u with host := t.host, reqs := t.reqs, order := t.order } t) ∧
    (u.subErr x ≠ eOk → x.notify = false → ∃ t, exec (.submit f) s = .next t ∧
      t.hostBytes x.statusAddr 8 = leBytes 8 (7 * 2 ^ 60 + u.subErr x * 2 ^ 52) ∧ HostKept x.statusAddr 8 u t ∧
      OnlyInstr (fun _ => False) { u with host := t.host } t)

/-- For a request in no pass: CANCEL ends it CANCELLED and answers with result 0; PAUSE leaves the wish, whose effect
makes it PAUSED and answers; RESUME of a PAUSED request brings back the state it was paused from and answers. Status
and completion words are written; no other request changes. (R281, R294, R295, R296, R297, R299, R288) -/
def Obligations.RequestCommandsRun : Prop :=
  let apart := fun (a b : Nat) => a + 8 ≤ b ∨ b + 8 ≤ a
  let kept := fun (a b : Nat) (s t : State) =>
    ∀ x, x < a ∨ a + 8 ≤ x → x < b ∨ b + 8 ≤ x → t.hostBytes x 1 = s.hostBytes x 1
  (∀ (s u : State) (f : FuncId) (b : List Byte) (i : Nat), s.ringTake f = some (b, u) →
    let cpl := dfield b 8 8
    cpl % 8 = 0 → u.findTag f (dfield b 4 4) = some i → Alone u i → apart cpl (u.req i).statusAddr →
    (dfield b 0 1 = 2 → (u.req i).st ≠ qsExporting → (u.req i).want = none → ∃ t, exec (.cancel f) s = .next t ∧
      (t.req i).st = qsCancelled ∧ (t.req i).err = eCancelled ∧ ReqsKept i u t ∧
      t.hostBytes cpl 8 = leBytes 8 (6 * 2 ^ 60 + u.now.toNat % 2 ^ 52) ∧
      t.hostBytes (u.req i).statusAddr 8 = leBytes 8 (6 * 2 ^ 60 + eCancelled * 2 ^ 52 +
        (u.req i).layer % 2 ^ 20 * 2 ^ 32 + (u.req i).tokens % 2 ^ 32) ∧
      kept cpl (u.req i).statusAddr u t ∧
      OnlyInstr (fun _ => False) { u with
        host := t.host, reqs := t.reqs, order := t.order, passes := t.passes, ops := t.ops, launches := t.launches } t) ∧
    (dfield b 0 1 = 3 → (u.req i).st ≤ qsTail → (u.req i).want = none → ∃ t, exec (.pause f) s = .next t ∧
      t.req i = { u.req i with want := some { cpl := some cpl } } ∧ ReqsKept i u t ∧ t = { u with reqs := t.reqs }) ∧
    (dfield b 0 1 = 4 → (u.req i).st = qsPaused → (u.req i).spill = none → ∃ t, exec (.resume f) s = .next t ∧
      (t.req i).st = (u.req i).from_ ∧ (t.req i).err = eOk ∧ ReqsKept i u t ∧
      t.hostBytes cpl 8 = leBytes 8 ((u.req i).from_ * 2 ^ 60 + u.now.toNat % 2 ^ 52) ∧
      kept cpl (u.req i).statusAddr u t ∧
      OnlyInstr (fun _ => False) { u with host := t.host, reqs := t.reqs } t)) ∧
  (∀ (s : State) (r : ReqId) (a : Nat), Alone s r → (s.req r).st ≤ qsTail → (s.req r).want = some { cpl := some a } →
    apart a (s.req r).statusAddr → ∃ t, exec (.pauseEffect r) s = .next t ∧
      t.req r = { s.req r with want := none, from_ := (s.req r).st, since := s.now.toNat, st := qsPaused, err := eOk,
                                 shown := (s.req r).layer } ∧
      ReqsKept r s t ∧ t.hostBytes a 8 = leBytes 8 (4 * 2 ^ 60 + s.now.toNat % 2 ^ 52) ∧
      kept a (s.req r).statusAddr s t ∧
      OnlyInstr (fun _ => False) { s with host := t.host, reqs := t.reqs } t)

/-- When the pause of a request in a running pass takes effect, the partition's Vats are saved with the pass, the
save's bytes stand in the save area where one has room, no other byte of memory changes, and every member is PAUSED.
(R296, R298, R299) -/
def Obligations.PassPausesAsUnit : Prop :=
  ∀ (s : State) (r : ReqId) (p : Pass), s.mayPause r = true → s.passOf r = some p → p.paused = false →
    ∃ t, exec (.pauseEffect r) s = .next t ∧ (∀ m ∈ p.members, (t.req m.1).st = qsPaused) ∧
      (∃ q ∈ t.passes, q.seq = p.seq ∧ q.paused = true ∧ q.members = p.members ∧
        q.save = (s.vatsOf p.part).map s.saveVat) ∧
      (∀ j, (∀ m ∈ p.members, m.1 ≠ j) → t.req j = s.req j) ∧ t.curd = s.curd ∧
      let bs := ((s.vatsOf p.part).map s.saveVat).flatMap VSave.bytes
      (s.areaFor p.part bs.length = none → t.mem = s.mem) ∧
      ∀ a, s.areaFor p.part bs.length = some a → t.bytes a bs.length = bs ∧ BytesKept a bs.length s t ∧
        ∀ m ∈ p.members, (t.req m.1).save = some (a, bs.length)

/-- A due spill that finds room writes its record, a header with handle, length, expiry and the CRC of what follows
it, then the save area and the cache (whose bytes are free values, log 2), and holds its space; the write's end, a
failed write, the expiry and the restore each do to the record what the rules say. (R351, R352, R353, R304) -/
def Obligations.SpillsRun : Prop :=
  (∀ (s : State) (r : ReqId) (u : Nat), (s.req r).used = true → (s.req r).st = qsPaused → (s.req r).spill = none →
    s.isOut 2 = false → s.spillDue (s.req r) = true → s.get (.PFX_FUNC_CFG (s.req r).func) PFX_FUNC_CFG.SPILL_EN = 1 →
    let body := (s.spillBody r).1
    let n := (64 + body.length + 4095) / 4096
    s.spillFit (s.req r).func n = some u →
    let a := (s.get (.PFX_SPILL_BASE (s.req r).func) PFX_SPILL_BASE.BASE + u) * 4096
    let expiry := s.now.toNat + s.get (.PFX_FUNC_CFG (s.req r).func) PFX_FUNC_CFG.TTL_S * 1000000000
    (∃ cache, cache.length = (s.req r).pos * s.geom.posBytes ∧ body = (match s.passOf r with
      | some p => p.save.flatMap VSave.bytes
      | none => []) ++ cache) ∧
    ∃ t, exec (.spill r) s = .next t ∧
      t.req r = { s.req r with spill := some { addr := a, units := n, expiry := expiry, crc := crc32c body, writing := true } } ∧
      ReqsKept r s t ∧
      t.hostBytes a (64 + body.length) = leBytes 4 0x4C565350 ++ leBytes 4 (handleOf r (s.req r)) ++ leBytes 8 body.length ++
        leBytes 8 expiry ++ leBytes 4 (crc32c body).toNat ++ List.replicate 36 0 ++ body ∧
      HostKept a (64 + body.length) s t ∧ t.free = s.free + (s.req r).pos * s.geom.posBytes ∧
      OnlyInstr (fun _ => False) { s with host := t.host, reqs := t.reqs, free := t.free } t) ∧
  (∀ (s : State) (r : ReqId) (x : Spill), (s.req r).spill = some x →
    (x.writing = true → (∃ t, exec (.spillWriteDone r true) s = .next t ∧
        t.req r = { s.req r with spill := some { x with writing := false }, save := none } ∧ ReqsKept r s t ∧
        t = { s with reqs := t.reqs }) ∧
      (∃ t, exec (.spillWriteDone r false) s = .next t ∧
        t.req r = { s.req r with since := s.now.toNat, spill := none } ∧ ReqsKept r s t ∧
        OnlyRegs (offs [.PFX_SPILL_STAT]) { s with reqs := t.reqs } t)) ∧
    (x.expiry ≤ s.now.toNat → ∃ t, exec (.spillExpiry r) s = .next t ∧
      t.req r = { s.req r with spill := some { x with units := 0 } } ∧ ReqsKept r s t ∧ t = { s with reqs := t.reqs }) ∧
    ((s.req r).restoring = true → fieldN (s.hostBytes x.addr 64) 24 4 =
        (crc32c (s.hostBytes (x.addr + 64) (fieldN (s.hostBytes x.addr 64) 8 8))).toNat →
      ∃ t, exec (.restoreDone r true) s = .next t ∧ t.req r = { s.req r with spill := none, restoring := false } ∧
        ReqsKept r s t ∧ OnlyInstr (fun _ => False) { s with reqs := t.reqs } t) ∧
    ((s.req r).restoring = true → (s.req r).live = true → (s.req r).dest = none →
      (s.req r).reruns < s.get .REEVE_SCHED REEVE_SCHED.RERUN_LIMIT →
      ∃ t, exec (.restoreDone r false) s = .next t ∧ (t.req r).pos = 64 * (s.req r).hits.length ∧
        (t.req r).reruns = (s.req r).reruns + 1 ∧ (t.req r).spill = none ∧ (t.req r).restoring = false ∧
        (t.req r).save = none ∧ (t.req r).layer = 0 ∧
        ReqsKept r s t ∧ OnlyInstr (fun _ => False) { s with reqs := t.reqs, passes := t.passes } t))

/-- A free partition with a pass to run, and none to resume, begins it: every member is on it, QUEUED ones in PREFILL;
a lone QUEUED member starts behind its hits, which its TOKENS count, and its pass stays within its prompt; the commit
of a lone member's last pass counts its tokens against its budget, moves it to TAIL and gives it its first tail step;
an expired pack wait is noted for the partition's head request; where LOGITS is set the first token's logits stand in
the result area. (R288, R291, R293, R302, R303, R347, R373, R5) -/
def Obligations.PassesRun : Prop :=
  (∀ (s : State) (p : PartId) (i : Nat) (l : List Nat), s.waiting p = i :: l →
    (s.req i).queuedAt + s.getLive (.REEVE_PART_CFG p) REEVE_PART_CFG.PACK_WAIT_US * 1000 ≤ s.now.toNat →
    ∃ t, exec (.packWaitExpiry p) s = .next t ∧
      t.packDue = s.packDue.filter (fun d => d.1 ≠ p.val) ++ [(p.val, handleOf i (s.req i))] ∧ t = { s with packDue := t.packDue }) ∧
  (∀ (s : State) (p : PartId) (l : List (Nat × Nat)), s.passOn p = none → s.stepsOn p = [] → s.closed.contains p.val = false →
    s.vatsOf p ≠ [] → (∀ i ∈ s.liveReqs, s.tailReady i = false) → s.dutyOf p ≠ dutyTail →
    (∀ w ∈ s.dutyWant, w.1 ≠ p.val) → (s.apply (.REEVE_PART_CFG p)).nextPass p = l → l ≠ [] →
    (s.apply (.REEVE_PART_CFG p)).resumable p = none →
    (∀ j ∈ s.liveReqs, (s.req j).st = qsPaused → (s.req j).err ≠ ePaused) → (∀ x ∈ l, (s.req x.1).hits = []) →
    ∃ t, exec (.passStart p) s = .next t ∧
      (∀ x ∈ l, (t.req x.1).part = p ∧ (t.req x.1).st = if (s.req x.1).st = qsQueued then qsPrefill else (s.req x.1).st) ∧
      t.passes = s.passes ++ [{ seq := s.order, members := l, part := p, vats := (s.vatsOf p).length,
                                 start := (s.vatsOf p).map t.saveVat, inputs := (s.vatsOf p).map t.saveVat }] ∧
      (∀ j, (∀ x ∈ l, x.1 ≠ j) → t.req j = s.req j) ∧
      t.rdLive (.REEVE_PART_CFG p) = s.rd (.REEVE_PART_CFG p) ∧
      OnlyInstr (fun o => o = (Reg.REEVE_PART_CFG p).off) { s with
        host := t.host, reqs := t.reqs, passes := t.passes, order := t.order, packDue := t.packDue } t) ∧
  (∀ (s : State) (p : PartId) (q : Pass) (i : ReqId) (n : Nat) (lg : List (ReqId × List W32)), s.passOn p = some q →
    q.members = [(i.val, n)] → q.byReeve = false → Alone { s with passes := [] } i →
    (s.req i).st = qsPrefill → (s.req i).sheaf = none → (s.req i).prefix_ = false →
    (s.req i).want = none → (s.req i).ids = [] → (s.req i).pos + n = (s.req i).promptLen →
    (∀ w ∈ s.dutyWant, w.1 ≠ p.val) →
    ∃ t, exec (.passCommit p lg) s = .next t ∧ (t.req i).st = qsTail ∧ (t.req i).pos = (s.req i).promptLen ∧
      (t.req i).tokens = max (s.req i).tokens (s.req i).promptLen ∧ (t.req i).step.isSome = true ∧
      t.passes = s.passes.filter (fun r => r.seq ≠ q.seq) ∧
      t.get (.REEVE_BUDGET_BAL (s.req i).budget) REEVE_BUDGET_BAL.BALANCE =
        ((s.balance (s.req i).budget - (((t.req i).tokens - (s.req i).tokens : Nat) : Int)) % 2 ^ 48).toNat ∧
      ReqsKept i s t ∧
      ((s.req i).logits = false → HostKept (s.req i).statusAddr 8 s t ∧ t.free = s.free) ∧
      (∀ l : ReqId × List W32, (s.req i).logits = true → lg.find? (fun x => x.1.val = i.val) = some l →
        l.2.length = s.get .REEVE_MODEL REEVE_MODEL.VOCAB →
        ((s.req i).statusAddr + 8 ≤ (s.req i).resultAddr ∨ (s.req i).resultAddr + 2048 + 4 * l.2.length ≤ (s.req i).statusAddr) →
        t.hostBytes ((s.req i).resultAddr + 2048) (4 * l.2.length) = l.2.flatMap fun w => leBytes 4 w.toNat) ∧
      OnlyInstr (offs [.REEVE_BUDGET_BAL (s.req i).budget])
        { s with host := t.host, reqs := t.reqs, passes := t.passes, free := t.free } t) ∧
  (∀ (s : State) (p : PartId) (i : ReqId) (n : Nat), s.passOn p = none → s.stepsOn p = [] → s.closed.contains p.val = false →
    s.vatsOf p ≠ [] → (∀ j ∈ s.liveReqs, s.tailReady j = false) → s.dutyOf p ≠ dutyTail →
    (∀ w ∈ s.dutyWant, w.1 ≠ p.val) → (s.apply (.REEVE_PART_CFG p)).nextPass p = [(i.val, n)] →
    (s.apply (.REEVE_PART_CFG p)).resumable p = none →
    (∀ j ∈ s.liveReqs, (s.req j).st = qsPaused → (s.req j).err ≠ ePaused) → (s.req i).st = qsQueued → (s.req i).sheaf = none →
    64 * (s.req i).hits.length ≤ (s.req i).promptLen →
    ∃ t, exec (.passStart p) s = .next t ∧ (t.req i).st = qsPrefill ∧ (t.req i).pos = 64 * (s.req i).hits.length ∧
      (t.req i).tokens = 64 * (s.req i).hits.length ∧ (t.req i).pos + n ≤ (s.req i).promptLen ∧
      (∀ j : Nat, j ≠ i.val → t.req j = s.req j))

/-- PREEMPTION that finds its victim asks its members to pause, the pass marked as Reeve's own pause; a re-run of the
one request at work counts and drops its step, and its pass starts again from what its Vats held at its start, after a
deadline miss from what they held as the layer began; a finished insertion's entry is VALID; a duty evaluation over
its high bound gives the smallest free partition the TAIL duty. (R298, R304, R348, R350, R499, R303) -/
def Obligations.ReeveSchedules : Prop :=
  (∀ (s : State) (r : ReqId) (q : Pass), (s.req r).live = true → (s.req r).st = qsQueued →
    (s.groupParts (s.req r).group).all (fun p => !(s.eligible (s.req r)).contains p || (s.passOn p).isSome ||
      !(s.stepsOn p).isEmpty || s.dutyOf p = dutyTail || s.closed.contains p) = true →
    s.victim r = some q → s.getLive (.REEVE_PART_CFG q.part) REEVE_PART_CFG.PREEMPT_US ≠ 0 →
    (s.req r).queuedAt + s.getLive (.REEVE_PART_CFG q.part) REEVE_PART_CFG.PREEMPT_US * 1000 ≤ s.now.toNat →
    s.ops = [] →
    ∃ t, exec (.preemption r) s = .next t ∧
      (∃ x ∈ t.passes, x.seq = q.seq ∧ x.want = true ∧ x.byReeve = true ∧ x.members = q.members) ∧
      (∀ m ∈ q.members, (t.req m.1).want.isSome = true) ∧ (∀ j, (∀ m ∈ q.members, m.1 ≠ j) → t.req j = s.req j) ∧
      t = { s with regs := t.regs, live := t.live, vats := t.vats, claims := t.claims, reqs := t.reqs, passes := t.passes }) ∧
  (∀ (s : State) (p : PartId) (i : Nat), s.atWork p = [i] → (s.req i).live = true → (s.req i).dest = none →
    let qs := s.passes.filter fun q => q.part = p.val && !q.paused
    ((s.req i).reruns < s.get .REEVE_SCHED REEVE_SCHED.RERUN_LIMIT → ∃ t,
      exec (.requestRerun p (BitVec.ofNat 8 eUncorrectable)) s = .next t ∧
      t.req i = { s.req i with reruns := (s.req i).reruns + 1, step := none, layer := 0 } ∧ ReqsKept i s t ∧
      (qs = [] → t = { s with reqs := t.reqs }) ∧
      ∀ q v x, qs = [q] → s.passes.find? (fun y => y.seq = q.seq) = some q → s.vatsOf p = [v] → q.start = [x] →
        Tab.wf zero32 x.curd = true →
        { q with layers := 0, inputs := q.start } ∈ t.passes ∧
        ∀ k, k < 0x100000 → Tab.get zero32 t.curd (v * 0x100000 + k) = Tab.get zero32 x.curd k) ∧
    ((s.req i).misses < s.get .REEVE_SCHED REEVE_SCHED.MISS_LIMIT → ∃ t,
      exec (.requestRerun p (BitVec.ofNat 8 eDeadlineMiss)) s = .next t ∧
      t.req i = { s.req i with misses := (s.req i).misses + 1 } ∧ ReqsKept i s t ∧
      (qs = [] → t = { s with reqs := t.reqs }) ∧
      ∀ q v x, qs = [q] → s.passes.find? (fun y => y.seq = q.seq) = some q → s.vatsOf p = [v] → q.inputs = [x] →
        Tab.wf zero32 x.curd = true →
        q ∈ t.passes ∧ ∀ k, k < 0x100000 → Tab.get zero32 t.curd (v * 0x100000 + k) = Tab.get zero32 x.curd k)) ∧
  (∀ (s : State) (g : Fin 16) (i : Nat) (cache : List Byte), s.fills.any (fun x => x.1 = g.val && x.2.1 = i) = true →
    s.pfxState g i = peFilling → ∃ t, exec (.pfxInsertDone g i cache) s = .next t ∧ t.pfxState g i = peValid ∧
      t.fills = s.fills.filter (fun x => !(x.1 = g.val && x.2.1 = i)) ∧
      t = { s with mem := t.mem, poison := t.poison, fills := t.fills, sent := s.sent ++ [.reeveIrq clsPfx g] }) ∧
  (∀ (s : State) (g : Fin 16) (p : Nat) (waits : List Nat), s.partSec 16 = none →
    (∀ h, h < 16 → h ≠ g.val → s.groupParts h = []) → (s.partSec ((s.groupParts g).headD 16)).isSome = true →
    s.get .REEVE_SCHED REEVE_SCHED.TAIL_HI_US < waits.getD g 0 → s.tailVats g < ((s.groupSec g).getD {}).tailMax →
    s.smallest g dutyPrefill = some p → s.passOn p = none →
    ∃ t, exec (.dutyEvaluation waits) s = .next t ∧ t.dutyOf p = dutyTail ∧
      OnlyRegs (offs [.REEVE_PART_CFG p]) { s with duty := t.duty, dutyWant := t.dutyWant } t)

/-- A tail step starts for the one request ready, its mask that of its automaton's state; TOKEN_SELECT takes the
walk's tokens, chosen from the logits, and names the rows that compaction copies; the compaction's end frees the
staging; the commit of a chosen step writes its tokens to the result area, adds them to the request's and writes its
status. No other request changes. (R374, R375, R376, R378, R385, R389, R390, R286, R287) -/
def Obligations.TailStepsRun : Prop :=
  (∀ (s : State) (p : PartId) (i : Nat) (drafts : List (ReqId × List (List W32))), s.passOn p = none → s.stepsOn p = [] →
    s.closed.contains p.val = false → s.vatsOf p ≠ [] →
    s.byPrio (s.liveReqs.filter fun j => s.tailReady j && s.tailPart (s.req j) = p) = [i] → s.gathers p [i] = false →
    let zs := ((drafts.find? fun d => d.1.val = i).map fun d => d.2).getD []
    (s.newStep p (s.req i) zs).nodes.length ≤ 256 →
    ∃ t, exec (.tailStepStart p drafts) s = .next t ∧
      t.req i = { s.req i with part := p, step := some (s.newStep p (s.req i) zs), layer := 0
                               mask := s.maskAt (s.req i) (s.req i).gstate } ∧
      ReqsKept i s t ∧ t = { s with reqs := t.reqs }) ∧
  (∀ (s : State) (r : ReqId) (x y : TailStep) (zs : List (List W32)), (s.req r).step = some x → x.chosen = false →
    s.walk (s.req r) x.nodes zs 65 0 { x with ids := [], path := [], gstate := (s.req r).gstate } = (y, true) →
    ∃ t, exec (.tokenSelect r zs) s = .next t ∧
      t.req r = { s.req r with
        mask := s.maskAt (s.req r) y.gstate
        step := some { y with chosen := true, compacting := 1 < x.nodes.length, copies := compactCopies y (s.req r).rootPos } } ∧
      ReqsKept r s t ∧ t = { s with reqs := t.reqs }) ∧
  (∀ (s : State) (r : ReqId) (x : TailStep), (s.req r).step = some x → x.compacting = true →
    ∃ t, exec (.specCompactionDone r) s = .next t ∧
      t.req r = { s.req r with step := some { x with compacting := false, staging := 0, copies := [] } } ∧
      ReqsKept r s t ∧ t = { s with reqs := t.reqs }) ∧
  (∀ (s : State) (p : PartId) (i : Nat) (x : TailStep), s.stepsOn p = [i] → (s.req i).step = some x → x.chosen = true →
    x.compacting = false → x.ends = false → (s.req i).dest = none → (s.req i).mute = false →
    (∀ w ∈ s.dutyWant, w.1 ≠ p.val) → (s.req i).ids.length + x.ids.length ≤ 256 →
    ((s.req i).statusAddr + 8 ≤ (s.req i).resultAddr ∨ (s.req i).resultAddr + 1088 ≤ (s.req i).statusAddr) →
    ∃ t, exec (.tailStepCommit p) s = .next t ∧ (t.req i).ids = (s.req i).ids ++ x.ids ∧
      (t.req i).tokens = (s.req i).tokens + x.ids.length ∧ (t.req i).gstate = x.gstate ∧ (t.req i).step = none ∧
      (t.req i).st = (s.req i).st ∧ ReqsKept i s t ∧
      t.hostBytes ((s.req i).resultAddr + 64 + 4 * (s.req i).ids.length) (4 * x.ids.length) = x.ids.flatMap (leBytes 4) ∧
      t.hostBytes ((s.req i).resultAddr + 4) 4 = leBytes 4 ((s.req i).ids.length + x.ids.length) ∧
      t.hostBytes (s.req i).statusAddr 8 = leBytes 8
        ((s.req i).st * 2 ^ 60 + (s.req i).err * 2 ^ 52 + ((s.req i).tokens + x.ids.length) % 2 ^ 32) ∧
      OnlyInstr (fun _ => False) { s with host := t.host, reqs := t.reqs } t)

/-- A refill adds RATE per millisecond to each written counter, its remainder carried, up to CEIL; the heartbeat
counts while Reeve runs; a mailbox command that may run writes its results, ERR 0 and clears GO. VERSION's results are
free values (log 2). Nothing else changes. (R300, R305, R306, R312, R311, R309) -/
def Obligations.ReeveServes : Prop :=
  (∀ s : State, s.budgets.Nodup → ∃ t, exec .budgetRefill s = .next t ∧
    (∀ i ∈ s.budgets,
      let r := s.get (.REEVE_BUDGET_CFG i) REEVE_BUDGET_CFG.RATE + Tab.get (fun _ => 0) s.budgetRem i
      t.get (.REEVE_BUDGET_BAL i) REEVE_BUDGET_BAL.BALANCE = (min (s.balance i + ((r / 1000 : Nat) : Int))
        (max (s.get (.REEVE_BUDGET_CFG i) REEVE_BUDGET_CFG.CEIL : Int) (s.balance i)) % 2 ^ 48).toNat ∧
      Tab.get (fun _ => 0) t.budgetRem i = r % 1000) ∧
    OnlyRegs (fun o => ∃ i ∈ s.budgets, o = (Reg.REEVE_BUDGET_BAL i).off) { s with budgetRem := t.budgetRem } t) ∧
  (∀ s : State, s.get .REEVE_STATUS REEVE_STATUS.STATE = 2 → ∃ t, exec .heartbeat s = .next t ∧
    t.get .REEVE_STATUS REEVE_STATUS.HEARTBEAT =
      (s.get .REEVE_STATUS REEVE_STATUS.HEARTBEAT + 1) % (REEVE_STATUS.HEARTBEAT.max + 1) ∧
    OnlyRegs (offs [.REEVE_STATUS]) s t) ∧
  (∀ s : State, s.get .REEVE_MBOX_CMD REEVE_MBOX_CMD.GO = 1 →
    let op := s.get .REEVE_MBOX_CMD REEVE_MBOX_CMD.OPCODE
    let done := fun (t : State) => t.get .REEVE_MBOX_RESULT REEVE_MBOX_RESULT.ERR = eOk ∧
      t.get .REEVE_MBOX_CMD REEVE_MBOX_CMD.GO = 0
    let args := fun o => offs ([.REEVE_MBOX_CMD, .REEVE_MBOX_RESULT] ++ (List.range 8).map Reg.REEVE_MBOX_ARG) o
    (∀ i, op = 1 → s.mboxMay (s.arg 1) = true → s.findTag (s.arg 1) (s.arg 0) = some i →
      ∃ t, exec .mboxQuery s = .next t ∧ done t ∧
        t.rd (.REEVE_MBOX_ARG 0) = BitVec.ofNat 64 (handleOf i (s.req i)) ∧
        t.rd (.REEVE_MBOX_ARG 1) = BitVec.ofNat 64 (s.req i).word ∧ OnlyRegs args s t) ∧
    (op = 2 → ∃ t, exec .mboxVersion s = .next t ∧ done t ∧ t.rd (.REEVE_MBOX_ARG 0) = Config.freeWord s.free ∧
      t.rd (.REEVE_MBOX_ARG 1) = Config.freeWord (s.free + 1) ∧ OnlyRegs args { s with free := s.free + 2 } t) ∧
    (op = 3 → s.mboxMay (s.arg 0) = true → ∃ t, exec .mboxStats s = .next t ∧ done t ∧
      (∀ k, k < 8 → t.rd (.REEVE_MBOX_ARG k) =
        BitVec.ofNat 64 (s.reqs.filter fun p => p.2.used && p.2.func = s.arg 0 && p.2.st = k).length) ∧ OnlyRegs args s t) ∧
    (op = 4 → s.mboxFunc = 0 → s.arg 0 < 4096 → s.arg 1 < 2 ^ 63 → ∃ t, exec .mboxBudgetAdjust s = .next t ∧ done t ∧
      t.get (.REEVE_BUDGET_BAL (s.arg 0)) REEVE_BUDGET_BAL.BALANCE = ((s.balance (s.arg 0) + (s.arg 1 : Int)) % 2 ^ 48).toNat ∧
      OnlyRegs (fun o => args o ∨ o = (Reg.REEVE_BUDGET_BAL (s.arg 0)).off) s t) ∧
    (∀ i, op = 5 → s.mboxFunc = 0 →
      s.liveReqs.filter (fun j => (s.req j).func = s.arg 0 && (s.req j).st ≠ qsExporting) = [i] → Alone s i →
      (s.req i).want = none → ∃ t, exec .mboxCancelFunction s = .next t ∧ done t ∧ t.rd (.REEVE_MBOX_ARG 0) = 1 ∧
        (t.req i).st = qsCancelled ∧ (t.req i).err = eCancelled ∧ ReqsKept i s t ∧
        OnlyInstr args { s with host := t.host, reqs := t.reqs, order := t.order, passes := t.passes, ops := t.ops, launches := t.launches } t))

/-- ENABLE of an automaton's register takes the value written where nothing keeps the write out; nothing else changes.
(R398, R382, R6, R381) -/
def Obligations.GrammarsRun : Prop :=
  ∀ (s : State) (m : Master) (g : Fin 256) (val : W64) (b : Bool),
    Lands s m (.REEVE_GRAM_CFG g) (withBit REEVE_GRAM_CFG.ENABLE val b) →
    ∃ t, exec (if b then .gramEnable m g val else .gramDisable m g val) s = .next t ∧
      t.get (.REEVE_GRAM_CFG g) REEVE_GRAM_CFG.ENABLE = b.toNat ∧
      OnlyRegs (offs [.REEVE_GRAM_CFG g]) (s.afterWrite m (.REEVE_GRAM_CFG g) (s.landCode (.REEVE_GRAM_CFG g))) t

/-- The head record of a destination that may start takes the next sequence number, leaves the queue and is held until
acknowledged: on the native path as packets under a new tag, on RoCEv2 as packets of the path MTU, one for each PSN of
its range, whose data together are the record. (R329, R330, R332, R334, R336, R355, R365) -/
def Obligations.KvxRecordsGo : Prop :=
  ∀ (s : State) (d : DestId) (r : Rec) (rs : List Rec) (krows vrows : List (List W16)), s.mayStart d = true →
    (s.dest d).queue = r :: rs →
    let seq := (s.rd (.KVX_DEST_SEQ d)).toNat
    let slot := s.get (.KVX_DEST_BASE d) KVX_DEST_BASE.BASE + seq % 2 ^ s.get (.KVX_DEST_CFG d) KVX_DEST_CFG.SLOTS_LOG2 *
      s.get (.KVX_DEST_CFG d) KVX_DEST_CFG.SLOT_KIB * 1024
    let bs := s.recBytes d seq r krows vrows
    let path := s.get (.KVX_DEST_CFG d) KVX_DEST_CFG.PATH
    ∃ t, exec (.kvxRecordSend d krows vrows false) s = .next t ∧ t.rd (.KVX_DEST_SEQ d) = s.rd (.KVX_DEST_SEQ d) + 1 ∧
      (t.dest d).queue = rs ∧ (∃ f, (t.dest d).flight = (s.dest d).flight ++ [f] ∧ f.item = r ∧ f.seq = seq) ∧
      (∀ e, e ≠ d.val → t.dest e = s.dest e) ∧ t.mem = s.mem ∧ t.claims = s.claims ∧
      (path = 0 →
        let out := s.recPkts (s.get (.KVX_DEST_CFG d) KVX_DEST_CFG.MODULE) slot s.newTag bs
        t.tags = s.tags ++ [{ id := s.newTag, owner := none, req := .page d out }]) ∧
      (path ≠ 0 →
        let n := (bs.length + s.mtu (path - 1) - 1) / s.mtu (path - 1)
        let f : Flight := { item := r, seq := seq, psn0 := (s.dest d).psn, psn1 := ((s.dest d).psn + n - 1) % 2 ^ 24, bytes := bs }
        t.tags = s.tags ∧ (t.dest d).psn = ((s.dest d).psn + n) % 2 ^ 24 ∧
        t.sent = s.sent ++ (s.roceFrames d f).map .roce ∧
        (0 < bs.length → bs.length < 2 ^ 24 → (s.dest d).psn < 2 ^ 24 →
          (s.roceFrames d f).length = n ∧ (s.roceFrames d f).flatMap RoceFrame.data = bs))

/-- ENABLE set clears DOWN, puts held markers first and starts again with nothing in flight; ENABLE cleared clears it;
a CREDIT write from the old value up to NEXT_SEQ is taken from the bus and from a native peer; an expired credit
timeout sends the destination DOWN with cause 4 and logs it. Nothing else changes. (R330, R331, R333, R339, R340,
R361, R365) -/
def Obligations.DestinationsRun : Prop :=
  (∀ (s : State) (m : Master) (d : DestId) (val : W64), Writes s m (.KVX_DEST_CFG d) (withBit KVX_DEST_CFG.ENABLE val true) →
    s.get (.KVX_DEST_CFG d) KVX_DEST_CFG.ENABLE = 0 → ∃ t, exec (.destEnable m d val) s = .next t ∧
      t.get (.KVX_DEST_CFG d) KVX_DEST_CFG.ENABLE = 1 ∧ t.get (.KVX_DEST_CFG d) KVX_DEST_CFG.DOWN = 0 ∧
      (t.dest d).flight = [] ∧ (t.dest d).psn = s.get (.KVX_DEST_QP d) KVX_DEST_QP.SPSN ∧
      (t.dest d).una = s.get (.KVX_DEST_QP d) KVX_DEST_QP.SPSN ∧ (t.dest d).rate = 1024 ∧
      (t.dest d).queue = (s.dest d).queue.filter (fun r => r.kind = 2) ++ (s.dest d).queue.filter (fun r => r.kind ≠ 2) ∧
      (∀ e, e ≠ d.val → t.dest e = s.dest e) ∧
      OnlyInstr (offs [.KVX_DEST_CFG d, .KVX_DEST_STAT d]) { s.afterWrite m (.KVX_DEST_CFG d) with dests := t.dests } t) ∧
  (∀ (s : State) (m : Master) (d : DestId) (val : W64), Lands s m (.KVX_DEST_CFG d) (withBit KVX_DEST_CFG.ENABLE val false) →
    ∃ t, exec (.destDisable m d val) s = .next t ∧ t.get (.KVX_DEST_CFG d) KVX_DEST_CFG.ENABLE = 0 ∧
      OnlyRegs (offs [.KVX_DEST_CFG d]) (s.afterWrite m (.KVX_DEST_CFG d) (s.landCode (.KVX_DEST_CFG d))) t) ∧
  (∀ (s : State) (d : DestId) (val : W64), s.rd (.KVX_DEST_CREDIT d) ≤ val → val ≤ s.rd (.KVX_DEST_SEQ d) →
    (∀ m, Writes s m (.KVX_DEST_CREDIT d) val → ∃ t, exec (.creditWrite (.bus m) d val) s = .next t ∧
      t.rd (.KVX_DEST_CREDIT d) = val ∧
      OnlyInstr (offs [.KVX_DEST_CREDIT d, .KVX_DEST_STAT d]) { s.afterWrite m (.KVX_DEST_CREDIT d) with dests := t.dests } t) ∧
    (∀ x : W16, s.get (.KVX_DEST_CFG d) KVX_DEST_CFG.PATH = 0 → s.get (.KVX_DEST_CFG d) KVX_DEST_CFG.MODULE = x.toNat →
      ∃ t, exec (.creditWrite (.fabric x) d val) s = .next t ∧ t.rd (.KVX_DEST_CREDIT d) = val ∧
      OnlyInstr (offs [.KVX_DEST_CREDIT d, .KVX_DEST_STAT d]) { s with dests := t.dests } t)) ∧
  (∀ (s : State) (d : DestId), (s.dest d).waiting = true → s.needsCredit d = true →
    s.get (.KVX_DEST_CFG d) KVX_DEST_CFG.CREDIT_TIMEOUT_MS ≠ 0 →
    (s.dest d).since + s.get (.KVX_DEST_CFG d) KVX_DEST_CFG.CREDIT_TIMEOUT_MS * 1000000 ≤ s.now.toNat →
    (∀ i ∈ s.liveReqs, s.kvxOwes d (handleOf i (s.req i)) = false) → LogFree s →
    ∃ t, exec (.creditTimeout d) s = .next t ∧ t.get (.KVX_DEST_CFG d) KVX_DEST_CFG.DOWN = 1 ∧
      t.get (.KVX_DEST_STAT d) KVX_DEST_STAT.CAUSE = 4 ∧ t.get (.KVX_DEST_STAT d) KVX_DEST_STAT.ERR = eExportNak ∧
      (t.dest d).flight = [] ∧ (t.dest d).queue = (s.dest d).queue ∧ t.reqs = s.reqs ∧ Logged s t eExportNak clsKvx d)

/-- An ACK of a PSN that is out takes the records it covers out of flight, counts a page and clears the retry counts;
a sequence NAK, an ACK timeout and an RNR expiry send again every packet from the oldest unacknowledged one on,
counting the retry; an RNR NAK starts its timer; a CNP cuts the rate, a step without one raises it, at most to 1,024;
requests that come in are counted and dropped; a PFC frame of the port's priority pauses and resumes it. (R335, R336,
R337, R338, R359, R287) -/
def Obligations.RoceRuns : Prop :=
  (∀ (s : State) (d : DestId) (psn : BitVec 24) (f : Flight), s.isRoce d = true →
    (psn.toNat + 2 ^ 24 - (s.dest d).una) % 2 ^ 24 < ((s.dest d).psn + 2 ^ 24 - (s.dest d).una) % 2 ^ 24 →
    (s.dest d).flight.filter (fun g => psnLe g.psn1 psn.toNat) = [f] → f.item.kind = 0 →
    (s.req f.item.req).live = true → handleOf f.item.req (s.req f.item.req) = f.item.handle →
    (s.req f.item.req).st ≠ qsExporting →
    ∃ t, exec (.roceAck d psn) s = .next t ∧ (t.req f.item.req).acked = (s.req f.item.req).acked + 1 ∧
      t.dest d = { s.dest d with flight := (s.dest d).flight.filter (fun g => !psnLe g.psn1 psn.toNat)
                                 una := (psn.toNat + 1) % 2 ^ 24, retry := 0, rnr := 0 } ∧
      ReqsKept f.item.req s t ∧ OnlyInstr (fun _ => False) { s with host := t.host, dests := t.dests, reqs := t.reqs } t) ∧
  (∀ (s : State) (d : DestId), s.isRoce d = true → (s.dest d).flight ≠ [] →
    let again := fun (t : State) => t.sent = s.sent ++
      (((s.dest d).flight.flatMap (s.roceFrames d)).filter fun f => psnLe (s.dest d).una f.psn).map .roce
    ((s.dest d).retry < 7 → ∃ t, exec (.roceAckTimeout d) s = .next t ∧
      t.dest d = { s.dest d with retry := (s.dest d).retry + 1 } ∧ again t ∧ t = { s with dests := t.dests, sent := t.sent }) ∧
    (∀ psn : BitVec 24, psn.toNat = (s.dest d).una →
      ((s.dest d).retry < 7 → ∃ t, exec (.roceNak d .sequence psn) s = .next t ∧
        t.dest d = { s.dest d with retry := (s.dest d).retry + 1 } ∧ again t ∧ t = { s with dests := t.dests, sent := t.sent }) ∧
      (∀ k, ∃ t, exec (.roceNak d (.rnr k) psn) s = .next t ∧ t.dest d = { s.dest d with rnrWait := true } ∧
        t = { s with dests := t.dests })) ∧
    ((s.dest d).rnrWait = true → (s.dest d).rnr < 7 → ∃ t, exec (.rnrTimerExpiry d) s = .next t ∧
      t.dest d = { s.dest d with rnr := (s.dest d).rnr + 1, rnrWait := false } ∧ again t ∧
      t = { s with dests := t.dests, sent := t.sent })) ∧
  (∀ (s : State) (d : DestId), s.isRoce d = true →
    (∃ t, exec (.cnpReceive d) s = .next t ∧ (t.dest d).cnp = true ∧ t = { s with dests := t.dests } ∧
      ((∀ x, (s.dest d).lastCut = some x → x + s.getLive (s.ccPort d) KVX_PORT_CC.CUT_GAP_US * 1000 ≤ s.now.toNat) →
        (t.dest d).rate = max ((s.dest d).rate - (s.dest d).rate * s.getLive (s.ccPort d) KVX_PORT_CC.CUT / 256)
          (max 1 (s.getLive (s.ccPort d) KVX_PORT_CC.MIN_RATE)) ∧ (t.dest d).lastCut = some s.now.toNat)) ∧
    (∃ t, exec (.rateStep d) s = .next t ∧ t.dest d = { s.dest d with
      cnp := false
      rate := if (s.dest d).cnp then (s.dest d).rate else min ((s.dest d).rate + s.getLive (s.ccPort d) KVX_PORT_CC.STEP) 1024 } ∧
      t = { s with dests := t.dests })) ∧
  (∀ (s : State) (x : Fin 2), s.isEth x = true →
    (∃ t, exec (.roceRequestIn x) s = .next t ∧
      t.get .KVX_STAT KVX_STAT.DROPPED_IN = min KVX_STAT.DROPPED_IN.max (s.get .KVX_STAT KVX_STAT.DROPPED_IN + 1) ∧
      OnlyRegs (offs [.KVX_STAT]) s t) ∧
    (∀ (prio : BitVec 3) (pause : Bool), s.get (.KVX_PORT_CFG x) KVX_PORT_CFG.PFC_PRIO = prio.toNat →
      ∃ t, exec (.pfcPauseFrame x prio pause) s = .next t ∧ t.pfcPaused.contains x.val = pause ∧
        t = { s with pfcPaused := t.pfcPaused }))

/-- A MEM_WRITE that an inbound region admits is stored, poison and all, and acknowledged with its last packet; a
WIN_WRITE that its window accepts stores the row, counts its arrival and is acknowledged; a GET_REQ that is admitted
joins the queue and reads at the stacks, whose data leave as GET_DATA, and a full queue refuses it; a write that is
refused, or comes late, touches no memory and is logged. (R409, R410, R420, R423, R437, R438, R515, R267) -/
def Obligations.FabricAccessesRun : Prop :=
  (∀ (s : State) (k : Pkt), k.wf = true → s.isOut 0 = false → s.forMe k pkMemWrite = true →
    let a := k.addr.toNat
    let ok := a + k.data.length ≤ memTop ∧ s.mayWrite k.src.toNat k.vc.toNat a k.data.length = true
    (ok → ∃ t, exec (.memWrite k) s = .next t ∧ t.bytes a k.data.length = k.data ∧ BytesKept a k.data.length s t ∧
      (k.data ≠ [] → t.poisoned a k.data.length = pktPoison k) ∧
      (pktLast k = true → SentPkt s t pkAck k.src k.tag 1 []) ∧ (pktLast k = false → t.sent = s.sent) ∧
      OnlySend (fun _ => False) { s with mem := t.mem, poison := t.poison } t) ∧
    (¬ok → LogFree s → ∃ t, exec (.memWrite k) s = .next t ∧ t.mem = s.mem ∧ t.poison = s.poison ∧
      Logged s t eLayoutInvalid clsPort k.port)) ∧
  (∀ (s : State) (k : Pkt), k.wf = true → s.isOut 0 = false → s.forMe k pkWinWrite = true →
    let v := winVat k
    let w := winIdx k
    let r := s.get (.THR_WIN_A v w) THR_WIN_A.BASE + winRow k
    let ctr := s.get (.THR_WIN_A v w) THR_WIN_A.CTR
    let refused := fun (t : State) => t.mem = s.mem ∧ t.dirty = s.dirty ∧ t.get (.THR_WIN_B v w) THR_WIN_B.REFUSED =
      min THR_WIN_B.REFUSED.max (s.get (.THR_WIN_B v w) THR_WIN_B.REFUSED + 1)
    (s.winErr k = 0 → s.heldErr v (bankOf r) = 0 → (s.vat v).killed = false → s.sem v 2 ctr + 1 < 2 ^ 32 →
      ∃ t, exec (.winWrite k) s = .next t ∧
        t.row v r = k.data ∧ t.poisoned (rowAddr v r) 512 = pktPoison k ∧ t.sem v 2 ctr = s.sem v 2 ctr + 1 ∧
        BytesKept (rowAddr v r) 512 s t ∧ SentPkt s t pkAck k.src k.tag 1 [] ∧
        OnlySend (offs [.VAT_ARRIVAL v ctr]) { s with mem := t.mem, poison := t.poison, dirty := t.dirty } t) ∧
    (s.winErr k ≠ 0 → (s.winErr k ≠ eWindowClosed ∨ s.winOff k = false) → LogFree s → ∃ t,
      exec (.winWrite k) s = .next t ∧ refused t ∧ Logged s t (s.winErr k) clsPort k.port) ∧
    (s.winErr k = 0 → s.heldErr v (bankOf r) ≠ 0 → LogFree s → ∃ t,
      exec (.winWrite k) s = .next t ∧ refused t ∧ Logged s t eBankUnclaimed clsPort k.port) ∧
    (s.winErr k = eWindowClosed → s.winOff k = true → LogFree s → ∃ t, exec (.winWrite k) s = .next t ∧ refused t ∧
      t.get (.CELLAR_ERR_STAT v) CELLAR_ERR_STAT.LATE_DROP =
        min CELLAR_ERR_STAT.LATE_DROP.max (s.get (.CELLAR_ERR_STAT v) CELLAR_ERR_STAT.LATE_DROP + 1) ∧
      Logged s t eWindowClosed clsBank (s.phys v))) ∧
  (∀ (s : State) (k : Pkt), k.wf = true → s.isOut 0 = false → s.forMe k pkGetReq = true → k.aux.toNat ≤ 512 →
    k.addr.toNat + k.aux.toNat ≤ memTop → s.mayRead k.src.toNat k.addr.toNat k.aux.toNat = true →
    (1024 ≤ s.gets.length → ∃ t, exec (.getReq k) s = .next t ∧ SentPkt s t pkNak k.src k.tag eQueueFull [] ∧
      OnlySend (fun _ => False) s t) ∧
    (s.gets.length < 1024 → 0 < k.aux.toNat → ∃ t id, exec (.getReq k) s = .next t ∧ (∀ g ∈ s.gets, g.id ≠ id) ∧
      t.gets = s.gets ++ [{ id := id, pkt := k, parts := (granuleCuts k.addr.toNat k.aux.toNat).map fun x => (hbmStop x.1, none) }] ∧
      t.dnet = s.dnet ++ (granuleCuts k.addr.toNat k.aux.toNat).map (fun x =>
        { src := stopThr k.port, part := 0, dest := .stop (hbmStop x.1), load := .read x.1 x.2, get := some id }) ∧
      t = { s with gets := t.gets, dnet := t.dnet })) ∧
  (∀ (s : State) (n j stop id : Nat) (p : DPkt) (g : GetEntry) (data : List Byte), s.isOut 0 = false →
    s.copyAt n = some (j, p, stop) → s.dnetFirst j p stop = true → p.load = .got data false → 24 ≤ stop → p.get = some id →
    s.gets.find? (fun g => g.id = id) = some g → g.parts = [(p.src, none)] → data.length = g.pkt.aux.toNat →
    ∃ t, exec (.dnetPacketArrival n .none) s = .next t ∧ SentPkt s t pkGetData g.pkt.src g.pkt.tag 0 data ∧
      t.gets = s.gets.filter (fun e => e.id ≠ id) ∧ t.dnet = (s.dnetTake j p stop).dnet ∧
      OnlySend (fun _ => False) { s with gets := t.gets, dnet := t.dnet } t) ∧
  (∀ (s : State) (v : VatId) (w : Fin 256), s.get (.THR_WIN_A v w) THR_WIN_A.STATE = 2 →
    ∃ t, exec (.windowCloseDone v w) s = .next t ∧ t.get (.THR_WIN_A v w) THR_WIN_A.STATE = 0 ∧
      t.claims = s.claims.filter (fun c => c.holder ≠ .window v w) ∧
      OnlyRegs (offs [.THR_WIN_A v w]) { s with claims := t.claims } t)

/-- GET_DATA with its tag's sequence bit goes on to the stack its descriptor names, under the same tag; an ACK frees a
REMOTE_PUT's tag; a NAK with CAPACITY_DEGRADED sends the request again; one with QUEUE_FULL holds a read back until
its reissue; a ring-break notice adds its break or takes it back. (R252, R264, R265, R267, R334, R410, R418, R423) -/
def Obligations.FabricAnswersRun : Prop :=
  (∀ (s : State) (k g : Pkt) (x : TagUse) (dst r i idx : Nat) (v : VatId) (d : Desc) (u : DPkt), k.wf = true →
    s.forMe k pkGetData = true → s.answered k = some x → x.req = .get g → x.owner = some (v.val, i, idx) →
    pktPoison k = false → s.ownerDesc x.owner = some d → d.err = 0 → d.idx = idx → s.pieceUses x.owner x.piece = [x] →
    (∀ y ∈ s.tags, y.id = x.id → y = x) → dKind d.bytes = dkGet → dDest d.bytes x.piece = some (dst, r) →
    k.data.length = r → s.place (s.part v) dst r = .hbm → 0 < r → dst % 2048 + r ≤ 2048 →
    u = { src := s.stopOf v, part := s.part v, dest := .stop (hbmStop dst), load := .bytes dst k.data
          owner := x.owner, tag := some x.id, seq := x.seq } →
    ∃ t, exec (.getData k) s = .next t ∧ t.dnet = s.dnet ++ [u] ∧
      t.tags = s.tags.map (fun y => if y.id = x.id then { x with req := .dnet u, left := [hbmStop dst] } else y) ∧
      OnlyInstr (fun _ => False) { s with tags := t.tags, dnet := t.dnet } t) ∧
  (∀ (s : State) (k g : Pkt) (x : TagUse), k.wf = true → s.forMe k pkAck = true → s.answered k = some x → x.req = .put g →
    g.dst = k.src → k.aux.toNat ≤ 1 → (∀ u, (s.vat u).killed = false) → ∃ t, exec (.fabricAck k) s = .next t ∧
      t.tags = s.tags.filter (fun y => y.id ≠ x.id) ∧
      OnlyInstr (fun _ => False) { s with tags := t.tags, getRetry := t.getRetry } t) ∧
  (∀ (s : State) (k g : Pkt) (x : TagUse), k.wf = true → s.isOut 0 = false → s.forMe k pkNak = true →
    s.answered k = some x → x.req = .get g → (∀ o, x.owner = some o → (s.vat o.1).killed = false) →
    (k.aux.toNat % 256 = eCapacityDegraded → ∃ t, exec (.fabricNak k) s = .next t ∧
      SentPkt s t g.kind.toNat g.dst g.tag g.aux.toNat g.data ∧ OnlySend (fun _ => False) s t) ∧
    (k.aux.toNat % 256 = eQueueFull → ∃ t, exec (.fabricNak k) s = .next t ∧ t.getRetry.contains x.id = true ∧
      t = { s with getRetry := t.getRetry })) ∧
  (∀ (s : State) (v : VatId), s.isOut 0 = false → (s.vat v).killed = false →
    let mine := s.tags.filter fun t => s.getRetry.contains t.id && match t.owner with
      | some (w, _, _) => w = v.val
      | none => false
    (∀ x ∈ mine, ∃ g, x.req = .get g) → ∃ t, exec (.getReissue v) s = .next t ∧
      t.sent.length = s.sent.length + mine.length ∧ (∀ x ∈ mine, t.getRetry.contains x.id = false) ∧
      OnlySend (fun _ => False) { s with getRetry := t.getRetry } t) ∧
  (∀ (s : State) (dim : Fin 4) (pos : Fin 32) (w : Bool), ∃ t, exec (.ctrlRingBreak dim pos w) s = .next t ∧
    ((dim.val, pos.val) ∈ t.breaks ↔ w = false) ∧ (∀ b, b ≠ (dim.val, pos.val) → (b ∈ t.breaks ↔ b ∈ s.breaks)) ∧
    t = { s with breaks := t.breaks })

/-- An admitted REG read owes a response with the register's value and result code; an admitted REG write of PWR_CTRL
gives the register the value the field types leave; REG_RSP sends the oldest response owed; without FABRIC_REG, or
from another board, the answer is a NAK with CFG_LOCKED. (R421, R571, R582, R585, R563, R410, R4) -/
def Obligations.RegPacketsRun : Prop :=
  (∀ (s : State) (k : Pkt) (write : Bool) (off : BitVec 26) (val : W64), k.wf = true → s.isOut 0 = false →
    s.forMe k pkReg = true →
    let m := if k.port.val < 9 then Master.thrA else Master.thrB
    let open_ := s.get .THR_GLB_CFG THR_GLB_CFG.FABRIC_REG = 1 ∧ k.src.toNat / 8 = s.me / 8
    (open_ → off.toNat % 8 = 0 → write = false → ∃ t rsp, exec (.regPacket k write off val) s = .next t ∧
      t = { s with regOut := s.regOut ++ [rsp] } ∧ rsp.kind.toNat = pkRegRsp ∧ rsp.dst = k.src ∧ rsp.tag = k.tag ∧
      rsp.aux.toNat = (s.busRead m off.toNat).2 ∧ rsp.data = leBytes 8 (s.busRead m off.toNat).1.toNat) ∧
    (open_ → write = true → off.toNat = Reg.PWR_CTRL.off → Writes s m .PWR_CTRL val →
      ∃ t rsp, exec (.regPacket k write off val) s = .next t ∧ t.rd .PWR_CTRL = regNew .PWR_CTRL (s.rd .PWR_CTRL) val ∧
        t.regOut = s.regOut ++ [rsp] ∧ rsp.kind.toNat = pkRegRsp ∧ rsp.dst = k.src ∧ rsp.tag = k.tag ∧ rsp.aux.toNat = eOk ∧
        OnlyRegs (offs [.PWR_CTRL]) { s with regOut := t.regOut } t) ∧
    (¬open_ → ∃ t, exec (.regPacket k write off val) s = .next t ∧ SentPkt s t pkNak k.src k.tag eCfgLocked [] ∧
      OnlySend (fun _ => False) s t)) ∧
  (∀ (s : State) (k : Pkt) (rest : List Pkt), s.isOut 0 = false → s.regOut = k :: rest → ∃ t, exec .regRsp s = .next t ∧ t.regOut = rest ∧
    SentPkt s t k.kind.toNat k.dst k.tag k.aux.toNat k.data ∧ OnlySend (fun _ => False) { s with regOut := t.regOut } t)

/-- A frame in order is accepted, its acknowledgement and credit taken, and a packet that ends in it frees its flits;
a bad one counts and owes a NAK; a packet that the arbiter takes leaves at a tick as frames of seven flits that hold
its flits in order; a retrain that finds the right partner sends what is unacknowledged again, one that finds another
leaves the port in TRAINING, the third within 1 s fails it; training with the right partner brings the port UP; a
failed port the spare covers moves to port 17; lost ports train again, ramp in eight steps and take their channels
back. (R402, R404, R411, R412, R413, R416, R417, R418, R431) -/
def Obligations.LinksRun : Prop :=
  (∀ (s : State) (p : PortId) (f : Frame), s.carries p = true → f.wf = true →
    (frameGood f = false → ∃ t, exec (.frameReceive p f) s = .next t ∧
      t.port p = { s.port p with nak := true, owed := true } ∧
      t.get (.THR_PORT_ERR p) THR_PORT_ERR.CRC_ERR =
        min THR_PORT_ERR.CRC_ERR.max (s.get (.THR_PORT_ERR p) THR_PORT_ERR.CRC_ERR + 1) ∧
      OnlyRegs (offs [.THR_PORT_ERR p]) { s with ports := t.ports } t) ∧
    (frameGood f = true → f.nak = false → f.seq.toNat = (s.port p).rxNext →
      let taken := fun (t : State) => (t.port p).rxNext = ((s.port p).rxNext + 1) % 4096 ∧
        (t.port p).nak = false ∧ (t.port p).txNext = (s.port p).txNext ∧
        (t.port p).unacked = (s.port p).unacked.filter (fun u => !seqLe u.seq f.ack.toNat) ∧
        (∀ c, c < 16 → (t.port p).inFlight.getD c 0 = (s.port p).inFlight.getD c 0 - f.credits.getD c 0) ∧
        (∀ q, q ≠ p.val → t.port q = s.port q)
      (f.flits = List.replicate 7 none → ∃ t, exec (.frameReceive p f) s = .next t ∧ taken t ∧ t = { s with ports := t.ports }) ∧
      (∀ k : Pkt, p.val < 15 → f.flits = some (k, 0) :: List.replicate 6 none → pktFlits k = 1 → k.dst.toNat = s.me →
        (pkVcs k.kind.toNat).contains k.vc.toNat = true → creditClass k < (s.port p).freed.length →
        ∃ t, exec (.frameReceive p f) s = .next t ∧ taken t ∧ (t.port p).owed = true ∧
          (t.port p).freed.getD (creditClass k) 0 = (s.port p).freed.getD (creditClass k) 0 + 1 ∧
          OnlyInstr (fun _ => False) { s with ports := t.ports, bw := t.bw } t))) ∧
  (∀ (s : State) (p : PortId) (k : Pkt) (x : PortX), s.pending = [] → s.passes = [] → s.liveReqs = [] → s.carries p = true →
    (∀ q, q < 18 → q ≠ p.val → s.carries q = false) → (s.port p).queue = [k] →
    (s.port p).pick (s.weight p) 128 = some (k, x) → x.queue = [k] →
    ∃ (t : State) (fs : List Frame), step s = .next t ∧ t.sent = s.sent ++ fs.map (.frame p) ∧
      fs.length = (pktFlits k + 6) / 7 ∧ (∀ f ∈ fs, frameGood f = true ∧ f.flits.length = 7) ∧
      (fs.flatMap Frame.flits).filterMap id = (List.range (pktFlits k)).map (fun j => (k, j)) ∧ (t.port p).queue = [] ∧
      (t.port p).unacked.length = x.unacked.length + fs.length ∧ (∀ q, q ≠ p.val → t.port q = s.port q)) ∧
  (∀ (s : State) (p : PortId) (m : W16) (q : BitVec 5), s.carries p = true → 8 ≤ (s.port p).stuck →
    let late := (s.port p).retrains.filter fun t => s.now.toNat < t + 1000000000
    let counted := fun (t : State) => t.get (.THR_PORT_ERR p) THR_PORT_ERR.RETRAINS =
      min THR_PORT_ERR.RETRAINS.max (s.get (.THR_PORT_ERR p) THR_PORT_ERR.RETRAINS + 1)
    (late.length < 2 → s.partnerIs p m.toNat q.toNat = true →
      ∃ (t : State) (fs : List Frame), exec (.portRetrain p true (m, q)) s = .next t ∧ counted t ∧
      t.portSt p = s.portSt p ∧ t.get (.THR_PORT_STATUS p) THR_PORT_STATUS.PARTNER = m.toNat ∧
      t.get (.THR_PORT_STATUS p) THR_PORT_STATUS.PPORT = q.toNat ∧
      (t.port p).stuck = 0 ∧ (t.port p).unacked = (s.port p).unacked ∧
      t.sent = s.sent ++ fs.map (.frame p) ∧ fs.map Frame.flits = (s.port p).unacked.map TxFrame.flits ∧
      (∀ f ∈ fs, frameGood f = true) ∧ OnlySend (offs [.THR_PORT_ERR p, .THR_PORT_STATUS p]) s t) ∧
    (late.length < 2 → s.partnerIs p m.toNat q.toNat = false → ∃ t, exec (.portRetrain p true (m, q)) s = .next t ∧ counted t ∧
      t.portSt p = psTraining ∧ t.get (.THR_PORT_STATUS p) THR_PORT_STATUS.CAUSE = eLayoutInvalid ∧
      (LogFree s → Logged s t eLayoutInvalid clsPort p)) ∧
    (2 ≤ late.length → s.coverable p = true → ∀ ok, ∃ t, exec (.portRetrain p ok (m, q)) s = .next t ∧ t.portSt p = psFailed ∧
      t.get (.THR_PORT_STATUS p) THR_PORT_STATUS.CAUSE = eUncorrectable)) ∧
  (∀ (s : State) (p : PortId) (m : W16) (q : BitVec 5), s.portSt p = psTraining → (s.port p).was = 0 →
    s.partnerIs p m.toNat q.toNat = true → ∃ t, exec (.linkTrainingDone p true m q) s = .next t ∧
      t.portSt p = psUp ∧ t.get (.THR_PORT_STATUS p) THR_PORT_STATUS.PARTNER = m.toNat ∧
      t.get (.THR_PORT_STATUS p) THR_PORT_STATUS.PPORT = q.toNat ∧ (t.port p).unacked = (s.port p).unacked ∧
      OnlySend (offs [.THR_PORT_STATUS p, .THR_PORT_ERR p]) s t) ∧
  (∀ (s : State) (p : PortId), s.portSt p = psFailed → s.coverable p = true → ∃ t, exec (.spareTakeover p true) s = .next t ∧
    t.portSt p = psSpared ∧ t.portSt 17 = psUp ∧ t.get .THR_SPARE THR_SPARE.ACTIVE = 1 ∧ t.get .THR_SPARE THR_SPARE.FOR = p ∧
    (t.port 17).unacked = (s.port p).unacked ∧ (t.port 17).txNext = (s.port p).txNext ∧
    (t.port 17).rxNext = (s.port p).rxNext ∧ t.port p = {}) ∧
  (∀ (s : State) (p : PortId),
    (s.portSt p = psFailed ∨ s.portSt p = psSpared ∨ s.portSt p = psDetour → ∃ t, exec (.portRetryTrain p) s = .next t ∧
      t.portSt p = psTraining ∧ t.port p = { s.port p with was := s.portSt p } ∧
      OnlyRegs (offs [.THR_PORT_STATUS p]) { s with ports := t.ports } t) ∧
    (s.portSt p = psRamp → ∃ t, exec (.rampStep p) s = .next t ∧
      t.portSt p = (if s.get (.THR_PORT_STATUS p) THR_PORT_STATUS.RAMP < 7 then psRamp else psUp) ∧
      t.get (.THR_PORT_STATUS p) THR_PORT_STATUS.RAMP = (s.get (.THR_PORT_STATUS p) THR_PORT_STATUS.RAMP + 1) % 8 ∧
      OnlyRegs (offs [.THR_PORT_STATUS p]) s t)) ∧
  (∀ (s : State) (vc : Fin 8), s.get .THR_SPARE THR_SPARE.ACTIVE = 1 → s.get .THR_SPARE THR_SPARE.FOR < 17 →
    let p := s.get .THR_SPARE THR_SPARE.FOR
    s.carries p = true → (s.port p).returning.contains vc.val = true →
    (∀ k ∈ (s.port 17).held, k.vc.toNat ≠ vc.val) → ∃ t, exec (.spareChannelReturn vc) s = .next t ∧
      (t.port p).returning = (s.port p).returning.filter (fun c => c ≠ vc.val) ∧
      ((t.port p).returning = [] → t.get .THR_SPARE THR_SPARE.ACTIVE = 0 ∧ t.portSt 17 = psOff) ∧
      OnlyRegs (offs [.THR_SPARE, .THR_PORT_STATUS 17]) { s with ports := t.ports } t)

/-- A TSYNC locks the time base, records its offset and moves the time forward once before release, by one nanosecond
after, or holds it back; without one for 100 µs it holds over; the master sends its time to the slots it reaches and
the boards it is the reference for; a master that drives its pin no more gives way to the next slot. (R25, R33, R426,
R428, R429, R434, R436) -/
def Obligations.TimeRuns : Prop :=
  (∀ (s : State) (t1 t2 t3 t4 : W64),
    let off : Int := (((t2.toNat : Int) - t1.toNat) - ((t4.toNat : Int) - t3.toNat)) / 2
    ∃ t, exec (.tsync t1 t2 t3 t4) s = .next t ∧ t.get .THR_TIME THR_TIME.STATE = tsLocked ∧
      t.get .THR_TIME THR_TIME.OFFSET_NS = (off % 2 ^ 32).toNat ∧ t.lastSync = s.now.toNat ∧
      (0 ≤ off → t.now = s.now ∧ t.slowBy = (if off = 0 then 0 else 1) ∧ t.stepped = s.stepped) ∧
      (off < 0 → s.phase = 4 → s.stepped = false → t.now = s.now + BitVec.ofNat 64 (-off).toNat ∧ t.stepped = true) ∧
      (off < 0 → s.phase ≠ 4 ∨ s.stepped = true → t.now = s.now + 1 ∧ t.stepped = s.stepped) ∧
      OnlyRegs (offs [.THR_TIME, .GLB_TIME]) { s with lastSync := t.lastSync, slowBy := t.slowBy, stepped := t.stepped } t) ∧
  (∀ s : State, s.get .THR_TIME THR_TIME.STATE = tsLocked → s.lastSync + 100000 ≤ s.now.toNat →
    ∃ t, exec .timeHoldover s = .next t ∧ t.get .THR_TIME THR_TIME.STATE = tsHoldover ∧ OnlyRegs (offs [.THR_TIME]) s t) ∧
  (∀ s : State, s.isOut 0 = false → s.get .THR_GLB_ID THR_GLB_ID.MASTER = 1 → ∃ t, exec .tsyncExchange s = .next t ∧
    t.sent.length = s.sent.length +
      ((List.range 8).filter fun b => b ≠ s.me % 8 && s.linked (slotPort (s.me % 8) b)).length + s.syncBoards.length ∧
    OnlySend (fun _ => False) s t) ∧
  (∀ (s : State) (slot : Fin 8) (m : Nat), s.get .THR_GLB_ID THR_GLB_ID.MASTER_SLOT = slot →
    ((List.range 8).find? fun k => !(addOnce slot.val s.bpresLost).contains k) = some m →
    ∃ t, exec (.bpresLoss slot) s = .next t ∧ t.get .THR_GLB_ID THR_GLB_ID.MASTER_SLOT = m ∧
      t.get .THR_GLB_ID THR_GLB_ID.MASTER = (if m = s.get .THR_GLB_ID THR_GLB_ID.SLOT then 1 else 0) ∧
      (s.get .THR_TIME THR_TIME.STATE = tsLocked → t.get .THR_TIME THR_TIME.STATE = tsHoldover) ∧
      OnlyRegs (offs [.THR_GLB_ID, .THR_TIME]) { s with bpresLost := t.bpresLost } t)

/-- A launch that passes its checks takes the definition's next OPSEQ and its staging claim and queues; a leaf starts
it with HELLO to its parent, its hash in it; a member records its children's HELLOs; GO starts the steps of a
request's operation, and of a BARRIER leaf its DONE. (R443, R446, R447, R448, R450, R459, R460, R470) -/
def Obligations.SheafsBegin : Prop :=
  (∀ (s : State) (f : FuncId) (val : W64),
    let u : State := { s with shWin := Tab.set (fun _ => 0) s.shWin (8 * f + 7) val }
    let b := u.shWindow f
    lCpl b % 8 = 0 →
    (u.lErr f b = eOk → ∃ t, exec (.sheafLaunch f val) s = .next t ∧
      t.launches = s.launches ++ [{ f := f, d := lSheaf b, k := s.get (.SHEAF_SEQ (lSheaf b)) SHEAF_SEQ.NEXT, desc := b }] ∧
      t.get (.SHEAF_SEQ (lSheaf b)) SHEAF_SEQ.NEXT = (s.get (.SHEAF_SEQ (lSheaf b)) SHEAF_SEQ.NEXT + 1) % 2 ^ 15 ∧
      t.claims = s.claims ++ [{ v := lVat b, bank := bankOf (lRow b), port := portRemote
                                holder := .stage (lSheaf b) (s.get (.SHEAF_SEQ (lSheaf b)) SHEAF_SEQ.NEXT) }] ∧
      OnlyRegs (offs [.SHEAF_SEQ (lSheaf b)]) { u with launches := t.launches, claims := t.claims } t) ∧
    (u.lErr f b ≠ eOk → ∃ t, exec (.sheafLaunch f val) s = .next t ∧ t.launches = s.launches ∧ t.claims = s.claims ∧
      t.hostBytes (lCpl b) 8 = leBytes 8 (2 ^ 63 + u.lErr f b * 2 ^ 48 + s.now.toNat % 2 ^ 44) ∧
      HostKept (lCpl b) 8 s t)) ∧
  (∀ (s : State) (d : SheafId) (l : Launch) (rest : List Launch) (p : Nat), s.isOut 0 = false → s.launches = l :: rest → l.d = d →
    s.ops.length < 16 → (∀ o ∈ s.ops, o.d ≠ d) → treeChildren (s.shNs d) (s.shMy d) = [] →
    treeParent (s.shNs d) (s.shMy d) = some p →
    let o : ShOp := { f := l.f, d := l.d, k := l.k, desc := l.desc, req := l.req, since := s.now.toNat }
    ∃ t, exec (.sheafOpStart d) s = .next t ∧ t.launches = rest ∧ t.ops = s.ops ++ [{ o with helloSent := true }] ∧
      SentPkt s t pkSheaf (BitVec.ofNat 16 (s.shAddr d p)) (BitVec.ofNat 16 shTag) skHello
        (leBytes 16 (s.shHash o) ++ leBytes 1 0) ∧
      OnlySend (fun _ => False) { s with launches := t.launches, ops := t.ops } t) ∧
  (∀ (s : State) (h : ShHead) (hash : BitVec 128) (mis : Bool) (o : ShOp), s.shOf h = some o → o.phase = 0 →
    o.helloSent = false → s.isLead o.d = false → s.shRank o.d h.src.toNat ∈ treeChildren (s.shNs o.d) (s.shMy o.d) →
    (∀ x ∈ o.hellos, x.1 ≠ s.shRank o.d h.src.toNat) →
    (∃ c ∈ treeChildren (s.shNs o.d) (s.shMy o.d), c ≠ s.shRank o.d h.src.toNat ∧ ∀ x ∈ o.hellos, x.1 ≠ c) →
    exec (.hello h hash mis) s = .next (s.shSet { o with
      hellos := o.hellos ++ [(s.shRank o.d h.src.toNat, mis || hash.toNat ≠ s.shHash o)] })) ∧
  (∀ (s : State) (h : ShHead) (o : ShOp), s.shOf h = some o → o.phase = 0 →
    (o.req.isSome = true → exec (.go h) s = .next (s.shSet { o with phase := 1, since := s.now.toNat })) ∧
    (∀ p, s.isOut 0 = false → o.req = none → lOp o.desc = opBarrier → o.paused = false → o.dones = [] → o.stage = 0 →
      subtree (s.shNs o.d) (s.shMy o.d) = 1 → treeParent (s.shNs o.d) (s.shMy o.d) = some p →
      ∃ t, exec (.go h) s = .next t ∧ t.ops = (s.shSet { o with phase := 3, vals := [], since := s.now.toNat }).ops ∧
        SentPkt s t pkSheaf (BitVec.ofNat 16 (s.shAddr o.d p)) (BitVec.ofNat 16 shTag) skDone
          (leBytes 4 o.flags.toNat ++ leBytes 4 1) ∧
        OnlySend (fun _ => False) { s with ops := t.ops } t))

/-- A good chunk of the present step is acknowledged and kept until its streams are whole; one that fails is refused
and kept as read; a request's chunk that goes no further round the ring is acknowledged; CHUNK_ACK takes a chunk out
of staging; the first CHUNK_NAK of a chunk sends it again and counts. (R451, R452, R460, R467, R62, R475) -/
def Obligations.SheafChunksRun : Prop :=
  (∀ (s : State) (k : ShChunk) (o : ShOp) (p : ShPart) (rs : List (Nat × Nat)), s.isOut 0 = false →
    s.shOf k.head = some o → o.phase = 1 → o.req = none →
    let from_ := s.shRank o.d k.head.src.toNat
    let c := k.chunk.toNat
    let o' : ShOp := { o with
      bad := o.bad.filter (fun x => !isChunk k.step.toNat from_ c x)
      inbox := o.inbox ++ [(k.step.toNat, from_, c, chunkVals o.desc p.wire k.ebs k.data)] }
    s.shExpects o k.step.toNat from_ = some p → (s.shParts o)[o.stage]? = some p → o.step = k.step.toNat → p.step = o.step →
    (p.recvs.find? fun x => x.1 = from_) = some (from_, rs) → c < chunksOf p.wire rs →
    chunkGood o.desc p (min chunkLen (streamLen p.wire rs - c * chunkLen)) k = true →
    (o.got k.step.toNat from_).any (fun x => x.1 = c) = false → o.counting = false → o.merged = false →
    o.sending = false → p.after = true → o'.full p = false → o'.asRead.full p = false →
    ∃ t, exec (.sheafData k) s = .next t ∧ t.ops = (s.shSet o').ops ∧
      SentPkt s t pkSheaf (BitVec.ofNat 16 (s.shAddr o.d from_)) (BitVec.ofNat 16 shTag) (c * 65536 + skAck) [] ∧
      OnlySend (fun _ => False) { s with ops := t.ops } t) ∧
  (∀ (s : State) (k : ShChunk) (o : ShOp) (p : ShPart) (rs : List (Nat × Nat)), s.isOut 0 = false →
    s.shOf k.head = some o → o.phase = 1 → o.req = none →
    let from_ := s.shRank o.d k.head.src.toNat
    let c := k.chunk.toNat
    let n := min chunkLen (streamLen p.wire rs - c * chunkLen)
    let o' : ShOp := { o with bad := o.bad ++ [(k.step.toNat, from_, c,
      (chunkVals o.desc p.wire k.ebs k.data ++ List.replicate n 0).take n)] }
    s.shExpects o k.step.toNat from_ = some p → (s.shParts o)[o.stage]? = some p → o.step = k.step.toNat → p.step = o.step →
    (p.recvs.find? fun x => x.1 = from_) = some (from_, rs) → c < chunksOf p.wire rs → chunkGood o.desc p n k = false →
    o.bad.any (isChunk k.step.toNat from_ c) = false → o.counting = false → o.merged = false → o.sending = false →
    p.after = true → o.full p = false → o'.asRead.full p = false →
    ∃ t, exec (.sheafData k) s = .next t ∧ t.ops = (s.shSet o').ops ∧
      SentPkt s t pkSheaf (BitVec.ofNat 16 (s.shAddr o.d from_)) (BitVec.ofNat 16 shTag) (c * 65536 + skNak) [] ∧
      OnlySend (fun _ => False) { s with ops := t.ops } t) ∧
  (∀ (s : State) (k : ShChunk) (o : ShOp), s.isOut 0 = false → s.shOf k.head = some o → o.phase = 1 → o.req.isSome = true →
    crc32c k.data = k.crc →
    let n := s.shN o.d
    let from_ := s.shRank o.d k.head.src.toNat
    let q := k.step.toNat % (2 * n)
    (s.shMy o.d + 1) % n = (if q < n then q else 2 * n - 1 - q) →
    ∃ t, exec (.sheafData k) s = .next t ∧
      SentPkt s t pkSheaf (BitVec.ofNat 16 (s.shAddr o.d from_)) (BitVec.ofNat 16 shTag) (k.chunk.toNat * 65536 + skAck) [] ∧
      OnlySend (fun _ => False) { s with ops := t.ops } t) ∧
  (∀ (s : State) (h : ShHead) (step chunk : W16) (o : ShOp) (p : ShPart) (x : ShOut), s.shOf h = some o → o.phase = 1 →
    o.req = none → o.step = step.toNat → (s.shParts o)[o.stage]? = some p → p.step ≤ o.step → o.counting = false →
    o.merged = true → o.sending = true → o.outs = [x] → x.rank = s.shRank o.d h.src.toNat →
    chunksOf p.wire (((p.sends.find? fun y => y.1 = x.rank).map Prod.snd).getD []) ≤ x.next →
    x.unacked.filter (fun u => u.1 ≠ chunk.toNat) ≠ [] →
    exec (.chunkAck h step chunk) s = .next (s.shSet { o with
      outs := [{ x with unacked := x.unacked.filter fun u => u.1 ≠ chunk.toNat }] })) ∧
  (∀ (s : State) (h : ShHead) (step chunk : W16) (o : ShOp) (p : ShPart) (x : ShOut), s.shOf h = some o → o.phase = 1 →
    o.req = none → o.step = step.toNat → (s.shParts o)[o.stage]? = some p →
    (o.outs.find? fun y => y.rank = s.shRank o.d h.src.toNat) = some x →
    (x.unacked.find? fun u => u.1 = chunk.toNat) = some (chunk.toNat, false) →
    (o.naks.contains (x.rank, chunk.toNat) = true →
      exec (.chunkNak h step chunk) s = .next (s.shSet { o with naks := o.naks.erase (x.rank, chunk.toNat) })) ∧
    (o.naks.contains (x.rank, chunk.toNat) = false →
      ∃ t, exec (.chunkNak h step chunk) s = .next t ∧
        t.sent = (s.shSendChunk o p (s.shRank o.d h.src.toNat) chunk.toNat).1.sent ∧
        t.get .SHEAF_STAT SHEAF_STAT.RESENDS = min SHEAF_STAT.RESENDS.max (s.get .SHEAF_STAT SHEAF_STAT.RESENDS + 1) ∧
        t.ops = (s.shSet { o with outs := o.outs.map fun y => if y.rank = s.shRank o.d h.src.toNat then
          { y with unacked := y.unacked.map fun u => if u.1 = chunk.toNat then (chunk.toNat, true) else u } else y }).ops ∧
        OnlySend (offs [.SHEAF_STAT]) { s with ops := t.ops } t))

/-- DONE joins a child's flags and members; COMMIT, MISMATCH, ABORT, a missed step deadline and a missing outcome each
end a launched operation here with their code in its completion word, counted, its claim released, and all but COMMIT
recorded in SHEAF_LAST. (R447, R448, R450, R459, R461, R462, R475) -/
def Obligations.SheafsEnd : Prop :=
  let cause := fun (t : State) (o : ShOp) (code : Nat) => t.get .SHEAF_LAST SHEAF_LAST.CAUSE = code ∧
    t.get .SHEAF_LAST SHEAF_LAST.VALID = 1 ∧ t.get .SHEAF_LAST SHEAF_LAST.DEF = o.d % 1024
  (∀ (s : State) (h : ShHead) (o : ShOp), s.shOf h = some o → o.req = none →
    (∀ flags, ∃ t, exec (.sheafCommit h flags) s = .next t ∧ ShEnded s t o eOk flags.toNat ∧
      t.get .SHEAF_STAT SHEAF_STAT.COMPLETED = min SHEAF_STAT.COMPLETED.max (s.get .SHEAF_STAT SHEAF_STAT.COMPLETED + 1)) ∧
    (o.phase = 0 → ∃ t, exec (.mismatch h) s = .next t ∧ ShEnded s t o eMismatch 0 ∧ cause t o eMismatch ∧
      t.get .SHEAF_STAT SHEAF_STAT.MISMATCHES = min SHEAF_STAT.MISMATCHES.max (s.get .SHEAF_STAT SHEAF_STAT.MISMATCHES + 1)) ∧
    (∀ code reason : Byte, s.isLead o.d = false → code.toNat ≠ eOk → code.toNat ≠ eMismatch →
      ∃ t, exec (.sheafAbort h code reason) s = .next t ∧ ShEnded s t o code.toNat 0 ∧ cause t o code.toNat ∧
        t.get .SHEAF_STAT SHEAF_STAT.ABORTS = min SHEAF_STAT.ABORTS.max (s.get .SHEAF_STAT SHEAF_STAT.ABORTS + 1)) ∧
    (∀ flags n, s.isLead o.d = false → (∀ x ∈ o.dones, x.1 ≠ s.shRank o.d h.src.toNat) →
      let o' : ShOp := { o with flags := o.flags ||| flags, dones := o.dones ++ [(s.shRank o.d h.src.toNat, n)] }
      (o.phase ≠ 2 ∨ 1 + (o'.dones.map Prod.snd).foldl (· + ·) 0 < subtree (s.shNs o.d) (s.shMy o.d) →
        exec (.sheafDone h flags n) s = .next (s.shSet o')) ∧
      (∀ p, o.phase = 2 → treeParent (s.shNs o.d) (s.shMy o.d) = some p →
        subtree (s.shNs o.d) (s.shMy o.d) ≤ 1 + (o'.dones.map Prod.snd).foldl (· + ·) 0 →
        s.isOut 0 = false →
        ∃ t, exec (.sheafDone h flags n) s = .next t ∧ t.ops = (s.shSet { o' with phase := 3, since := s.now.toNat }).ops ∧
          SentPkt s t pkSheaf (BitVec.ofNat 16 (s.shAddr o.d p)) (BitVec.ofNat 16 shTag) skDone
            (leBytes 4 o'.flags.toNat ++ leBytes 4 (1 + (o'.dones.map Prod.snd).foldl (· + ·) 0)) ∧
          OnlySend (fun _ => False) { s with ops := t.ops } t))) ∧
  (∀ (s : State) (d : SheafId) (o : ShOp), s.ops.find? (fun o => o.d = d.val) = some o → o.req = none →
    o.paused = false → o.since + shLimit ≤ s.now.toNat →
    (o.phase < 2 → s.isLead d = false → ∃ t, exec (.stepDeadline d) s = .next t ∧
      ShEnded s t o eSheafAbort 0 ∧ cause t o eSheafAbort) ∧
    (o.phase = 3 → ∃ t, exec (.doneTimeout d) s = .next t ∧ ShEnded s t o eSheafAbort 0 ∧ cause t o eSheafAbort))

/-- PAUSE marks an operation; at the lead the first request to pause marks it and goes to every other member, and when
every member that asked has asked to resume, RESUME goes to every other member and clears the marks; RESUME clears
them. Operations outside their steps, or of requests, do nothing else then. (R463, R467) -/
def Obligations.SheafsPause : Prop :=
  let resumed := fun (s : State) (o : ShOp) =>
    s.shSet { o with paused := false, pausers := [], resumers := [], since := s.now.toNat }
  ∀ (s : State) (h : ShHead) (o : ShOp), s.isOut 0 = false → s.shOf h = some o →
    exec (.sheafPause h) s = .next (s.shSet { o with paused := true }) ∧
    (o.paused = true → o.phase ≠ 1 ∨ o.req.isSome = true → exec (.sheafResume h) s = .next (resumed s o)) ∧
    (s.isLead o.d = true →
      (o.pausers = [] → ∃ t, exec (.pauseReq h) s = .next t ∧
        t.ops = (s.shSet { o with pausers := [s.shRank o.d h.src.toNat], paused := true }).ops ∧
        t.sent.length = s.sent.length + ((List.range (s.shN o.d)).filter fun r => r ≠ s.shRank o.d s.me).length ∧
        OnlySend (fun _ => False) { s with ops := t.ops } t) ∧
      (o.pausers = [s.shRank o.d h.src.toNat] → o.phase ≠ 1 ∨ o.req.isSome = true →
        ∃ t, exec (.resumeReq h) s = .next t ∧ t.ops = (resumed s o).ops ∧
          t.sent.length = s.sent.length + ((List.range (s.shN o.d)).filter fun r => r ≠ s.shRank o.d s.me).length ∧
          OnlySend (fun _ => False) { s with ops := t.ops } t))

/-- Input, grant and time-out let P0 end; power good switches on the domains of P0 and begins P1 with the straps in
THR_GLB_ID and MGMT_STATUS; two equal fuse reads fill the mirror and begin P2, unequal ones count; the reset pin holds
P0 and its release begins P1; a violation takes a system reset that keeps time, LFAIL and EPOCH and nothing else in
the registers. (R427, R476, R478, R479, R495, R496, R499, R505, R535, R550) -/
def Obligations.PowerUpRuns : Prop :=
  let system := fun (s t : State) (cause phase : Nat) =>
    t.boot.phase = phase ∧ t.get .RST_CAUSE RST_CAUSE.CAUSE = cause ∧ t.get .RST_CAUSE RST_CAUSE.LEVEL = 1 ∧
    t.rd .RST_TIME = s.now ∧ t.now = s.now ∧ t.flash = s.flash ∧ t.host = s.host ∧ t.mem = [] ∧ t.reqs = [] ∧
    t.get .RST_STATUS RST_STATUS.LFAIL = s.get .RST_STATUS RST_STATUS.LFAIL ∧
    t.get .RST_STATUS RST_STATUS.EPOCH = s.get .RST_STATUS RST_STATUS.EPOCH ∧
    ∀ o, ¬ offs [.GLB_TIME, .RST_STATUS, .RST_CAUSE, .RST_TIME, .MGMT_ALERT, .MGMT_STATUS, .THR_GLB_ID] o → t.rdOff o = regReset o
  (∀ s : State, s.boot.phase = 0 → s.boot.good = false →
    exec .inputPowerUp s = .next { s with boot := { s.boot with input := true } } ∧
    exec .bseqGrant s = .next { s with boot := { s.boot with granted := true } } ∧
    (s.boot.input = true → exec .bseqTimeout s = .next { s with boot := { s.boot with granted := true } })) ∧
  (∀ (s : State) (slot : BitVec 3) (bpos : BitVec 13), s.boot.phase = 0 → s.boot.input = true → s.boot.granted = true →
    s.boot.good = false → s.boot.pinLow = false → s.boot.hot = false →
    ∃ t, exec (.powerGood slot bpos) s = .next t ∧ t.boot.phase = 1 ∧ t.boot.good = true ∧
      t.get .THR_GLB_ID THR_GLB_ID.MODULE = bpos.toNat * 8 + slot.toNat ∧ t.get .THR_GLB_ID THR_GLB_ID.SLOT = slot.toNat ∧
      t.get .MGMT_STATUS MGMT_STATUS.ADDR = 0x60 + slot.toNat ∧
      (s.boot.level ≠ some 2 → t.get .RST_STATUS RST_STATUS.PHASE = 1) ∧
      (∀ d ∈ p0Doms, t.domOn d = true) ∧ (∀ d, s.domOn d = true → t.domOn d = true) ∧
      OnlyRegs (offs [.RST_STATUS, .THR_GLB_ID, .MGMT_STATUS]) { s with boot := t.boot, doms := t.doms } t) ∧
  (∀ (s : State) (a b : Fuses), s.boot.phase = 1 → s.get .RST_STATUS RST_STATUS.FUSE_BAD = 0 →
    (a.secState ≠ 3 → s.boot.level ≠ some 2 → ∃ t, exec (.fuseReadDone a a) s = .next t ∧
      t.boot.phase = 2 ∧ t.boot.imgSlot = 0 ∧ t.boot.fuses = a ∧ t.get .RST_STATUS RST_STATUS.PHASE = 2 ∧
      t.get .LAYOUT_STATUS LAYOUT_STATUS.STATE = 1 ∧ t.get .SEC_STATUS SEC_STATUS.SEC_STATE = a.secState.toNat ∧
      t.get .RST_FUSE RST_FUSE.SEC_STATE = a.secState.toNat ∧ t.get .RST_FUSE RST_FUSE.VAT_DIS = a.vatDis.toNat ∧
      t.get .RST_FUSE RST_FUSE.OPT = a.opt.toNat % 8 ∧
      (∀ p, p < 18 → (t.rd (.RST_FUSE_UNIT p)).toNat = fuseLanes a p + fuseBanks a p * 2 ^ 20) ∧
      t.get .PWR_CLOCK PWR_CLOCK.F_MAX_MHZ = (if a.opt.getLsbD 0 then 1850 else 1600) ∧
      OnlyRegs (fun o => offs [.RST_FUSE, .RST_STATUS, .SEC_STATUS, .PWR_CLOCK, .LAYOUT_STATUS] o ∨
        offsFrom (.RST_FUSE_UNIT 0) (.RST_FUSE_UNIT 18) o) { s with boot := t.boot } t) ∧
    (a ≠ b → s.boot.tries ≠ 2 →
      exec (.fuseReadDone a b) s = .next { s with boot := { s.boot with tries := s.boot.tries + 1 } }) ∧
    (a ≠ b → s.boot.tries = 2 → ∃ t, exec (.fuseReadDone a b) s = .next t ∧ t.boot = { s.boot with tries := 3 } ∧
      t.get .RST_STATUS RST_STATUS.FUSE_BAD = 1 ∧ OnlyRegs (offs [.RST_STATUS]) { s with boot := t.boot } t)) ∧
  (∀ s : State, 2 ≤ s.boot.phase → s.boot.level = none →
    (∃ t, exec .mrstNAssert s = .next t ∧ t.boot.pinLow = true ∧ system s t rcExtPin 0) ∧
    (s.boot.pinLow = false → s.boot.hot = false → ∃ t, exec .secViolation s = .next t ∧ system s t rcSec 1)) ∧
  (∀ s : State, s.boot.phase = 0 → s.boot.good = true → s.boot.hot = false →
    ∃ t, exec .mrstNRelease s = .next t ∧ t.boot.phase = 1 ∧ t.boot.pinLow = false ∧
      t.get .THR_GLB_ID THR_GLB_ID.MODULE = (s.boot.bpos * 8 + s.boot.slot) % 2 ^ 16)

/-- An image that passes is accepted and the domains of P3 are on, a bad one turns to the other slot or ends in
recovery; P3 leaps the counters and applies the image; release opens the module, in recovery where a stack did not
train; over-long phases, a mismatch and an expired watchdog reset it, the last two as core resets that keep every
register outside the blocks they reset; KICK restarts the watchdog; a Vat that faulted, lost a bank or met an error in
a bank's retirement moves to the lowest free position. (R233, R477, R482, R489, R492, R494, R496, R497, R502, R503,
R522, R532) -/
def Obligations.ImagesReleaseAndWatchdogRun : Prop :=
  let core := fun (s t : State) (detail : Nat) =>
    t.boot.phase = 2 ∧ t.boot.level = some 2 ∧ t.get .RST_CAUSE RST_CAUSE.CAUSE = rcWdt ∧
    t.get .RST_CAUSE RST_CAUSE.LEVEL = 2 ∧ t.get .RST_CAUSE RST_CAUSE.DETAIL = detail ∧ t.rd .RST_TIME = s.now ∧
    t.get .RST_STATUS RST_STATUS.PHASE = 7 ∧ t.reqs = [] ∧ t.sram = [] ∧ t.host = s.host ∧ t.flash = s.flash ∧
    (∀ a, a < rowAddr 0 0 → t.byte a = s.byte a) ∧ (∀ a, rowAddr 0 0 ≤ a → a < rowAddr 16 0 → t.byte a = 0) ∧
    (∀ o, (∃ b ∈ coreBlocks, b.1 ≤ o ∧ o < b.2) → o ≠ (Reg.LAYOUT_STATUS).off → t.rdOff o = regReset o) ∧
    ∀ o, (∀ b ∈ coreBlocks, o < b.1 ∨ b.2 ≤ o) →
      ¬ offs [.RST_CAUSE, .RST_TIME, .RST_STATUS, .MGMT_ALERT, .LAYOUT_STATUS] o → t.rdOff o = s.rdOff o
  (∀ (s : State) (probe octal : Bool), s.boot.phase = 2 →
    let img := s.slotImage s.boot.imgSlot
    (s.imgErr img = eOk → ∃ t, exec (.imageCheckDone probe octal) s = .next t ∧ t.boot.phase = 3 ∧
      t.boot.wdt = s.now.toNat ∧ t.layout = { layoutOf img with applied := false } ∧
      t.get .REEVE_STATUS REEVE_STATUS.STATE = 1 ∧ (∀ d ∈ p3Doms, t.domOn d = true) ∧
      ((!probe || !octal) = true → t.get .LAYOUT_STATUS LAYOUT_STATUS.SINGLE = 1) ∧
      t.get .LAYOUT_STATUS LAYOUT_STATUS.UNKEYED = (if s.boot.fuses.secState = 0 then 1 else 0) ∧
      OnlyRegs (offs [.LAYOUT_STATUS, .REEVE_STATUS, .RST_STATUS])
        { s with boot := t.boot, layout := t.layout, sram := t.sram, doms := t.doms, free := s.free + 1 } t) ∧
    (s.imgErr img ≠ eOk → s.boot.imgSlot = 0 → ∃ t, exec (.imageCheckDone probe octal) s = .next t ∧ t.boot.phase = 2 ∧
      t.boot.imgSlot = 1 ∧ t.get .LAYOUT_STATUS LAYOUT_STATUS.SLOT = 1 ∧
      t.get .LAYOUT_STATUS LAYOUT_STATUS.LAST_ERR = s.imgErr img % 256 ∧ t.get .REEVE_STATUS REEVE_STATUS.STATE = 0 ∧
      OnlyRegs (offs [.LAYOUT_STATUS, .RST_STATUS, .REEVE_STATUS]) { s with boot := t.boot } t) ∧
    (s.imgErr img ≠ eOk → s.boot.imgSlot ≠ 0 → s.get .RST_STATUS RST_STATUS.LFAIL = 1 →
      ∃ t, exec (.imageCheckDone probe octal) s = .next t ∧ t.boot.phase = 6 ∧ t.boot.level = none ∧
        t.get .LAYOUT_STATUS LAYOUT_STATUS.STATE = 3 ∧ t.get .LAYOUT_STATUS LAYOUT_STATUS.LAST_ERR = s.imgErr img % 256 ∧
        t.get .REEVE_STATUS REEVE_STATUS.STATE = 3 ∧
        OnlyRegs (offs [.LAYOUT_STATUS, .RST_STATUS, .REEVE_STATUS]) { s with boot := t.boot } t)) ∧
  (∀ (s : State) (skimOk : Bool), s.boot.phase = 3 → s.boot.journal = [] → s.boot.seqs = [] → s.boot.level ≠ some 2 →
    (∀ v ∈ s.layout.vats, s.retiredVats.contains (s.layout.phys v) = false) →
    ∃ t, exec (.layoutApply [] skimOk) s = .next t ∧ t.boot.phase = 4 ∧ t.layout = { s.layout with applied := true } ∧
      t.get .LAYOUT_STATUS LAYOUT_STATUS.STATE = 2 ∧ t.rd .LAYOUT_SERIAL = s.layout.serial ∧
      (∀ v, v < 16 → t.valid v = s.layout.vats.contains v) ∧
      let rec_ := s.newestRecord.getD (0, List.replicate 64 0)
      t.sec.recSeq = rec_.1 + 1 ∧
      ∀ k, k < 64 → t.rd (.SEC_SLOT_LAST k) = rec_.2.getD k 0 ∧ t.mark k = rec_.2.getD k 0 + 65536) ∧
  (∀ s : State, s.boot.phase = 4 →
    (s.boot.level ≠ some 2 →
      (∃ t, exec (.release []) s = .next t ∧ t.boot.phase = 5 ∧ t.boot.level = none ∧
        t.get .RST_STATUS RST_STATUS.PHASE = 5 ∧ t.get .RST_STATUS RST_STATUS.LFAIL = 0 ∧
        t.get .REEVE_STATUS REEVE_STATUS.STATE = 2 ∧ (∀ h, h < 6 → t.get (.HBM_STATUS h) HBM_STATUS.TRAINED = 1) ∧
        t.get .PWR_CLOCK PWR_CLOCK.F_T_MHZ = 1600 ∧ t.get .PWR_CLOCK PWR_CLOCK.F_FIXED_MHZ = 1500) ∧
      ∀ h hs, ∃ t, exec (.release (h :: hs)) s = .next t ∧ t.boot.phase = 6 ∧ t.boot.level = none ∧
        t.get .LAYOUT_STATUS LAYOUT_STATUS.LAST_ERR = eUncorrectable ∧ t.get .LAYOUT_STATUS LAYOUT_STATUS.STATE = 3 ∧
        t.get (.HBM_STATUS h) HBM_STATUS.TRAINED = 0) ∧
    (s.boot.level = some 2 → ∀ bad, ∃ t, exec (.release bad) s = .next t ∧ t.boot.phase = 5 ∧ t.boot.level = none ∧
      t.get .REEVE_STATUS REEVE_STATUS.STATE = 2 ∧
      t.get .RST_STATUS RST_STATUS.EPOCH = (s.get .RST_STATUS RST_STATUS.EPOCH + 1) % 2 ^ 32)) ∧
  (∀ s : State, s.boot.pinLow = false → s.boot.hot = false →
    (s.boot.phase = 2 → s.get .RST_STATUS RST_STATUS.LFAIL = 0 → ∃ t, exec .phaseLimitExpiry s = .next t ∧
      t.boot.phase = 1 ∧ t.boot.level = some 1 ∧ t.get .RST_CAUSE RST_CAUSE.CAUSE = rcLayout ∧
      t.get .RST_STATUS RST_STATUS.LFAIL = 1) ∧
    (s.boot.phase = 3 → ∃ t, exec .phaseLimitExpiry s = .next t ∧ t.boot.phase = 1 ∧ t.boot.level = some 1 ∧
      t.get .RST_CAUSE RST_CAUSE.CAUSE = rcWdt ∧ t.get .RST_CAUSE RST_CAUSE.DETAIL = 2)) ∧
  (∀ s : State, s.boot.phase = 5 → s.boot.level = none → s.relaying = none →
    (∃ t, exec .lockstepMismatch s = .next t ∧ core s t 1) ∧
    (s.boot.wdt + s.get .RST_WDT RST_WDT.TIMEOUT_MS * 1000000 ≤ s.now.toNat →
      ∃ t, exec .wdtExpiry s = .next t ∧ core s t 0)) ∧
  (∀ (s : State) (m : Master) (val : W64), Writes s m .RST_WDT (withBit RST_WDT.KICK val true) →
    ∃ t, exec (.wdtKick m val) s = .next t ∧ t.boot = { s.boot with wdt := s.now.toNat } ∧
      t.get .RST_WDT RST_WDT.TIMEOUT_MS = RST_WDT.TIMEOUT_MS.get val) ∧
  ∀ (s : State) (v : VatId), s.boot.phase = 5 → s.valid v = true → s.mustLeave v = true → s.relaying = none →
    (s.partStill (s.part v) = false → ∃ t, exec (.vatSubstitution v) s = .next t ∧
      t.get .LAYOUT_STATUS LAYOUT_STATUS.BUSY = 1 ∧ t.phys v = s.phys v ∧ t.retired = s.retired) ∧
    ∀ n rest, s.partStill (s.part v) = true → s.freePhys = n :: rest → s.atWork (s.part v) = [] →
      ∃ t, exec (.vatSubstitution v) s = .next t ∧ t.valid v = true ∧ t.phys v = n ∧ t.vst v = vsIdle ∧
        t.get (.VAT_STATUS v) VAT_STATUS.CTX_VALID = 0 ∧ t.retiredVats.contains (s.phys v) = true ∧
        t.get .LAYOUT_STATUS LAYOUT_STATUS.BUSY = 0 ∧ ∀ u, u < 16 → u ≠ v.val → t.valid u = s.valid u ∧ t.phys u = s.phys u

/-- An input outside its limits resets everything, a marginal one warns, alerts and is logged once; an evaluation
shows what it read and sets the clocks as the loop of R551 decides; a calibration moves gains and offsets within their
limits, or holds and is logged; samples show, regulate above the target, limit above 105 and trip at 115 degrees; each
stretch counts. (R33, R495, R496, R544, R548, R550, R551, R555, R556, R557, R558, R567) -/
def Obligations.PowerAndHeatRun : Prop :=
  let logged := fun o => offs [.ERR_STATUS, .ERR_HOST, .MGMT_ALERT] o ∨ offsFrom (.ERR_ENTRY 0 0) (.ERR_ENTRY 1024 0) o
  let onlyPwr := fun (P : Nat → Prop) (s t : State) =>
    OnlyRegs (fun o => P o ∨ logged o) { s with msi := t.msi, sent := t.sent, free := t.free, pwr := t.pwr } t
  let tripped := fun (s t : State) => t.boot.phase = 0 ∧ t.boot.hot = true ∧ t.boot.cool = none ∧
    t.get .RST_CAUSE RST_CAUSE.CAUSE = rcTherm ∧ t.get .RST_CAUSE RST_CAUSE.LEVEL = 1 ∧ t.rd .RST_TIME = s.now
  (∀ (s : State) (mv : Nat) (long : Bool),
    (((mv < 21000 && long) || 27000 < mv) = true → ∃ t, exec (.inputExcursion mv long) s = .next t ∧ t.boot.phase = 0 ∧
      (∀ o, t.rdOff o = regReset o) ∧ t.mem = [] ∧ t.reqs = [] ∧ t.flash = s.flash ∧ t.host = s.host ∧ t.retired = s.retired) ∧
    (21600 ≤ mv → mv ≤ 26400 → ∃ t, exec (.inputExcursion mv long) s = .next t ∧
      t.get .PWR_STATUS PWR_STATUS.V_IN_MV = mv ∧ t.get .PWR_STATUS PWR_STATUS.INPUT_WARN = 0 ∧
      OnlyRegs (offs [.PWR_STATUS]) s t) ∧
    (((mv < 21000 && long) || 27000 < mv) = false → mv < 21600 ∨ 26400 < mv →
      ∃ t, exec (.inputExcursion mv long) s = .next t ∧ t.get .PWR_STATUS PWR_STATUS.V_IN_MV = mv ∧
        t.get .PWR_STATUS PWR_STATUS.INPUT_WARN = 1 ∧
        (s.get .PWR_STATUS PWR_STATUS.INPUT_WARN = 0 → t.get .MGMT_ALERT MGMT_ALERT.INPUT = 1 ∧
          (LogFree s → Logged s t eOk clsPwr 0)) ∧
        (s.get .PWR_STATUS PWR_STATUS.INPUT_WARN = 1 → OnlyRegs (offs [.PWR_STATUS]) s t) ∧ onlyPwr (offs [.PWR_STATUS]) s t)) ∧
  (∀ (s : State) (raw : List Nat) (pt pf mv ci : Nat) (valid : Bool), raw.length = 5 →
    let v := if valid then mv else s.get .PWR_STATUS PWR_STATUS.V_IN_MV
    let lim : Rat := min (min (s.get .PWR_CAP PWR_CAP.CAP_W : Rat) ((112 * v : Nat) / 1000)) 2400
    let r := capLoop ((s.estimates raw).foldl (· + ·) 0) lim pt pf s.fT s.fF s.fMaxTherm
      (s.pwr.raised + 100000 ≤ s.now.toNat)
      (s.get .PWR_STATUS PWR_STATUS.THERM_LIMIT = 1)
    ∃ t, exec (.powerEvaluation raw pt pf mv ci valid) s = .next t ∧ t.fT = r.1 % 2 ^ 11 ∧ t.fF = r.2.1 % 2 ^ 11 ∧
      t.get .PWR_STATUS PWR_STATUS.CAP_LIMIT = r.2.2.toNat ∧
      t.get .PWR_STATUS PWR_STATUS.FIXED_HELD = (if r.2.1 = 1500 then 1 else 0) ∧
      t.get .PWR_STATUS PWR_STATUS.I_IN = (if valid then ci % 2 ^ 16 else s.get .PWR_STATUS PWR_STATUS.I_IN) ∧
      t.get .PWR_STATUS PWR_STATUS.V_IN_MV = v % 2 ^ 16 ∧
      (r.2.2 = true → t.get .PWR_STAT PWR_STAT.CAP_STEPS =
        min PWR_STAT.CAP_STEPS.max (s.get .PWR_STAT PWR_STAT.CAP_STEPS + 1)) ∧
      (∀ g n : Nat, g < 5 → n < 65536 → (s.estimates raw).getD g 0 = (n : Rat) → t.get (.PWR_EST g) PWR_EST.EST_W = n) ∧
      (s.fF = 1500 → r.2.1 ≠ 1500 → t.get .MGMT_ALERT MGMT_ALERT.CAP = 1 ∧ (LogFree s → Logged s t eOk clsPwr 0)) ∧
      t.pwr = (if s.fT < r.1 ∨ s.fF < r.2.1 then { s.pwr with raised := s.now.toNat } else s.pwr) ∧
      onlyPwr (fun o => offs [.PWR_STATUS, .PWR_CLOCK, .PWR_STAT] o ∨ offsFrom (.PWR_EST 0) (.PWR_EST 5) o) s t) ∧
  (∀ (s : State) (a : List Nat) (p : Nat), a.length = 5 →
    (∃ t, exec (.calibration a p false) s = .next t ∧ t.get .PWR_STATUS PWR_STATUS.CAL_HOLD = 1 ∧ t.pwr = s.pwr ∧
      (LogFree s → Logged s t eOk clsPwr 0) ∧ onlyPwr (offs [.PWR_STATUS]) s t) ∧
    let e : Rat := (p : Rat) - (s.estimates a).foldl (· + ·) 0
    let q : Nat := (a.map fun x => x * x).foldl (· + ·) 0
    ((∃ x ∈ a, x ≠ 0) → s.pwr.gains.length = 5 → s.pwr.offs.length = 5 →
      ∃ t, exec (.calibration a p true) s = .next t ∧ t.get .PWR_STATUS PWR_STATUS.CAL_HOLD = 0 ∧
        (∀ g, g < 5 →
          t.pwr.gains.getD g 1 = clampRat (s.pwr.gains.getD g 1 + e * (a.getD g 0 : Rat) / (16 * q)) (1 / 2) 2 ∧
          t.pwr.offs.getD g 0 =
            clampRat (s.pwr.offs.getD g 0 + e / 16 * ((a.getD g 0 : Rat) / (a.foldl (· + ·) 0 : Nat))) (-200) 200) ∧
        onlyPwr (fun o => o = (Reg.PWR_STATUS).off ∨ offsFrom (.PWR_EST 0) (.PWR_EST 5) o) s t)) ∧
  (∀ (s : State) (w : W16), ∃ t, exec (.fixedFloorUpdate w) s = .next t ∧
    t.get .PWR_CAP PWR_CAP.FIXED_FLOOR_W = w.toNat ∧ OnlyRegs (offs [.PWR_CAP]) s t) ∧
  (∀ (s : State) (l : List W16), l.length = 52 →
    let at_ := fun (i : Nat) => (l.getD i 0).toInt
    ((∃ i, i < 46 ∧ 16 * 115 ≤ at_ i) → 2 ≤ s.boot.phase →
      ∃ t, exec (.thermalSample l) s = .next t ∧ tripped s t) ∧
    (s.boot.hot = false → s.boot.phase = 5 →
      ((∀ i, i < 52 → at_ i ≤ s.limitOf i) → (∀ i, i < 46 → at_ i ≤ 16 * 105) → ∃ t, exec (.thermalSample l) s = .next t ∧
        (∀ i, i < 52 → t.temp i = at_ i ∧ t.get (.PWR_THERM i) PWR_THERM.VALID = 1) ∧
        t.get .PWR_STATUS PWR_STATUS.THERM_LIMIT = 0 ∧
        OnlyRegs (fun o => o = (Reg.PWR_STATUS).off ∨ offsFrom (.PWR_THERM 0) (.PWR_THERM 52) o) s t) ∧
      ((∀ i, i < 46 → at_ i < 16 * 115) → (∃ i, i < 46 ∧ 16 * 105 < at_ i) → ∃ t, exec (.thermalSample l) s = .next t ∧
        (∀ i, i < 52 → t.temp i = at_ i) ∧ t.get .PWR_STATUS PWR_STATUS.THERM_LIMIT = 1 ∧
        t.fT = 800 ∧ t.fF = max 800 (s.fF - 25) ∧
        ((∃ i, i < 52 ∧ s.limitOf i < at_ i) → t.get .PWR_STATUS PWR_STATUS.THERM_REG = 1))) ∧
    (∀ since, s.boot.hot = true → s.boot.phase = 0 → s.boot.good = true → s.boot.pinLow = false → s.boot.cool = some since →
      since + 1000000000 ≤ s.now.toNat → (∀ i, i < 52 → at_ i < 16 * 95) →
      ∃ t, exec (.thermalSample l) s = .next t ∧ t.boot.phase = 1 ∧ t.boot.hot = false)) ∧
  (∀ s : State, s.get .PWR_STATUS PWR_STATUS.THERM_REG = 1 →
    let fmax := s.get .PWR_CLOCK PWR_CLOCK.F_MAX_MHZ
    (s.anyOver = true → ∃ t, exec .thermalStep s = .next t ∧ t.pwr.lowered = min (fmax - 800) (s.pwr.lowered + 25) ∧
      t.fT = min s.fT (fmax - t.pwr.lowered) ∧ OnlyRegs (offs [.PWR_CLOCK]) { s with pwr := t.pwr } t) ∧
    (s.anyOver = false → s.allCool = true → ∃ t, exec .thermalStep s = .next t ∧ t.pwr.lowered = s.pwr.lowered - 25 ∧
      t.get .PWR_STATUS PWR_STATUS.THERM_REG = (if s.pwr.lowered ≤ 25 then 0 else 1) ∧
      OnlyRegs (offs [.PWR_STATUS]) { s with pwr := t.pwr } t)) ∧
  (∀ (s : State) (i : Fin 46), 2 ≤ s.boot.phase → ∃ t, exec (.thermTrip i) s = .next t ∧ tripped s t) ∧
  ∀ (s : State) (i : Fin 65),
    (s.pwr.stretched.contains i.val = false → ∃ t, exec (.droopStretch i) s = .next t ∧
      t.pwr = { s.pwr with stretched := s.pwr.stretched ++ [i.val] } ∧
      t.get (.PWR_DROOP i) PWR_DROOP.COUNT = min PWR_DROOP.COUNT.max (s.get (.PWR_DROOP i) PWR_DROOP.COUNT + 1) ∧
      OnlyRegs (offs [.PWR_DROOP i]) { s with pwr := t.pwr } t) ∧
    ∃ t, exec (.droopEnd i) s = .next t ∧ t = { s with pwr := t.pwr } ∧ (∀ j, j ∈ t.pwr.stretched ↔ j ∈ s.pwr.stretched ∧ j ≠ i.val)

/-- A block that passes every check takes its counter and has its effect: a reset at its level, a re-layout taken up
and later applied, command and tenant keys, enrolment, the cap, an image in flash, windows opened and closed, a
partition killed; a block that fails a check ends with its code and no effect. A killed partition is readmitted once
zeroed, marks move ahead into a record, a throttling ends in time. (R422, R424, R491, R495, R496, R526, R527, R529,
R530, R532, R534, R549) -/
def Obligations.CriticalCommandsRun : Prop :=
  let args := fun (s : State) (k : SecClass) => cbArg (s.secBlock (clsIdx k))
  let ended := fun (s : State) (o : Host.Outcome State Fault Refusal) (k : SecClass) (op code : Nat) (P : State → Prop) =>
    ∃ t, o = .next t ∧ CmdDone s t (clsIdx k) op code ∧ P t
  let regs := fun (s : State) (k : SecClass) (l : List Reg) (t : State) =>
    OnlyRegs (offs (.SEC_SLOT_LAST (cbTakes (s.secBlock (clsIdx k))) :: .SEC_CMD_RESULT (clsIdx k) :: .SEC_CMD_CTRL (clsIdx k) :: l))
      { s with sec := t.sec } t
  (∀ (s : State) (k : SecClass), s.boot.level = none →
    (CmdPasses s (clsIdx k) 1 (fun a => a = 0) → s.boot.pinLow = false → s.boot.hot = false →
      ∃ t, exec (.cmdResetSystem k) s = .next t ∧ t.boot.phase = 1 ∧ t.boot.level = some 1 ∧
        t.get .RST_CAUSE RST_CAUSE.CAUSE = resetCause (clsIdx k) ∧ t.get .RST_CAUSE RST_CAUSE.LEVEL = 1 ∧ t.now = s.now) ∧
    (CmdPasses s (clsIdx k) 1 (fun a => a = 1) → ended s (exec (.cmdResetCore k) s) k 1 eOk fun t =>
      t.boot.phase = 2 ∧ t.boot.level = some 2 ∧ t.get .RST_CAUSE RST_CAUSE.CAUSE = resetCause (clsIdx k) ∧
      t.get .RST_CAUSE RST_CAUSE.LEVEL = 2) ∧
    (CmdPasses s (clsIdx k) 1 (fun a => a = 2) → s.reqsOf (args s k 1 1) = [] →
      (args s k 1 1 < 16 → ended s (exec (.cmdResetPartition k) s) k 1 eOk fun t =>
        t.get .RST_PART_LAST RST_PART_LAST.PART = args s k 1 1 ∧
        t.get .RST_PART_LAST RST_PART_LAST.REASON = (if clsIdx k = 0 then 1 else 0) ∧
        t.get .RST_PART_LAST RST_PART_LAST.VALID = 1 ∧ ∀ v ∈ s.vatsOf (args s k 1 1), t.vst v = vsScrub) ∧
      (16 ≤ args s k 1 1 → ended s (exec (.cmdResetPartition k) s) k 1 eLayoutInvalid (regs s k [])))) ∧
  (∀ (s : State) (k : SecClass), CmdPasses s (clsIdx k) 2 (fun _ => true) →
    let img := s.hostBytes (args s k 0 8) (args s k 8 4)
    (s.get .LAYOUT_STATUS LAYOUT_STATUS.BUSY = 1 → ended s (exec (.relayout k) s) k 2 eCfgLocked (regs s k [])) ∧
    (s.relaying = none → s.get .LAYOUT_STATUS LAYOUT_STATUS.BUSY = 0 → args s k 8 4 ≤ 65536 + 192 → s.partErr img = eOk →
      ∃ t, exec (.relayout k) s = .next t ∧ t.relaying = some { cls := clsIdx k, part := imgPart img, img := img } ∧
        t.get .LAYOUT_STATUS LAYOUT_STATUS.BUSY = 1 ∧ t.get (.LAYOUT_PART (imgPart img)) LAYOUT_PART.STATE = 2 ∧
        t.closed = s.closed ++ [imgPart img] ∧ t.sec.queue = [] ∧
        t.get (.SEC_CMD_CTRL (clsIdx k)) SEC_CMD_CTRL.GO = s.get (.SEC_CMD_CTRL (clsIdx k)) SEC_CMD_CTRL.GO)) ∧
  (∀ (s : State) (r : Relay) (ok : Bool), s.relaying = some r → r.cls < 3 → r.part < 16 → s.sec.queue = [] →
    s.quiet r.part = true →
    let over_ := fun (t : State) (code : Nat) => t.relaying = none ∧ t.get .LAYOUT_STATUS LAYOUT_STATUS.BUSY = 0 ∧
      t.closed = s.closed.erase r.part ∧ t.get (.SEC_CMD_RESULT r.cls) SEC_CMD_RESULT.OPCODE = 2 ∧
      t.get (.SEC_CMD_RESULT r.cls) SEC_CMD_RESULT.ERR = code ∧ t.get (.SEC_CMD_CTRL r.cls) SEC_CMD_CTRL.GO = 0
    ((reinstated r.img).isEmpty = false → ok = false → ∃ t, exec (.relayoutApply ok) s = .next t ∧
      over_ t eCapacityDegraded ∧ t.layout = s.layout ∧ t.get .LAYOUT_STATUS LAYOUT_STATUS.LAST_ERR = eCapacityDegraded) ∧
    ((reinstated r.img).isEmpty = true ∨ ok = true → ∃ t, exec (.relayoutApply ok) s = .next t ∧ over_ t eOk ∧
      t.layout = s.patched r.img ∧ t.get (.LAYOUT_PART r.part) LAYOUT_PART.SERIAL = imgSerial r.img % 2 ^ 48)) ∧
  (∀ (s : State) (k : SecClass), let b := s.secBlock (clsIdx k)
    (∀ key, CmdPasses s (clsIdx k) 3 (fun a => a = 0) → args s k 1 1 < 64 → args s k 6 1 < 8 →
      (args s k 2 1 = 0 → kwUnwrap (s.kek 0 b) (cbArgBytes b 8 40) = some key →
        ended s (exec (.keyChangeSlot k) s) k 3 eOk fun t => t.key (args s k 1 1) = key ∧ t.keyed (args s k 1 1) = true ∧
          t.get (.SEC_SLOT (args s k 1 1)) SEC_SLOT.MASTERS = args s k 6 1 ∧
          t.get (.SEC_SLOT (args s k 1 1)) SEC_SLOT.PERM = (if args s k 1 1 = 0 then args s k 4 2 ||| 4 else args s k 4 2)) ∧
      (args s k 2 1 = 1 → ended s (exec (.keyChangeSlot k) s) k 3 eOk fun t =>
        t.key (args s k 1 1) = [] ∧ t.keyed (args s k 1 1) = false ∧
        (args s k 1 1 = 0 → t.get .SEC_STATUS SEC_STATUS.ENROLLED = 0))) ∧
    (∀ key, CmdPasses s (clsIdx k) 3 (fun a => a = 1) → kwUnwrap (s.kek (cbSlot b) b) (cbArgBytes b 8 24) = some key →
      ended s (exec (.keyChangeTenant k) s) k 3 eOk fun t =>
        Tab.get zero128 t.tenant (args s k 1 1) = BitVec.ofNat 128 (leNat key) ∧
        t.get (.PFX_TENANT_GEN (args s k 1 1)) PFX_TENANT_GEN.KEYED = 1 ∧
        t.tenantGen (args s k 1 1) = (s.tenantGen (args s k 1 1) + 1) % 2 ^ 16)) ∧
  (∀ s : State, CmdPasses s 0 3 (fun a => a = 2) → ended s (exec .enrolment s) .mgmt 3 eOk fun t =>
    t.key 0 = cbArgBytes (s.secBlock 0) 8 32 ∧ t.keyed 0 = true ∧ t.get .SEC_STATUS SEC_STATUS.ENROLLED = 1 ∧
    t.get (.SEC_SLOT 0) SEC_SLOT.PERM = 65535 ∧ t.get (.SEC_SLOT 0) SEC_SLOT.MASTERS = 7) ∧
  (∀ (s : State) (k : SecClass),
    (CmdPasses s (clsIdx k) 4 (fun _ => true) → 800 ≤ args s k 0 2 → args s k 0 2 ≤ 2000 →
      ended s (exec (.powerCap k) s) k 4 eOk fun t =>
        t.get .PWR_CAP PWR_CAP.CAP_W = args s k 0 2 ∧ regs s k [.PWR_CAP] t) ∧
    (CmdPasses s (clsIdx k) 4 (fun _ => true) → args s k 0 2 < 800 ∨ 2000 < args s k 0 2 →
      ended s (exec (.powerCap k) s) k 4 eLayoutInvalid (regs s k [])) ∧
    (s.boot.phase = 5 → s.sec.queue = [clsIdx k] → s.throttled (clsIdx k) = false → cbOp (s.secBlock (clsIdx k)) = 4 →
      s.secCheck (clsIdx k) (s.secBlock (clsIdx k)) ≠ eOk →
      ∃ t, exec (.powerCap k) s = .next t ∧ t.rd .PWR_CAP = s.rd .PWR_CAP ∧ t.sec.queue = [] ∧
        t.get (.SEC_CMD_RESULT (clsIdx k)) SEC_CMD_RESULT.ERR = s.secCheck (clsIdx k) (s.secBlock (clsIdx k)) ∧
        t.get (.SEC_CMD_CTRL (clsIdx k)) SEC_CMD_CTRL.GO = 0 ∧ ∀ i, i < 64 → t.lastOf i = s.lastOf i)) ∧
  (∀ (s : State) (k : SecClass), CmdPasses s (clsIdx k) 5 (fun _ => true) → args s k 8 4 ≤ 2097152 → args s k 12 1 < 2 →
    let img := s.hostBytes (args s k 0 8) (args s k 8 4)
    imgSized img false = true →
    (s.imgSigned img = true → s.imgHeader img false = true → ended s (exec (.fwUpdate k) s) k 5 eOk fun t =>
      t.flashBytes (0x200000 * args s k 12 1) img.length = img ∧
      ∀ a, a < 0x200000 * args s k 12 1 ∨ 0x200000 * args s k 12 1 + img.length ≤ a → t.flashBytes a 1 = s.flashBytes a 1) ∧
    (s.imgSigned img = false → ended s (exec (.fwUpdate k) s) k 5 eAuthFail fun t => t.flash = s.flash)) ∧
  (∀ (s : State) (k : SecClass), let v := args s k 1 1
    let w := args s k 2 1
    (CmdPasses s (clsIdx k) 6 (fun a => a = 0) → v < 16 → s.valid v = true →
      s.get (.CELLAR_STATUS v) CELLAR_STATUS.SCRUB_BUSY = 0 →
      let e := s.openErr v w (args s k 4 4) (args s k 8 4)
      (e = eOk → ended s (exec (.windowOpen k) s) k 6 eOk fun t => t.get (.THR_WIN_A v w) THR_WIN_A.STATE = 1 ∧
        t.get (.THR_WIN_A v w) THR_WIN_A.BASE = args s k 4 4 % 2 ^ 17 ∧ t.get (.THR_WIN_A v w) THR_WIN_A.LEN = args s k 8 4 ∧
        t.get (.THR_WIN_A v w) THR_WIN_A.CTR = args s k 3 1 ∧ t.get (.THR_WIN_B v w) THR_WIN_B.SRC_LO = args s k 12 2 ∧
        t.get (.THR_WIN_B v w) THR_WIN_B.SRC_HI = args s k 14 2 ∧ regs { s with claims := t.claims } k [.THR_WIN_A v w, .THR_WIN_B v w] t) ∧
      (e ≠ eOk → ended s (exec (.windowOpen k) s) k 6 e (regs s k []))) ∧
    (CmdPasses s (clsIdx k) 6 (fun a => a = 1) → v < 16 → s.get (.THR_WIN_A v w) THR_WIN_A.STATE = 1 →
      ended s (exec (.windowClose k) s) k 6 eOk fun t =>
        t.get (.THR_WIN_A v w) THR_WIN_A.STATE = 2 ∧ regs s k [.THR_WIN_A v w] t)) ∧
  (∀ (s : State) (k : SecClass), CmdPasses s (clsIdx k) 7 (fun _ => true) → args s k 0 1 < 16 → s.reqsOf (args s k 0 1) = [] →
    ended s (exec (.partKill k) s) k 7 eOk fun t => args s k 0 1 ∈ t.closed ∧
      (∀ v ∈ s.vatsOf (args s k 0 1), t.vst v = vsScrub ∧ (t.vat v).zeroing = true) ∧
      ∀ r ∈ ((s.partSec (args s k 0 1)).getD {}).regions, r.kind = 1 ∨ r.kind = 2 →
        ∀ a, r.base ≤ a → a < r.base + r.size → t.byte a = 0) ∧
  (∀ (s : State) (p : PartId), s.killClosed p = true →
    (∀ v ∈ s.vatsOf p, (s.vat v).zeroing = false ∧ s.get (.CELLAR_STATUS v) CELLAR_STATUS.SCRUB_BUSY = 0) →
    exec (.partReadmit p) s = .next { s with closed := s.closed.erase p.val }) ∧
  (∀ s : State, s.boot.phase = 5 → s.sec.queue = [] → s.marksDue ≠ [] →
    ∃ t, exec .counterRecordWrite s = .next t ∧ t.sec.recSeq = s.sec.recSeq + 1 ∧
      (∀ i, i < 64 → t.mark i = (if (s.mark i).toNat < s.lastOf i + 32768 ∧ (s.mark i).toNat < (ahead (s.lastOf i)).toNat
        then ahead (s.lastOf i) else s.mark i)) ∧
      t.flashBytes (recAddr (s.sec.recSeq + 1)) 1024 = t.markBytes (s.sec.recSeq + 1) ∧
      t = { s with flash := t.flash, sec := t.sec }) ∧
  ∀ (s : State) (k : SecClass), s.throttled (clsIdx k) = true →
    Tab.get (fun _ => 0) s.sec.until_ (clsIdx k) ≤ s.now.toNat →
    ∃ t, exec (.authThrottleEnd k) s = .next t ∧ t.throttled (clsIdx k) = false ∧
      OnlyRegs (offs [.SEC_STATUS]) { s with sec := t.sec } t

/-- Link training shows its rate; a configuration request is retried before release and sets NumVFs and VF Enable
after; a held interrupt goes when due; function and hot resets stop rings; BAR2 reads answer with the bytes, writes
store them or one Cellar row, and refusals are recorded in HOST_ACC; patrol errors count and poison, and repair the
row, or retire the pseudo-channel where nothing is left to repair it with or it failed within 24 hours; a copy's end
clears COPYING. (R477, R514, R517, R521, R569, R573, R574, R577, R578, R594, R595, R599) -/
def Obligations.HostLinkRuns : Prop :=
  let idle := fun (s : State) (f : Nat) => (∀ i ∈ s.liveReqs, (s.req i).func ≠ f) ∧
    (∀ l ∈ s.launches, l.f = f → l.req ≠ none) ∧ ∀ o ∈ s.ops, o.f = f → o.req ≠ none
  let stopped := fun (s t : State) (f : Nat) => t.get (.REEVE_RING_CFG f) REEVE_RING_CFG.ENABLE = 0 ∧ t.ring f = {} ∧
    t.get (.REEVE_RING_PTR f) REEVE_RING_PTR.FAULT = 0 ∧ t.reqs = s.reqs
  let acc := fun (s t : State) (f : FuncId) (x code : Nat) => t.get (.HOST_ACC f) HOST_ACC.VALID = 1 ∧
    t.get (.HOST_ACC f) HOST_ACC.ERR = code ∧ t.get (.HOST_ACC f) HOST_ACC.BAR2 = 1 ∧
    t.get (.HOST_ACC f) HOST_ACC.OFFSET = x / 4096 ∧
    t.get (.HOST_ACC f) HOST_ACC.COUNT = min HOST_ACC.COUNT.max (s.get (.HOST_ACC f) HOST_ACC.COUNT + 1) ∧ t.mem = s.mem
  (∀ (s : State) (speed : BitVec 3) (width : BitVec 5) (flit : Bool), s.served = true ∨ s.boot.phase = 4 →
    ∃ t, exec (.pcieLinkUp speed width flit) s = .next t ∧ t.get .HOST_STATUS HOST_STATUS.LINK_UP = 1 ∧
      t.get .HOST_STATUS HOST_STATUS.SPEED = speed.toNat ∧ t.get .HOST_STATUS HOST_STATUS.WIDTH = width.toNat ∧
      t.get .HOST_STATUS HOST_STATUS.FLIT = flit.toNat ∧ OnlyRegs (offs [.HOST_STATUS]) s t) ∧
  (∀ (s : State) (f : FuncId) (q : CfgReq), s.boot.phase ≠ 0 → s.funcOn f = true →
    (s.served = false → exec (.configurationRequest f q) s = .next (s.emit (.cpl f .retry [] false))) ∧
    (s.served = true → exec (.configurationRequest f .other) s = .next s ∧
      exec (.configurationRequest f .read) s = .next (s.emit (.cpl f .ok (leBytes 2 0x4C56 ++
        leBytes 2 (if f.val = 0 then 0x0016 else 0x0017) ++ leBytes 1 (s.get .GLB_ID GLB_ID.STEPPING) ++ leBytes 3 0x120000)
        false)) ∧
      (∀ b, f.val = 0 → exec (.configurationRequest f (.setVfEnable b)) s = .next { s with vfEnable := b }) ∧
      (∀ b, f.val ≠ 0 → exec (.configurationRequest f (.setVfEnable b)) s = .next s) ∧
      (∀ n, f.val ≠ 0 ∨ s.get .HOST_STATUS HOST_STATUS.TOTAL_VFS < n →
        exec (.configurationRequest f (.setNumVfs n)) s = .next s) ∧
      ∀ n, f.val = 0 → n ≤ s.get .HOST_STATUS HOST_STATUS.TOTAL_VFS →
        ∃ t, exec (.configurationRequest f (.setNumVfs n)) s = .next t ∧ t.numVfs = n ∧
          t.get .HOST_STATUS HOST_STATUS.NUM_VFS = n ∧ OnlyRegs (offs [.HOST_STATUS]) { s with numVfs := n } t)) ∧
  (∀ (s : State) (f : FuncId) (vec : Fin 2) (m : Msi) (last : Nat), Tab.get (fun _ => {}) s.msi (2 * f + vec) = m →
    m.last = some last → m.held = true → last + 5000 ≤ s.now.toNat →
    ∃ t, exec (.coalescedInterruptDue f vec) s = .next t ∧ t.sent = s.sent ++ [.msix f vec] ∧
      Tab.get (fun _ => {}) t.msi (2 * f + vec) = { last := some s.now.toNat, held := false } ∧
      t = { s with sent := t.sent, msi := t.msi }) ∧
  (∀ s : State, s.served = true →
    (∀ f : FuncId, f.val ≠ 0 → s.funcOn f = true → idle s f → ∃ t, exec (.flr f) s = .next t ∧ stopped s t f ∧
      t.vfEnable = s.vfEnable ∧ t.launches = s.launches ∧
      OnlyRegs (offs [.REEVE_RING_CFG f, .REEVE_RING_PTR f]) { s with rings := t.rings, shWin := t.shWin } t) ∧
    ((∀ f, f < 64 → idle s f) →
      (∃ t, exec (.flr 0) s = .next t ∧ (∀ f, f < 64 → stopped s t f) ∧ t.vfEnable = false ∧ t.numVfs = s.numVfs) ∧
      ∃ t, exec .hotReset s = .next t ∧ (∀ f, f < 64 → stopped s t f) ∧ t.vfEnable = false ∧
        t.get .HOST_STATUS HOST_STATUS.LINK_UP = 0)) ∧
  (∀ (s : State) (f : FuncId) (off : BitVec 38), s.served = true → s.funcOn f = true → s.boot.phase ≠ 6 →
    let x := off.toNat
    (x < memTop →
      (∀ n, bar2Shape off n 4096 = true → s.reachMem f x n = true → ∃ t, exec (.bar2Read f off n) s = .next t ∧
        t.sent = s.sent ++ [.cpl f .ok (s.bytes x n) (s.poisoned x n)] ∧ OnlyInstr (fun _ => False) { s with sent := t.sent } t) ∧
      (∀ n, bar2Shape off n 4096 = true → s.reachMem f x n = false → ∃ t, exec (.bar2Read f off n) s = .next t ∧
        acc s t f x eLayoutInvalid ∧ t.sent = s.sent ++ [.cpl f .ur [] false] ∧
        OnlyRegs (offs [.HOST_ACC f]) { s with sent := t.sent } t) ∧
      (∀ data, bar2Shape off data.length 512 = true → s.reachMem f x data.length = true →
        ∃ t, exec (.bar2Write f off data) s = .next t ∧ t.bytes x data.length = data ∧ BytesKept x data.length s t ∧
          OnlyInstr (fun _ => False) { s with mem := t.mem, poison := t.poison } t) ∧
      (∀ data, bar2Shape off data.length 512 = true → s.reachMem f x data.length = false →
        ∃ t, exec (.bar2Write f off data) s = .next t ∧ acc s t f x eLayoutInvalid ∧ t.sent.getLast? = some (.aer f .ur) ∧
          (LogFree s → Logged s t eLayoutInvalid clsHost f))) ∧
    (memTop ≤ x →
      let v := (x - memTop) / 2 ^ 32
      let y := (x - memTop) % 2 ^ 32
      s.reachVat f v = true → s.claimErr v (bankOf (y / 512)) portRemote = 0 →
      (∀ n, bar2Shape off n 4096 = true → ∃ t, exec (.bar2Read f off n) s = .next t ∧
        t.sent = s.sent ++ [.cpl f .ok (s.bytes (0x100000000000 + (x - memTop)) n)
          (s.poisoned (0x100000000000 + (x - memTop)) n)] ∧ OnlyInstr (fun _ => False) { s with sent := t.sent } t) ∧
      ∀ data : List Byte, data.length = 512 → y % 512 = 0 → (s.vat v).killed = false →
        ∃ t, exec (.bar2Write f off data) s = .next t ∧ t.row v (y / 512) = data ∧ BytesKept (rowAddr v (y / 512)) 512 s t ∧
          OnlyInstr (fun _ => False) { s with mem := t.mem, poison := t.poison, dirty := t.dirty } t)) ∧
  (∀ (s : State) (h : StackId) (pc : Fin 64) (off : BitVec 35), s.get (.HBM_STATUS h) HBM_STATUS.TRAINED = 1 →
    off.toNat / 2048 % 64 = pc →
    exec (.hbmPatrolScrub h pc off .clean) s = .next s ∧
    (∃ t, exec (.hbmPatrolScrub h pc off .corrected) s = .next t ∧
      t.get (.HBM_ECC h) HBM_ECC.CORR = min HBM_ECC.CORR.max (s.get (.HBM_ECC h) HBM_ECC.CORR + 1) ∧
      OnlyInstr (offs [.HBM_ECC h]) s t) ∧
    (s.logDepth clsHbm h pc = 0 → LogFree s →
      (∃ t, exec (.hbmPatrolScrub h pc off .rereadClean) s = .next t ∧
        t.get (.HBM_ECC h) HBM_ECC.REREAD_OK = min HBM_ECC.REREAD_OK.max (s.get (.HBM_ECC h) HBM_ECC.REREAD_OK + 1) ∧
        Logged s t eOk clsHbm h ∧ t.poison = s.poison) ∧
      (s.failedToday h pc = false → ∃ t, exec (.hbmPatrolScrub h pc off (.failed true)) s = .next t ∧
        t.failedToday h pc = true ∧
        t.get (.HBM_STATUS h) HBM_STATUS.REPAIRS = min HBM_STATUS.REPAIRS.max (s.get (.HBM_STATUS h) HBM_STATUS.REPAIRS + 1) ∧
        t.get (.HBM_ECC h) HBM_ECC.POISONED = min HBM_ECC.POISONED.max (s.get (.HBM_ECC h) HBM_ECC.POISONED + 1) ∧
        t.poisoned (stackAddr h off.toNat) 1 = true ∧ Logged s t eUncorrectable clsHbm h ∧ t.mem = s.mem) ∧
      (∀ room, room = false ∨ s.failedToday h pc = true → s.get (.HBM_STATUS h) HBM_STATUS.PC_SPARES ≠ 0 →
        ∃ t, exec (.hbmPatrolScrub h pc off (.failed room)) s = .next t ∧
        t.get (.HBM_STATUS h) HBM_STATUS.PC_SPARES = s.get (.HBM_STATUS h) HBM_STATUS.PC_SPARES - 1 ∧
        t.get (.HBM_STATUS h) HBM_STATUS.COPYING = 1 ∧
        t.get (.HBM_STATUS h) HBM_STATUS.RETIRED_PC =
          min HBM_STATUS.RETIRED_PC.max (s.get (.HBM_STATUS h) HBM_STATUS.RETIRED_PC + 1) ∧
        t.poisoned (stackAddr h off.toNat) 1 = true ∧ Logged s t eUncorrectable clsHbm h ∧
        (s.retired.length < 4096 → ∃ e, t.retired = s.retired ++ [e] ∧ reKind.get e = 4 ∧ reUnit.get e = h ∧ rePos.get e = pc)) ∧
      (∀ room, room = false ∨ s.failedToday h pc = true → s.get (.HBM_STATUS h) HBM_STATUS.PC_SPARES = 0 →
        s.liveReqs = [] → s.get .ERR_DEGRADED ERR_DEGRADED.MODULE_DOWN = 0 →
        ∃ t, exec (.hbmPatrolScrub h pc off (.failed room)) s = .next t ∧
          t.get .ERR_DEGRADED ERR_DEGRADED.MODULE_DOWN = 1 ∧ t.get .MGMT_ALERT MGMT_ALERT.DEGRADED = 1 ∧
          Logged s t eCapacityDegraded clsHbm h))) ∧
  ∀ (s : State) (h : StackId), s.get (.HBM_STATUS h) HBM_STATUS.COPYING = 1 →
    ∃ t, exec (.hbmPcCopyDone h) s = .next t ∧ t.get (.HBM_STATUS h) HBM_STATUS.COPYING = 0 ∧
      t.get (.HBM_STATUS h) HBM_STATUS.PC_SPARES = s.get (.HBM_STATUS h) HBM_STATUS.PC_SPARES ∧
      OnlyRegs (fun o => offs [.HBM_STATUS h, .ERR_STATUS] o ∨ offsFrom (.ERR_ENTRY 0 0) (.ERR_ENTRY 1024 0) o) s t

/-- SMBALERT# is asserted exactly while some bit is set both in MGMT_ALERT and in MGMT_ALERT_EN; an Alert Response
Address read returns the module's address; a write that clears the set bits releases it. (R590) -/
def Obligations.AlertsRun : Prop :=
  (∀ s : State, s.alerting = true ↔
    ∃ i, i < 64 ∧ (s.rd .MGMT_ALERT).getLsbD i = true ∧ (s.rd .MGMT_ALERT_EN).getLsbD i = true) ∧
  (∀ s : State, s.boot.phase ≠ 0 →
    exec (.alertResponse true) s = .next (s.emit (.alert (s.get .MGMT_STATUS MGMT_STATUS.ADDR)))) ∧
  ∀ (s : State) (x : RegWrite), x.off.toNat = (Reg.MGMT_ALERT).off → x.size = 8 → Writes s x.master .MGMT_ALERT x.val →
    s.rd .MGMT_ALERT &&& s.rd .MGMT_ALERT_EN &&& ~~~x.val = 0 → s.rd .MGMT_ALERT &&& ~~~(63 : W64) = 0 →
    ∃ t, exec (.registerWrite ⟨[x], []⟩) s = .next t ∧ t.rd .MGMT_ALERT = s.rd .MGMT_ALERT &&& ~~~x.val ∧ t.alerting = false

/-- REG_READ answers status and value, REG_WRITE leaves its status for STATUS, IDENT answers its sixteen bytes, ill-
formed requests are refused with ILLEGAL_OP, bad PECs and time-outs count; REGACC reads and writes through the debug
port, a locked port does nothing; UNLOCK opens it and takes the counter, or counts as a failure; RELOCK closes it.
(R525, R526, R527, R532, R586, R587, R588, R590, R591, R592, R593) -/
def Obligations.ManagementAndTapRun : Prop :=
  (∀ (s : State) (bytes : List Byte), s.boot.phase ≠ 0 →
    let o := dfield bytes 0 4
    let ok := fun (n : Nat) => bytes.length = n ∧ o % 8 = 0 ∧ o < 0x4000000
    (ok 4 → exec (.smbusRegRead bytes true) s =
      .next (s.emit (.smbus (leBytes 1 (s.busRead .mgmt o).2 ++ leBytes 8 (s.busRead .mgmt o).1.toNat)))) ∧
    (¬ ok 4 → exec (.smbusRegRead bytes true) s = .next (s.emit (.smbus (leBytes 1 eIllegalOp ++ leBytes 8 0)))) ∧
    (∀ r val, ok 12 → o = r.off → aliasOf o = o → val = BitVec.ofNat 64 (dfield bytes 4 8) → r = .PWR_CTRL ∨ r = .MGMT_ALERT_EN →
      Writes s .mgmt r val → ∃ t, exec (.smbusRegWrite bytes true) s = .next t ∧ t.mgmtStatus = eOk ∧
        t.rd r = regNew r (s.rd r) val ∧ OnlyRegs (offs [r]) { s with mgmtStatus := eOk } t) ∧
    (ok 12 → s.writeRight .mgmt (aliasOf o) = eCfgLocked →
      exec (.smbusRegWrite bytes true) s = .next { s with mgmtStatus := eCfgLocked }) ∧
    (¬ ok 12 → exec (.smbusRegWrite bytes true) s = .next { s with mgmtStatus := eIllegalOp })) ∧
  (∀ s : State, s.boot.phase ≠ 0 →
    exec (.smbusStatus true) s = .next (s.emit (.smbus (leBytes 1 s.mgmtStatus))) ∧
    (∃ x, exec (.smbusIdent true) s = .next (s.emit (.smbus x)) ∧ x.length = 16 ∧
      leNat (x.take 4) = (s.rd .GLB_ID).toNat % 2 ^ 32 ∧ leNat ((x.drop 4).take 8) = s.boot.fuses.serial.toNat ∧
      leNat ((x.drop 12).take 2) = s.get .THR_GLB_ID THR_GLB_ID.MODULE ∧
      leNat ((x.drop 14).take 1) = s.get .RST_STATUS RST_STATUS.PHASE ∧ leNat (x.drop 15) = s.boot.fuses.secState.toNat) ∧
    (∃ t, exec .smbusTimeout s = .next t ∧
      t.get .MGMT_STATUS MGMT_STATUS.TIMEOUTS =
        min MGMT_STATUS.TIMEOUTS.max (s.get .MGMT_STATUS MGMT_STATUS.TIMEOUTS + 1) ∧ OnlyRegs (offs [.MGMT_STATUS]) s t) ∧
    ∀ c : Instr, (∃ bytes, c = .smbusRegRead bytes false) ∨ (∃ bytes, c = .smbusRegWrite bytes false) ∨ c = .smbusStatus false ∨
      c = .smbusIdent false ∨ c = .alertResponse false → ∃ t, exec c s = .next t ∧
        t.get .MGMT_STATUS MGMT_STATUS.PEC_ERR = min MGMT_STATUS.PEC_ERR.max (s.get .MGMT_STATUS MGMT_STATUS.PEC_ERR + 1) ∧
        OnlyRegs (offs [.MGMT_STATUS]) s t) ∧
  (∀ (s : State) (dr : BitVec 91),
    let off := dr.toNat / 2 ^ 64 % 2 ^ 26
    (s.tapLocked = true → exec (.tapRegacc dr) s = .next s) ∧
    (s.tapLocked = false → s.boot.phase = 0 → exec (.tapRegacc dr) s = .next { s with tapStatus := eCfgLocked, tapData := 0 }) ∧
    (s.tapLocked = false → s.boot.phase ≠ 0 →
      (dr.getLsbD 90 = false → off % 8 = 0 → exec (.tapRegacc dr) s =
        .next { s with tapStatus := (s.busRead .tap off).2, tapData := (s.busRead .tap off).1 }) ∧
      (dr.getLsbD 90 = false → off % 8 ≠ 0 → exec (.tapRegacc dr) s = .next { s with tapStatus := eIllegalOp, tapData := 0 }) ∧
      (dr.getLsbD 90 = true → off = (Reg.PWR_CTRL).off → Writes s .tap .PWR_CTRL (dr.truncate 64) →
        ∃ t, exec (.tapRegacc dr) s = .next t ∧ t.tapStatus = eOk ∧ t.tapData = dr.truncate 64 ∧
          t.get .PWR_CTRL PWR_CTRL.THERM_TARGET_C = PWR_CTRL.THERM_TARGET_C.get (dr.truncate 64) ∧
          OnlyRegs (offs [.PWR_CTRL]) { s with tapStatus := eOk, tapData := dr.truncate 64 } t))) ∧
  (∀ (s : State) (b : List Byte), b.length = 448 → 4 ≤ s.boot.phase → s.throttled 0 = false →
    (s.unlockErr b = eOk → ∃ t, exec (.tapUnlock b) s = .next t ∧ t.tapUnlocked = true ∧
      t.rd (.SEC_SLOT_LAST 0) = BitVec.ofNat 64 (cbCounter b) ∧
      (cbCounter b ≤ (s.mark 0).toNat → OnlyRegs (offs [.SEC_SLOT_LAST 0]) { s with tapUnlocked := true } t) ∧
      ((s.mark 0).toNat < cbCounter b → t.mark 0 = ahead (cbCounter b) ∧ t.sec.recSeq = s.sec.recSeq + 1)) ∧
    (s.unlockErr b ≠ eOk → ∃ t, exec (.tapUnlock b) s = .next t ∧ t.tapUnlocked = s.tapUnlocked ∧
      t.rd (.SEC_SLOT_LAST 0) = s.rd (.SEC_SLOT_LAST 0) ∧
      (((s.sec.fails.filter fun x => s.now.toNat < x.2 + 1000000000).filter fun x => x.1 = 0).length < 15 →
        (0, s.now.toNat) ∈ t.sec.fails ∧ t.throttled 0 = false) ∧
      (15 ≤ ((s.sec.fails.filter fun x => s.now.toNat < x.2 + 1000000000).filter fun x => x.1 = 0).length →
        t.throttled 0 = true ∧ t.get .MGMT_ALERT MGMT_ALERT.SEC = 1))) ∧
  ∀ s : State, exec .tapRelock s = .next { s with tapUnlocked := false }

/-- A write of GLB_VAT_MAP_LO or GLB_VAT_MAP_HI that would set a PHYS above 17, or give two valid logical Vats one
position, by a master that may write it while the Vats are idle, changes nothing and reports LAYOUT_INVALID. (R31) -/
def Obligations.VatMapRefusesImpossiblePositions : Prop :=
  ∀ (s : State) (x : RegWrite) (r : Reg), r = .GLB_VAT_MAP_LO ∨ r = .GLB_VAT_MAP_HI → x.off.toNat = r.off → x.size = 8 →
    s.isOut 4 = false → s.hostGone x.master = false → s.writeRight x.master r.off = eOk →
    (∀ v, v < 16 → s.partIdle v = true) →
    let w := regNew r (s.rd r) x.val
    let lo := if r = .GLB_VAT_MAP_LO then w else s.rd .GLB_VAT_MAP_LO
    let hi := if r = .GLB_VAT_MAP_HI then w else s.rd .GLB_VAT_MAP_HI
    let word := fun v => if v < 8 then lo else hi
    (∃ v, v < 16 ∧ 18 ≤ (mapPhys v).get (word v)) ∨
      (∃ u v, u < v ∧ v < 16 ∧ (mapValid u).get (word u) = 1 ∧ (mapValid v).get (word v) = 1 ∧
        (mapPhys u).get (word u) = (mapPhys v).get (word v)) →
    s.busCode x.master x.off.toNat 8 x.val = (s, eLayoutInvalid) ∧
    exec (.registerWrite ⟨[x], []⟩) s = .next (s.accResult x.master x.off.toNat eLayoutInvalid)

/-- A write that nothing keeps out sets RW, ST and IL fields to what is written, clears the ones written to W1C bits,
sets the ones written to W1S bits, leaves RO fields and everything else; IL fields whose owner is at work, or leaves
idle in this cycle, keep their values with CFG_LOCKED while the other fields are written; a bit set, a counter stepped
or a boundary reached in the cycle of a write ends as R584 has it; a lost bus answers UNCORRECTABLE; a class not
admitted, or a value out of range, changes nothing and learns its code; a reserved offset ignores the write; of two
writes of one cycle to one register the first in order writes and the other learns LOST_RACE; writes to two registers
both apply. (R4, R6, R7, R12, R559, R571, R580, R581, R582, R583, R584, R585) -/
def Obligations.RegisterWritesRun : Prop :=
  let plain := fun (r : Reg) => match r with
    | .PWR_CTRL | .MGMT_ALERT | .MGMT_ALERT_EN | .PERF_CTL | .PERF_FUNC | .PERF_BW_CFG | .ERR_HOST => true
    | .PERF_CFG _ _ | .PERF_VALUE _ _ | .THR_PORT_CFG _ | .VAT_LANE_REMAP _ | .REEVE_VARIANT_CFG _ | .KVX_PORT_NET _ => true
    | _ => false
  let took := fun (s t : State) (r : Reg) (val : W64) => ∀ f ∈ r.flds, t.get r f = match f.ty with
    | .ro | .wo => s.get r f
    | .w1c => f.get (s.rd r &&& ~~~val)
    | .w1s => f.get (s.rd r ||| val)
    | .rw | .st | .il => f.get val
  let onto := fun (x : RegWrite) (r : Reg) => x.off.toNat = r.off ∧ x.size = 8
  let others := fun (s t : State) => { s with mgmtStatus := t.mgmtStatus, tapStatus := t.tapStatus }
  (∀ (s : State) (x : RegWrite) (r : Reg), plain r = true → onto x r → Writes s x.master r x.val →
    ∃ t, exec (.registerWrite ⟨[x], []⟩) s = .next t ∧ took s t r x.val ∧ OnlyRegs (offs [r]) (others s t) t) ∧
  (∀ (s : State) (x : RegWrite) (r : Reg) (hw : List HwUpdate), (plain r = true ∨ ∃ d, r = .KVX_DEST_CFG d ∧
      s.get r KVX_DEST_CFG.ENABLE = 1 ∧ KVX_DEST_CFG.ENABLE.get x.val = 1) → onto x r →
    s.isOut 4 = false → s.hostGone x.master = false → Reg.ofOff r.off = some r → s.writeRight x.master r.off = eOk →
    s.noFunc r = false → let il := Reg.bits r [.il]
    hw = [] ∧ s.ilKept r r.off 8 = il ∧ il ≠ 0 ∨ hw = [.leavesIdle x.off] ∧ il ≠ 0 →
    s.writeErr x.master r ((regNew r (s.stored r) x.val &&& ~~~il) ||| (s.stored r &&& il)) = eOk →
    ∃ t, exec (.registerWrite ⟨[x], hw⟩) s = .next t ∧
      (∀ f ∈ r.flds, f.ty = .il → t.get r f = s.get r f) ∧ (∀ f ∈ r.flds, f.ty = .rw → t.get r f = f.get x.val) ∧
      OnlyRegs (offs [r]) (s.accResult x.master r.off eCfgLocked) t) ∧
  (∀ (s : State) (x : RegWrite) (r : Reg), onto x r → Writes s x.master r x.val →
    (∀ bits, r = .MGMT_ALERT → ∃ t, exec (.registerWrite ⟨[x], [.sets x.off bits]⟩) s = .next t ∧
      ∀ f ∈ r.flds, t.get r f = f.get ((s.rd r &&& ~~~x.val) ||| bits)) ∧
    (∀ h, r = .HBM_ECC h → HBM_ECC.CLEAR.get x.val = 1 →
      ∃ t, exec (.registerWrite ⟨[x], [.counts x.off HBM_ECC.CORR.mask]⟩) s = .next t ∧ t.get r HBM_ECC.CORR = 1 ∧
        t.get r HBM_ECC.REREAD_OK = 0 ∧ t.get r HBM_ECC.POISONED = 0) ∧
    (r = .PERF_BW_CFG → ∃ t, exec (.registerWrite ⟨[x], [.boundary x.off]⟩) s = .next t ∧
      (∀ f ∈ r.flds, t.get r f = f.get x.val) ∧ Tab.get regReset t.live r.off = s.rd r)) ∧
  (∀ (s : State) (x : RegWrite), s.hostGone x.master = false → accessOk x.master x.off.toNat x.size = true → s.isOut 4 = true →
    exec (.registerWrite ⟨[x], []⟩) s = .next (s.accResult x.master x.off.toNat eUncorrectable)) ∧
  (∀ (s : State) (x : RegWrite), x.size = 8 → x.off.toNat % 8 = 0 → s.isOut 4 = false → s.hostGone x.master = false →
    aliasOf x.off.toNat = x.off.toNat →
    (s.writeRight x.master x.off.toNat = eCfgLocked →
      exec (.registerWrite ⟨[x], []⟩) s = .next (s.accResult x.master x.off.toNat eCfgLocked)) ∧
    (Reg.ofOff x.off.toNat = none → s.writeRight x.master x.off.toNat = eOk →
      exec (.registerWrite ⟨[x], []⟩) s = .next (s.accResult x.master x.off.toNat eOk)) ∧
    (∀ r, onto x r → Reg.ofOff r.off = some r → s.writeRight x.master r.off = eOk → s.noFunc r = false →
      let kept := s.ilKept r r.off 8
      let e := s.writeErr x.master r ((regNew r (s.stored r) x.val &&& ~~~kept) ||| (s.stored r &&& kept))
      e ≠ eOk → exec (.registerWrite ⟨[x], []⟩) s = .next (s.accResult x.master x.off.toNat e))) ∧
  (∀ (s : State) (code off : Nat), code < 256 → code ≠ eOk → off < 2 ^ 26 → s.accResult .reeve off code = s ∧
    s.accResult .mgmt off code = { s with mgmtStatus := code } ∧ s.accResult .tap off code = { s with tapStatus := code } ∧
    ∀ f : FuncId, let t := s.accResult (.host f) off code
      t.get (.HOST_ACC f) HOST_ACC.VALID = 1 ∧ t.get (.HOST_ACC f) HOST_ACC.ERR = code ∧
      t.get (.HOST_ACC f) HOST_ACC.OFFSET = off ∧ t.get (.HOST_ACC f) HOST_ACC.BAR2 = 0 ∧ OnlyRegs (offs [.HOST_ACC f]) s t) ∧
  (∀ (s : State) (x y : RegWrite), x.master = .mgmt → y.master = .host 0 → onto x .PWR_CTRL →
    Writes s .mgmt .PWR_CTRL x.val →
    (onto y .PWR_CTRL → Writes s (.host 0) .PWR_CTRL y.val → ∃ t, exec (.registerWrite ⟨[x, y], []⟩) s = .next t ∧
      exec (.registerWrite ⟨[y, x], []⟩) s = .next t ∧ took s t .PWR_CTRL x.val ∧ t.mgmtStatus = eOk ∧
      t.get (.HOST_ACC 0) HOST_ACC.VALID = 1 ∧ t.get (.HOST_ACC 0) HOST_ACC.ERR = eLostRace ∧
      t.get (.HOST_ACC 0) HOST_ACC.OFFSET = (Reg.PWR_CTRL).off ∧
      OnlyRegs (offs [.PWR_CTRL, .HOST_ACC 0]) { s with mgmtStatus := eOk } t) ∧
    (onto y .PERF_FUNC → Writes s (.host 0) .PERF_FUNC y.val → ∃ t, exec (.registerWrite ⟨[x, y], []⟩) s = .next t ∧
      took s t .PWR_CTRL x.val ∧ took s t .PERF_FUNC y.val ∧
      OnlyRegs (offs [.PWR_CTRL, .PERF_FUNC]) { s with mgmtStatus := eOk } t)) ∧
  ∀ (s : State) (m : Master) (r : Reg) (b : Block) (i : Nat), Reg.ofOff r.off = some r → Block.ofOff r.off = some (b, i) →
    aliasOf r.off = r.off → r.off % 8 = 0 →
    s.busRead m r.off = (if s.isOut 4 then (0, eUncorrectable) else if s.reaches m r.off b (some r) false then (s.view r &&& ~~~Reg.bits r [.wo], eOk) else (0, eCfgLocked))

/-- Setting EN starts the dump at record 0 with its first period applied, and the trace; a snapshot stores its record
in its slot, or is missed; a sample records one of its candidates and interrupts; a window's end shows bytes and
rates, frozen ones hold; each CLEAR zeroes its register, PWR_STAT's also every droop count; VALID of HOST_ACC written
1 clears it and COUNT. (R564, R584, R595, R605, R610, R611, R612, R613, R614, R615, R616, R619) -/
def Obligations.CountersRun : Prop :=
  let others := fun (s t : State) => { s with mgmtStatus := t.mgmtStatus, tapStatus := t.tapStatus }
  (∀ (s : State) (m : Master) (val : W64),
    (s.get .PERF_DUMP_CFG PERF_DUMP_CFG.EN = 0 → Writes s m .PERF_DUMP_CFG (withBit PERF_DUMP_CFG.EN val true) →
      ∃ t, exec (.dumpEnable m val) s = .next t ∧ t.get .PERF_DUMP_CFG PERF_DUMP_CFG.EN = 1 ∧ t.dumpSeq = 0 ∧
        t.get .PERF_DUMP_STAT PERF_DUMP_STAT.SEQ = 0 ∧
        t.get .PERF_DUMP_CFG PERF_DUMP_CFG.SLOTS = PERF_DUMP_CFG.SLOTS.get val ∧
        t.getLive .PERF_DUMP_CFG PERF_DUMP_CFG.PERIOD_US = PERF_DUMP_CFG.PERIOD_US.get val ∧
        OnlyRegs (offs [.PERF_DUMP_CFG, .PERF_DUMP_STAT]) { others s t with dumpSeq := 0 } t) ∧
    (Writes s m .PERF_TRACE_CFG (withBit PERF_TRACE_CFG.EN val true) →
      ∃ t, exec (.traceEnable m val) s = .next t ∧ t.get .PERF_TRACE_CFG PERF_TRACE_CFG.EN = 1 ∧
        t.get .PERF_TRACE_CFG PERF_TRACE_CFG.SLOTS = PERF_TRACE_CFG.SLOTS.get val ∧
        t.get .PERF_TRACE_CFG PERF_TRACE_CFG.HEAD = s.get .PERF_TRACE_CFG PERF_TRACE_CFG.HEAD ∧
        OnlyRegs (offs [.PERF_TRACE_CFG]) (others s t) t)) ∧
  (∀ s : State, s.get .PERF_DUMP_CFG PERF_DUMP_CFG.EN = 1 →
    let a := s.get .PERF_DUMP_BASE PERF_DUMP_BASE.BASE * 4096 +
      s.dumpSeq % max 1 (s.get .PERF_DUMP_CFG PERF_DUMP_CFG.SLOTS) * 5248
    (∃ t, exec (.dumpSnapshot false) s = .next t ∧ t.bytes a 5248 = s.dumpRecord ∧ BytesKept a 5248 s t ∧
      t.dumpSeq = s.dumpSeq + 1 ∧ t.get .PERF_DUMP_STAT PERF_DUMP_STAT.SEQ = (s.dumpSeq + 1) % 2 ^ 32 ∧
      t.get .PERF_DUMP_STAT PERF_DUMP_STAT.MISSED = s.get .PERF_DUMP_STAT PERF_DUMP_STAT.MISSED) ∧
    (∃ t, exec (.dumpSnapshot true) s = .next t ∧ t.mem = s.mem ∧ t.dumpSeq = s.dumpSeq + 1 ∧
      t.get .PERF_DUMP_STAT PERF_DUMP_STAT.MISSED =
        min PERF_DUMP_STAT.MISSED.max (s.get .PERF_DUMP_STAT PERF_DUMP_STAT.MISSED + 1) ∧
      OnlyRegs (offs [.PERF_DUMP_STAT, .PERF_DUMP_CFG]) { s with dumpSeq := s.dumpSeq + 1 } t) ∧
    (s.dumpRecord.length = 5248 ∧ leNat (s.dumpRecord.take 4) = 0x4C565044 ∧
      leNat ((s.dumpRecord.drop 8).take 8) = s.dumpSeq % 2 ^ 64 ∧ leNat ((s.dumpRecord.drop 16).take 8) = s.now.toNat ∧
      ∀ u i, u < 38 → i < 16 →
        leNat ((s.dumpRecord.drop (64 + 128 * u + 8 * i)).take 8) = s.get (.PERF_VALUE u i) PERF_VALUE.COUNT)) ∧
  (∀ (s : State) (u i : Fin 16) (time : Nat) (cands : List (Nat × Nat)),
    (s.vat u).samples.find? (fun y => y.1 = i.val) = some (i.val, time, cands) → cands ≠ [] →
    ∃ t, exec (.perfSample u i) s = .next t ∧
      (∃ x ∈ cands, t.get (.PERF_SAMPLE u) PERF_SAMPLE.PC = x.1 % 2 ^ 14 ∧ t.get (.PERF_SAMPLE u) PERF_SAMPLE.CTX = x.2 % 4) ∧
      t.get (.PERF_SAMPLE u) PERF_SAMPLE.CTR = i ∧ t.get (.PERF_SAMPLE u) PERF_SAMPLE.VALID = 1 ∧
      t.rd (.PERF_SAMPLE_TIME u) = BitVec.ofNat 64 time ∧ t.sent = s.sent ++ [.reeveIrq clsVat u] ∧ t.free = s.free + 1 ∧
      (∀ y ∈ (t.vat u).samples, y.1 ≠ i.val) ∧
      t.get .PERF_TRACE_CFG PERF_TRACE_CFG.HEAD = (if s.get .PERF_TRACE_CFG PERF_TRACE_CFG.EN = 1
        then (s.get .PERF_TRACE_CFG PERF_TRACE_CFG.HEAD + 1) % 2 ^ 32 else s.get .PERF_TRACE_CFG PERF_TRACE_CFG.HEAD)) ∧
  (∀ s : State,
    (s.get .PERF_CTL PERF_CTL.FREEZE = 1 → exec .bwWindowEnd s = .next s) ∧
    (s.get .PERF_CTL PERF_CTL.FREEZE = 0 → let us := max 1 (s.getLive .PERF_BW_CFG PERF_BW_CFG.WIN_US)
      ∃ t, exec .bwWindowEnd s = .next t ∧ t.bw = [] ∧
        t.getLive .PERF_BW_CFG PERF_BW_CFG.WIN_US = s.get .PERF_BW_CFG PERF_BW_CFG.WIN_US ∧
        (∀ p, p < 18 → s.get (.THR_PORT_CFG p) THR_PORT_CFG.MODE ≠ 2 →
          let tx := Tab.get (fun _ => 0) s.bw (2 * p)
          let rx := Tab.get (fun _ => 0) s.bw (2 * p + 1)
          t.get (.PERF_BW_TX p) PERF_BW_TX.BYTES = tx % 2 ^ 40 ∧ t.get (.PERF_BW_RX p) PERF_BW_RX.BYTES = rx % 2 ^ 40 ∧
          t.get (.PERF_BW_TX p) PERF_BW_TX.RATE = tx / (us * 100) % 2 ^ 16 ∧
          t.get (.PERF_BW_RX p) PERF_BW_RX.RATE = rx / (us * 100) % 2 ^ 16) ∧
        OnlyRegs (fun o => o = (Reg.PERF_BW_CFG).off ∨ (∃ p, p < 18 ∧ (o = (Reg.PERF_BW_TX p).off ∨ o = (Reg.PERF_BW_RX p).off)))
          { s with bw := [], free := t.free } t)) ∧
  (∀ (s : State) (m : Master),
    let cleared := fun (c : Instr) (r : Reg) (f : Fld) =>
      Writes s m r f.mask → exec c s = .next ((s.wr r 0).afterWrite m r)
    cleared (.dnetErrClear m) .GLB_DNET_ERR GLB_DNET_ERR.CLEAR ∧
    (∀ v : VatId, cleared (.chkStatClear m v) (.VAT_CHK_STAT v) VAT_CHK_STAT.CLEAR ∧
      cleared (.eccStatClear m v) (.VAT_ECC_STAT v) VAT_ECC_STAT.CLEAR ∧
      cleared (.cellarErrClear m v) (.CELLAR_ERR_STAT v) CELLAR_ERR_STAT.CLEAR ∧
      cleared (.skimStatClear m v) (.SKIM_STAT v) SKIM_STAT.CLEAR) ∧
    cleared (.kvxStatClear m) .KVX_STAT KVX_STAT.CLEAR ∧
    cleared (.pfxStatClear m false) .PFX_STAT PFX_STAT.CLEAR ∧
    cleared (.pfxStatClear m true) .PFX_SPILL_STAT PFX_SPILL_STAT.CLEAR ∧
    (∀ p : PortId, cleared (.thrPortErrClear m p) (.THR_PORT_ERR p) THR_PORT_ERR.CLEAR) ∧
    cleared (.sheafStatClear m) .SHEAF_STAT SHEAF_STAT.CLEAR ∧
    (∀ h : StackId, cleared (.hbmEccClear m h) (.HBM_ECC h) HBM_ECC.CLEAR) ∧
    (∀ f : FuncId, Writes s m (.HOST_ACC f) HOST_ACC.VALID.mask → exec (.hostAccClear m f) s =
      .next ((s.wr (.HOST_ACC f) (HOST_ACC.COUNT.put (HOST_ACC.VALID.put (s.rd (.HOST_ACC f)) 0) 0)).afterWrite m (.HOST_ACC f))) ∧
    (Writes s m .PWR_STAT PWR_STAT.CLEAR.mask → ∃ t, exec (.pwrStatClear m) s = .next t ∧ t.rd .PWR_STAT = 0 ∧
      (∀ i, i < 65 → t.rd (.PWR_DROOP i) = 0) ∧
      OnlyRegs (fun o => o = (Reg.PWR_STAT).off ∨ ∃ i, i < 65 ∧ o = (Reg.PWR_DROOP i).off) (others s t) t))

/-- A lasting fault of the Thresher core, KVX, PFX, the host, the register bus or the always-on island sets the unit's
bit of ERR_DEGRADED.OUT, alerts and is logged with CAPACITY_DEGRADED; every live request that needs the unit fails
UNCORRECTABLE and the others stay; a unit already out is lost once. (The class and the unit number of the entry are
the model's choice, log 135.) (R518, R520, R542) -/
def Obligations.UnitsAreLost : Prop :=
  ∀ (s : State) (u : OutUnit),
    (s.isOut (outBit u) = true → exec (.registerWrite ⟨[], [.unitLost u]⟩) s = .next s) ∧
    (s.isOut (outBit u) = false → ∃ t, exec (.registerWrite ⟨[], [.unitLost u]⟩) s = .next t ∧ t.isOut (outBit u) = true ∧
      (∀ k, k < 6 → k ≠ outBit u → t.isOut k = s.isOut k) ∧ t.get .MGMT_ALERT MGMT_ALERT.DEGRADED = 1 ∧
      (LogFree s → (∀ i ∈ s.liveReqs, (s.req i).needs (outBit u) = false) →
        Logged s t eCapacityDegraded (outClass u) (outBit u) ∧ t.reqs = s.reqs ∧ t.mem = s.mem ∧ t.vats = s.vats) ∧
      (∀ i, (s.liveReqs.filter fun i => (s.req i).needs (outBit u)) = [i] → Alone s i →
        (t.req i).st = qsFailed ∧ (t.req i).err = eUncorrectable ∧ ∀ j ∈ s.liveReqs, j ≠ i → (t.req j).st = (s.req j).st))

/-- A token's routing record is 64 bytes from which its experts and weights read back, unused slots holding 0xFFFF;
gating picks at most K different experts, with weight 1 for an infinite largest logit, and the Vats' shares of the
tokens make up the pass; dispatch takes the selected experts in ascending order, each with exactly its tokens in
ascending order; a token's output sums its products in rank order, each rounded once. (R392, R393, R394, R395) -/
def Obligations.ExpertsRoute : Prop :=
  (∀ l : List (Nat × W32), l.length ≤ 8 → (∀ x ∈ l, x.1 < 0xFFFF) → (routeRecord l).length = 64 ∧
    routeRead (routeRecord l) = l ∧
    (∀ i, i < l.length → dfield (routeRecord l) (8 * i) 2 = (l.getD i (0, 0)).1 ∧ dfield (routeRecord l) (8 * i + 2) 2 = 0 ∧
      dfield (routeRecord l) (8 * i + 4) 4 = (l.getD i (0, 0)).2.toNat) ∧
    ∀ i, l.length ≤ i → i < 8 → dfield (routeRecord l) (8 * i) 8 = 0xFFFF) ∧
  (∀ (k : Nat) (g : List W32), g.length < 2 ^ 32 → (gate k g).length ≤ k ∧ ((gate k g).map Prod.fst).Nodup ∧
    (∀ x ∈ gate k g, x.1 < g.length ∧ (f32 (g.getD x.1 0)).isNan = false ∧ g.getD x.1 0 ≠ f32NegInf) ∧
    (∀ e, e < g.length → (f32 (g.getD e 0)).isNan = false → g.getD e 0 ≠ f32NegInf → (gate k g).length < k →
      e ∈ (gate k g).map Prod.fst) ∧
    ∀ x r, gate k g = x :: r → g.getD x.1 0 = f32Inf → x.2 = f32One ∧ ∀ y ∈ r, y.2 = 0) ∧
  (∀ n m : Nat, n ≠ 0 → (List.range n).flatMap (fun v => gateShare n v m) = List.range m) ∧
  (∀ (n : Nat) (recs : List (List Byte)), ((routeDispatch n recs).map Prod.fst).Pairwise (· < ·) ∧
    (∀ x ∈ routeDispatch n recs, x.2 ≠ [] ∧ x.2.Pairwise (· < ·)) ∧
    ∀ e t, e < n → ((∃ g, (e, g) ∈ routeDispatch n recs ∧ t ∈ g) ↔
      t < recs.length ∧ e ∈ (routeRead (recs.getD t [])).map Prod.fst)) ∧
  (∀ x : W32 × W32, routeSum [x] = some (fMul x.1 x.2).1) ∧
  ∀ (x y : W32 × W32) (l : List (W32 × W32)) (a : W32), routeSum (x :: l) = some a →
    routeSum (x :: (l ++ [y])) = some (fAdd a (fMul y.1 y.2).1).1
end

