-- ==== Sys2Proof/Laws/Tab.lean ====
section
/-! SUPPORT. Laws of the sparse tables: reading after writing, and the canonical form every write keeps. -/

namespace Sys2Proof.Machine

variable {α : Type}

theorem Tab.get_put_same (d : Nat → α) (t : Tab α) (k : Nat) (x : α) : Tab.get d (Tab.put t k x) k = x := by
  induction t with
  | nil => simp [Tab.put, Tab.get]
  | cons p t ih =>
    obtain ⟨j, y⟩ := p
    simp only [Tab.put]
    split
    · simp [Tab.get]
    · split
      · simp [Tab.get]
      · simp [Tab.get, *]

theorem Tab.get_put_other (d : Nat → α) (t : Tab α) (k j : Nat) (x : α) (h : j ≠ k) :
    Tab.get d (Tab.put t k x) j = Tab.get d t j := by
  induction t with
  | nil => simp [Tab.put, Tab.get, h.symm]
  | cons p t ih =>
    obtain ⟨i, y⟩ := p
    simp only [Tab.put]
    split
    · next e => subst e; simp [Tab.get, h.symm]
    · split
      · simp [Tab.get, h.symm]
      · simp [Tab.get, ih]

theorem Tab.get_del_same (d : Nat → α) (t : Tab α) (k : Nat) : Tab.get d (Tab.del t k) k = d k := by
  induction t with
  | nil => rfl
  | cons p t ih =>
    obtain ⟨i, y⟩ := p
    by_cases e : i = k
    · simpa [Tab.del, List.filter_cons, e] using ih
    · simpa [Tab.del, List.filter_cons, e, Tab.get] using ih

theorem Tab.get_del_other (d : Nat → α) (t : Tab α) (k j : Nat) (h : j ≠ k) :
    Tab.get d (Tab.del t k) j = Tab.get d t j := by
  induction t with
  | nil => rfl
  | cons p t ih =>
    obtain ⟨i, y⟩ := p
    by_cases e : i = k
    · subst e; simpa [Tab.del, Tab.get, h.symm] using ih
    · simp only [Tab.del] at ih
      simp only [Tab.del, List.filter_cons, ne_eq, e, not_false_eq_true, decide_true, if_true, Tab.get, ih]

/-- A read after a write to the same key gives the value written. -/
theorem Tab.get_set_same [DecidableEq α] (d : Nat → α) (t : Tab α) (k : Nat) (x : α) :
    Tab.get d (Tab.set d t k x) k = x := by
  unfold Tab.set; split
  · next e => rw [Tab.get_del_same, e]
  · exact Tab.get_put_same ..

/-- A write leaves every other key alone. -/
theorem Tab.get_set_other [DecidableEq α] (d : Nat → α) (t : Tab α) (k j : Nat) (x : α) (h : j ≠ k) :
    Tab.get d (Tab.set d t k x) j = Tab.get d t j := by
  unfold Tab.set; split
  · exact Tab.get_del_other _ _ _ _ h
  · exact Tab.get_put_other _ _ _ _ _ h

theorem Tab.get_set [DecidableEq α] (d : Nat → α) (t : Tab α) (k j : Nat) (x : α) :
    Tab.get d (Tab.set d t k x) j = if j = k then x else Tab.get d t j := by
  split
  · next e => rw [e]; exact Tab.get_set_same ..
  · next e => exact Tab.get_set_other _ _ _ _ _ e

/-- A run of writes reaches only its own keys. -/
theorem Tab.get_setAll_other [DecidableEq α] (d : Nat → α) (xs : List α) (t : Tab α) (k j : Nat)
    (h : j < k ∨ k + xs.length ≤ j) : Tab.get d (Tab.setAll d t k xs) j = Tab.get d t j := by
  induction xs generalizing t k with
  | nil => rfl
  | cons x xs ih =>
    simp only [Tab.setAll, List.length_cons] at *
    rw [ih _ _ (by omega), Tab.get_set_other _ _ _ _ _ (by omega)]

/-- A run of writes read back gives the values written. -/
theorem Tab.getAll_setAll [DecidableEq α] (d : Nat → α) (xs : List α) (t : Tab α) (k : Nat) :
    Tab.getAll d (Tab.setAll d t k xs) k xs.length = xs := by
  induction xs generalizing t k with
  | nil => rfl
  | cons x xs ih =>
    simp only [Tab.setAll, List.length_cons, Tab.getAll]
    rw [ih, Tab.get_setAll_other _ _ _ _ _ (by omega), Tab.get_set_same]

theorem Tab.get_clear_out (d : Nat → α) (lo hi : Nat) (t : Tab α) (k : Nat) (h : k < lo ∨ hi ≤ k) :
    Tab.get d (Tab.clear lo hi t) k = Tab.get d t k := by
  induction t with
  | nil => rfl
  | cons p t ih =>
    obtain ⟨i, y⟩ := p
    simp only [Tab.clear] at ih
    by_cases e : i < lo ∨ hi ≤ i
    · simp [Tab.clear, e, Tab.get, ih]
    · have : i ≠ k := by omega
      simp [Tab.clear, e, Tab.get, ih, this]

theorem Tab.get_clear_in (d : Nat → α) (lo hi : Nat) (t : Tab α) (k : Nat) (h1 : lo ≤ k) (h2 : k < hi) :
    Tab.get d (Tab.clear lo hi t) k = d k := by
  induction t with
  | nil => rfl
  | cons p t ih =>
    obtain ⟨i, y⟩ := p
    simp only [Tab.clear] at ih
    by_cases e : i < lo ∨ hi ≤ i
    · have : i ≠ k := by omega
      simp [Tab.clear, e, Tab.get, ih, this]
    · simp [Tab.clear, e, ih]

/-! The canonical form. -/

theorem Tab.above_le (t : Tab α) (b c : Nat) (hb : c ≤ b) (h : Tab.above b t = true) : Tab.above c t = true := by
  cases t with
  | nil => rfl
  | cons p t =>
    obtain ⟨i, y⟩ := p
    simp only [Tab.above, Bool.and_eq_true, decide_eq_true_eq] at h ⊢
    exact ⟨by omega, h.2⟩

theorem Tab.above_put (t : Tab α) (b k : Nat) (x : α) (hb : b < k) (h : Tab.above b t = true) :
    Tab.above b (Tab.put t k x) = true := by
  induction t generalizing b with
  | nil => simp [Tab.put, Tab.above, hb]
  | cons p t ih =>
    obtain ⟨i, y⟩ := p
    simp only [Tab.above, Bool.and_eq_true, decide_eq_true_eq] at h
    simp only [Tab.put]
    split
    · next e => subst e; simp [Tab.above, hb, h]
    · split
      · next e => simp [Tab.above, hb, h, e]
      · simp [Tab.above, h, ih i (by omega) h.2]

theorem Tab.above_filter (t : Tab α) (b : Nat) (f : Nat × α → Bool) (h : Tab.above b t = true) :
    Tab.above b (t.filter f) = true := by
  induction t generalizing b with
  | nil => rfl
  | cons p t ih =>
    obtain ⟨i, y⟩ := p
    simp only [Tab.above, Bool.and_eq_true, decide_eq_true_eq] at h
    rw [List.filter_cons]
    split
    · simp [Tab.above, h, ih i h.2]
    · exact ih b (Tab.above_le _ _ _ (by omega) h.2)

theorem Tab.rising_of_above (t : Tab α) (b : Nat) (h : Tab.above b t = true) : Tab.rising t = true := by
  cases t with
  | nil => rfl
  | cons p t =>
    simp only [Tab.above, Bool.and_eq_true] at h
    exact h.2

theorem Tab.wf_filter [DecidableEq α] (d : Nat → α) (t : Tab α) (f : Nat × α → Bool)
    (h : Tab.wf d t = true) : Tab.wf d (t.filter f) = true := by
  induction t with
  | nil => rfl
  | cons p t ih =>
    obtain ⟨i, y⟩ := p
    simp only [Tab.wf, Tab.rising, Tab.lean, Bool.and_eq_true] at h
    have ht := ih (by simp [Tab.wf, h, Tab.rising_of_above _ _ h.1])
    simp only [Tab.wf, Bool.and_eq_true] at ht
    rw [List.filter_cons]
    split
    · simp [Tab.wf, Tab.rising, Tab.lean, h, ht, Tab.above_filter]
    · simp [Tab.wf, ht]

theorem Tab.wf_put [DecidableEq α] (d : Nat → α) (t : Tab α) (k : Nat) (x : α) (hx : x ≠ d k)
    (h : Tab.wf d t = true) : Tab.wf d (Tab.put t k x) = true := by
  induction t with
  | nil => simp [Tab.put, Tab.wf, Tab.rising, Tab.lean, Tab.above, hx]
  | cons p t ih =>
    obtain ⟨i, y⟩ := p
    simp only [Tab.wf, Tab.rising, Tab.lean, Bool.and_eq_true] at h
    have ht := ih (by simp [Tab.wf, h, Tab.rising_of_above _ _ h.1])
    simp only [Tab.wf, Bool.and_eq_true] at ht
    simp only [Tab.put]
    split
    · next e => subst e; simp [Tab.wf, Tab.rising, Tab.lean, h, hx]
    · split
      · next e => simp [Tab.wf, Tab.rising, Tab.lean, Tab.above, h, hx, e]
      · next e e' =>
        have := Tab.above_put t i k x (by omega) h.1
        simp [Tab.wf, Tab.rising, Tab.lean, this, h, ht]

/-- Every write keeps the canonical form. -/
theorem Tab.wf_set [DecidableEq α] (d : Nat → α) (t : Tab α) (k : Nat) (x : α)
    (h : Tab.wf d t = true) : Tab.wf d (Tab.set d t k x) = true := by
  unfold Tab.set; split
  · exact Tab.wf_filter _ _ _ h
  · next e => exact Tab.wf_put _ _ _ _ e h

theorem Tab.wf_setAll [DecidableEq α] (d : Nat → α) (xs : List α) (t : Tab α) (k : Nat)
    (h : Tab.wf d t = true) : Tab.wf d (Tab.setAll d t k xs) = true := by
  induction xs generalizing t k with
  | nil => exact h
  | cons x xs ih => exact ih _ _ (Tab.wf_set _ _ _ _ h)

theorem Tab.wf_clear [DecidableEq α] (d : Nat → α) (t : Tab α) (lo hi : Nat)
    (h : Tab.wf d t = true) : Tab.wf d (Tab.clear lo hi t) = true := Tab.wf_filter _ _ _ h

theorem Tab.wf_foldl [DecidableEq α] {β : Type} (d : Nat → α) (f : Tab α → β → Tab α)
    (hf : ∀ t b, Tab.wf d t = true → Tab.wf d (f t b) = true) (l : List β) (t : Tab α)
    (h : Tab.wf d t = true) : Tab.wf d (l.foldl f t) = true := by
  induction l generalizing t with
  | nil => exact h
  | cons b l ih => exact ih _ (hf _ _ h)

theorem Tab.wf_nil [DecidableEq α] (d : Nat → α) : Tab.wf d ([] : Tab α) = true := rfl

end Sys2Proof.Machine
end

