-- ==== Sys2Proof/Laws/KeepOps.lean ====
section
/-! SUPPORT. What the shared operations of Ops, Kill, Counters, Pfx, ReqTable, PartReset, Log, Operands and Flags keep: the queue, and the canonical form of the registers
and of every memory. -/

namespace Sys2Proof.Machine

/-- The queue is `P` and the tables are canonical. -/
structure Good (P : List Instr) (s : State) : Prop where
  pend : s.pending = P
  regs : Tab.wf regReset s.regs = true
  live : Tab.wf regReset s.live = true
  mem : Tab.wf zeroByte s.mem = true
  poison : Tab.wf noBit s.poison = true
  host : Tab.wf zeroByte s.host = true
  flash : Tab.wf flashByte s.flash = true
  sram : Tab.wf zeroByte s.sram = true
  prog : Tab.wf zero128 s.prog = true
  curd : Tab.wf zero32 s.curd = true

theorem Good.ite {P : List Instr} {c : Prop} [Decidable c] {a b : State} (ha : Good P a) (hb : Good P b) :
    Good P (if c then a else b) := by split <;> assumption

theorem Good.foldl {P : List Instr} {β : Type} {f : State → β → State} {l : List β} {s : State} (h : Good P s)
    (hf : ∀ s b, Good P s → Good P (f s b)) : Good P (l.foldl f s) := by
  induction l generalizing s with
  | nil => exact h
  | cons b l ih => exact ih (hf _ _ h)

/-- A fold over a pair or a structure that carries a state. -/
theorem Good.fold {P : List Instr} {α β : Type} (g : α → State) {f : α → β → α} {l : List β} {a : α} (h : Good P (g a))
    (hf : ∀ a b, Good P (g a) → Good P (g (f a b))) : Good P (g (l.foldl f a)) := by
  induction l generalizing a with
  | nil => exact h
  | cons b l ih => exact ih (hf _ _ h)

theorem Good.fst {P : List Instr} {α : Type} {x : State × α} {t : State} {a : α} (e : x = (t, a)) (h : Good P x.1) : Good P t := by
  subst e; exact h

theorem Good.snd {P : List Instr} {α : Type} {x : α × State} {t : State} {a : α} (e : x = (a, t)) (h : Good P x.2) : Good P t := by
  subst e; exact h

theorem Good.mid {P : List Instr} {α β : Type} {x : α × β × State} {t : State} {a : α} {b : β} (e : x = (a, b, t))
    (h : Good P x.2.2) : Good P t := by
  subst e; exact h

/-- An update that touches neither the queue nor these tables. -/
theorem Good.lit {P : List Instr} {s : State} {xpending : List Instr} {xregs : Tab W64} {xlive : Tab W64} {xmem : Tab Byte} {xpoison : Tab Bool} {xhost : Tab Byte} {xflash : Tab Byte} {xsram : Tab Byte} {xprog : Tab (BitVec 128)} {xcurd : Tab W32} {xvats : Tab VatX} {xdirty : Tab Dirty} {xwithdrawn : List (Nat × Nat)} {xclaims : List Claim} {xstreams : Tab Stream} {xtags : List TagUse} {xtagWait : List Nat} {xtagTurn : Nat} {xdnet : List DPkt} {xgets : List GetEntry} {xlayout : Layout} {xmsi : Tab Msi} {xports : Tab PortX} {xbreaks : List (Nat × Nat)} {xsent : List Sent} {xretired : List W64} {xgeom : Geom} {xreqs : Tab ReqX} {xpasses : List Pass} {xpackDue : List (Nat × Nat)} {xclosed : List Nat} {xorder : Nat} {xdests : Tab DestX} {xpfcPaused : List Nat} {xtenant : Tab (BitVec 128)} {xfills : List (Nat × Nat × Nat)} {xbudgetRem : Tab Nat} {xduty : Tab Nat} {xdutyWant : List (Nat × Nat)} {xmboxFunc : Nat} {xgetRetry : List Nat} {xbpresLost : List Nat} {xslowBy : Nat} {xnumVfs : Nat} {xvfEnable : Bool} {xrings : Tab Ring} {xringTurn : Nat} {xshWin : Tab W64} {xlaunches : List Launch} {xops : List ShOp} {xmsixTab : Tab Byte} {xboot : Boot} {xdoms : List Domain} {xrelaying : Option Relay} {xsec : Sec} {xpwr : Pwr} {xpcFailed : Tab (Option Nat)} {xlastSync : Nat} {xstepped : Bool} {xmgmtStatus : Nat} {xtapStatus : Nat} {xtapData : W64} {xtapUnlocked : Bool} {xregOut : List Pkt} {xbw : Tab Nat} {xdumpSeq : Nat} {xfree : Nat}
    (hpending : xpending = s.pending) (hregs : xregs = s.regs) (hlive : xlive = s.live) (hmem : xmem = s.mem) (hpoison : xpoison = s.poison) (hhost : xhost = s.host) (hflash : xflash = s.flash) (hsram : xsram = s.sram) (hprog : xprog = s.prog) (hcurd : xcurd = s.curd)
    (h : Good P s) : Good P ⟨xpending, xregs, xlive, xmem, xpoison, xhost, xflash, xsram, xprog, xcurd, xvats, xdirty, xwithdrawn, xclaims, xstreams, xtags, xtagWait, xtagTurn, xdnet, xgets, xlayout, xmsi, xports, xbreaks, xsent, xretired, xgeom, xreqs, xpasses, xpackDue, xclosed, xorder, xdests, xpfcPaused, xtenant, xfills, xbudgetRem, xduty, xdutyWant, xmboxFunc, xgetRetry, xbpresLost, xslowBy, xnumVfs, xvfEnable, xrings, xringTurn, xshWin, xlaunches, xops, xmsixTab, xboot, xdoms, xrelaying, xsec, xpwr, xpcFailed, xlastSync, xstepped, xmgmtStatus, xtapStatus, xtapData, xtapUnlocked, xregOut, xbw, xdumpSeq, xfree⟩ := by
  subst hpending hregs hlive hmem hpoison hhost hflash hsram hprog hcurd
  exact ⟨h.pend, h.regs, h.live, h.mem, h.poison, h.host, h.flash, h.sram, h.prog, h.curd⟩

theorem Good.mid1 {P : List Instr} {α β : Type} {x : α × State × β} {t : State} {a : α} {b : β} (e : x = (a, t, b))
    (h : Good P x.2.1) : Good P t := by
  subst e; exact h

theorem Good.accfst {P : List Instr} {α : Type} {x : Acc × α} {t : Acc} {a : α} (e : x = (t, a)) (h : Good P x.1.s) : Good P t.s := by
  subst e; exact h

theorem Good.accsnd {P : List Instr} {α : Type} {x : α × Acc} {t : Acc} {a : α} (e : x = (a, t)) (h : Good P x.2.s) : Good P t.s := by
  subst e; exact h


theorem State.wr_good {P : List Instr} {s : State} (h : Good P s) (r : Reg) (x : W64) :
    Good P (State.wr s r x) := by
  unfold State.wr
  with_reducible (repeat' (first
      | assumption | apply Good.pend | apply Good.regs (P := P) | apply Good.live (P := P) | apply Good.mem (P := P)
      | apply Good.poison (P := P) | apply Good.host (P := P) | apply Good.flash (P := P) | apply Good.sram (P := P)
      | apply Good.prog (P := P) | apply Good.curd (P := P) | apply Tab.wf_set
      | ((refine ⟨?_, ?_, ?_, ?_, ?_, ?_, ?_, ?_, ?_, ?_⟩) <;> dsimp only)))

theorem State.load_good {P : List Instr} {s : State} (h : Good P s) (r : Reg) (x : W64) :
    Good P (State.load s r x) := by
  unfold State.load
  with_reducible (repeat' (first | assumption | apply State.wr_good))

theorem State.put_good {P : List Instr} {s : State} (h : Good P s) (r : Reg) (f : Fld) (n : Nat) :
    Good P (State.put s r f n) := by
  unfold State.put
  with_reducible (repeat' (first | assumption | apply State.wr_good))

theorem State.bump_good {P : List Instr} {s : State} (h : Good P s) (r : Reg) (f : Fld) (n : Nat) :
    Good P (State.bump s r f n) := by
  unfold State.bump
  with_reducible (repeat' (first | assumption | apply State.put_good))

theorem State.apply_good {P : List Instr} {s : State} (h : Good P s) (r : Reg) :
    Good P (State.apply s r) := by
  unfold State.apply
  with_reducible (repeat' (first
      | assumption | apply Good.pend | apply Good.regs (P := P) | apply Good.live (P := P) | apply Good.mem (P := P)
      | apply Good.poison (P := P) | apply Good.host (P := P) | apply Good.flash (P := P) | apply Good.sram (P := P)
      | apply Good.prog (P := P) | apply Good.curd (P := P) | apply Tab.wf_set
      | ((refine ⟨?_, ?_, ?_, ?_, ?_, ?_, ?_, ?_, ?_, ?_⟩) <;> dsimp only)))

theorem State.fresh_good {P : List Instr} {s : State} (h : Good P s)  :
    Good P (State.fresh s).2 := by
  unfold State.fresh
  with_reducible (repeat' (first
      | assumption | dsimp only | refine Good.lit rfl rfl rfl rfl rfl rfl rfl rfl rfl rfl ?_))

theorem State.setVat_good {P : List Instr} {s : State} (h : Good P s) (v : Nat) (x : VatX) :
    Good P (State.setVat s v x) := by
  unfold State.setVat
  with_reducible (repeat' (first | assumption | refine Good.lit rfl rfl rfl rfl rfl rfl rfl rfl rfl rfl ?_))

theorem State.setStream_good {P : List Instr} {s : State} (h : Good P s) (v i : Nat) (x : Stream) :
    Good P (State.setStream s v i x) := by
  unfold State.setStream
  with_reducible (repeat' (first | assumption | refine Good.lit rfl rfl rfl rfl rfl rfl rfl rfl rfl rfl ?_))

theorem State.dnetSend_good {P : List Instr} {s : State} (h : Good P s) (p : DPkt) :
    Good P (State.dnetSend s p) := by
  unfold State.dnetSend
  with_reducible (repeat' (first | assumption | refine Good.lit rfl rfl rfl rfl rfl rfl rfl rfl rfl rfl ?_))

theorem State.setBytes_good {P : List Instr} {s : State} (h : Good P s) (a : Nat) (bs : List Byte) :
    Good P (State.setBytes s a bs) := by
  unfold State.setBytes
  with_reducible (repeat' (first
      | assumption | apply Good.pend | apply Good.regs (P := P) | apply Good.live (P := P) | apply Good.mem (P := P)
      | apply Good.poison (P := P) | apply Good.host (P := P) | apply Good.flash (P := P) | apply Good.sram (P := P)
      | apply Good.prog (P := P) | apply Good.curd (P := P) | apply Tab.wf_setAll
      | ((refine ⟨?_, ?_, ?_, ?_, ?_, ?_, ?_, ?_, ?_, ?_⟩) <;> dsimp only)))

theorem State.setHost_good {P : List Instr} {s : State} (h : Good P s) (a : Nat) (bs : List Byte) :
    Good P (State.setHost s a bs) := by
  unfold State.setHost
  with_reducible (repeat' (first
      | assumption | apply Good.pend | apply Good.regs (P := P) | apply Good.live (P := P) | apply Good.mem (P := P)
      | apply Good.poison (P := P) | apply Good.host (P := P) | apply Good.flash (P := P) | apply Good.sram (P := P)
      | apply Good.prog (P := P) | apply Good.curd (P := P) | apply Tab.wf_setAll
      | ((refine ⟨?_, ?_, ?_, ?_, ?_, ?_, ?_, ?_, ?_, ?_⟩) <;> dsimp only)))

theorem State.setPoison_good {P : List Instr} {s : State} (h : Good P s) (a n : Nat) (b : Bool) :
    Good P (State.setPoison s a n b) := by
  unfold State.setPoison
  with_reducible (repeat' (first
      | assumption | intro _ | apply Good.pend | apply Good.regs (P := P) | apply Good.live (P := P)
      | apply Good.mem (P := P) | apply Good.poison (P := P) | apply Good.host (P := P) | apply Good.flash (P := P)
      | apply Good.sram (P := P) | apply Good.prog (P := P) | apply Good.curd (P := P) | apply Tab.wf_set
      | apply Tab.wf_foldl | ((refine ⟨?_, ?_, ?_, ?_, ?_, ?_, ?_, ?_, ?_, ?_⟩) <;> dsimp only)))

theorem State.store_good {P : List Instr} {s : State} (h : Good P s) (a : Nat) (bs : List Byte) :
    Good P (State.store s a bs) := by
  unfold State.store
  with_reducible (repeat' (first | assumption | apply State.setBytes_good | apply State.setPoison_good))

theorem State.setDirty_good {P : List Instr} {s : State} (h : Good P s) (v b : Nat) (d : Dirty) :
    Good P (State.setDirty s v b d) := by
  unfold State.setDirty
  with_reducible (repeat' (first | assumption | refine Good.lit rfl rfl rfl rfl rfl rfl rfl rfl rfl rfl ?_))

theorem State.makeDirty_good {P : List Instr} {s : State} (h : Good P s) (v b : Nat) :
    Good P (State.makeDirty s v b) := by
  unfold State.makeDirty
  with_reducible (repeat' (first
      | assumption | apply State.setDirty_good | apply Good.pend | apply Good.regs (P := P)
      | apply Good.live (P := P) | apply Good.mem (P := P) | apply Good.poison (P := P) | apply Good.host (P := P)
      | apply Good.flash (P := P) | apply Good.sram (P := P) | apply Good.prog (P := P) | apply Good.curd (P := P)
      | apply Tab.wf_clear | ((refine ⟨?_, ?_, ?_, ?_, ?_, ?_, ?_, ?_, ?_, ?_⟩) <;> dsimp only)))

theorem State.setRow_good {P : List Instr} {s : State} (h : Good P s) (v r : Nat) (data : List Byte) (poison : Bool) :
    Good P (State.setRow s v r data poison) := by
  unfold State.setRow
  with_reducible (repeat' (first
      | assumption | apply Good.ite | apply State.setBytes_good | apply State.setDirty_good
      | apply State.setPoison_good))

theorem State.setGs_good {P : List Instr} {s : State} (h : Good P s) (v g n : Nat) :
    Good P (State.setGs s v g n) := by
  unfold State.setGs
  with_reducible (repeat' (first | assumption | apply State.put_good))

theorem State.switchOn_good {P : List Instr} {s : State} (h : Good P s) (ds : List Domain) :
    Good P (State.switchOn s ds) := by
  unfold State.switchOn
  with_reducible (repeat' (first | assumption | refine Good.lit rfl rfl rfl rfl rfl rfl rfl rfl rfl rfl ?_))

theorem State.switchOff_good {P : List Instr} {s : State} (h : Good P s) (ds : List Domain) :
    Good P (State.switchOff s ds) := by
  unfold State.switchOff
  with_reducible (repeat' (first | assumption | refine Good.lit rfl rfl rfl rfl rfl rfl rfl rfl rfl rfl ?_))

theorem State.claim_good {P : List Instr} {s : State} (h : Good P s) (v port : Nat) (h : Holder) (banks : List Nat) :
    Good P (State.claim s v port h banks) := by
  unfold State.claim
  with_reducible (repeat' (first | assumption | refine Good.lit rfl rfl rfl rfl rfl rfl rfl rfl rfl rfl ?_))

theorem State.release_good {P : List Instr} {s : State} (h : Good P s) (h : Holder) :
    Good P (State.release s h) := by
  unfold State.release
  with_reducible (repeat' (first | assumption | refine Good.lit rfl rfl rfl rfl rfl rfl rfl rfl rfl rfl ?_))

theorem State.lastErr_good {P : List Instr} {s : State} (h : Good P s) (v kind r : Nat) :
    Good P (State.lastErr s v kind r) := by
  unfold State.lastErr
  with_reducible (repeat' (first | assumption | apply State.wr_good))

theorem State.emit_good {P : List Instr} {s : State} (h : Good P s) (x : Sent) :
    Good P (State.emit s x) := by
  unfold State.emit
  with_reducible (repeat' (first | assumption | refine Good.lit rfl rfl rfl rfl rfl rfl rfl rfl rfl rfl ?_))

theorem State.raiseMsi_good {P : List Instr} {s : State} (h : Good P s) (f vec : Nat) :
    Good P (State.raiseMsi s f vec) := by
  unfold State.raiseMsi
  with_reducible (repeat' (first
      | assumption | apply Good.ite | apply State.emit_good | split
      | refine Good.lit rfl rfl rfl rfl rfl rfl rfl rfl rfl rfl ?_))

theorem State.resetRegs_good {P : List Instr} {s : State} (h : Good P s) (lo hi : Nat) :
    Good P (State.resetRegs s lo hi) := by
  unfold State.resetRegs
  with_reducible (repeat' (first
      | assumption | apply Good.pend | apply Good.regs (P := P) | apply Good.live (P := P) | apply Good.mem (P := P)
      | apply Good.poison (P := P) | apply Good.host (P := P) | apply Good.flash (P := P) | apply Good.sram (P := P)
      | apply Good.prog (P := P) | apply Good.curd (P := P) | apply Tab.wf_clear
      | ((refine ⟨?_, ?_, ?_, ?_, ?_, ?_, ?_, ?_, ?_, ?_⟩) <;> dsimp only)))

theorem State.setCst_good {P : List Instr} {s : State} (h : Good P s) (v c st : Nat) (waitOn : Nat) :
    Good P (State.setCst s v c st waitOn) := by
  unfold State.setCst
  with_reducible (repeat' (first | assumption | apply State.put_good))

theorem State.setVst_good {P : List Instr} {s : State} (h : Good P s) (v n : Nat) :
    Good P (State.setVst s v n) := by
  unfold State.setVst
  with_reducible (repeat' (first | assumption | apply State.put_good))

theorem State.clearCurd_good {P : List Instr} {s : State} (h : Good P s) (v : Nat) :
    Good P (State.clearCurd s v) := by
  unfold State.clearCurd
  with_reducible (repeat' (first
      | assumption | apply Good.pend | apply Good.regs (P := P) | apply Good.live (P := P) | apply Good.mem (P := P)
      | apply Good.poison (P := P) | apply Good.host (P := P) | apply Good.flash (P := P) | apply Good.sram (P := P)
      | apply Good.prog (P := P) | apply Good.curd (P := P) | apply Tab.wf_clear
      | ((refine ⟨?_, ?_, ?_, ?_, ?_, ?_, ?_, ?_, ?_, ?_⟩) <;> dsimp only)))

theorem State.clearProg_good {P : List Instr} {s : State} (h : Good P s) (v : Nat) :
    Good P (State.clearProg s v) := by
  unfold State.clearProg
  with_reducible (repeat' (first
      | assumption | apply Good.pend | apply Good.regs (P := P) | apply Good.live (P := P) | apply Good.mem (P := P)
      | apply Good.poison (P := P) | apply Good.host (P := P) | apply Good.flash (P := P) | apply Good.sram (P := P)
      | apply Good.prog (P := P) | apply Good.curd (P := P) | apply Tab.wf_clear
      | ((refine ⟨?_, ?_, ?_, ?_, ?_, ?_, ?_, ?_, ?_, ?_⟩) <;> dsimp only)))

theorem State.clearGens_good {P : List Instr} {s : State} (h : Good P s) (v : Nat) :
    Good P (State.clearGens s v) := by
  unfold State.clearGens
  with_reducible (repeat' (first | assumption | apply State.resetRegs_good))

theorem State.killVat_good {P : List Instr} {s : State} (h : Good P s) (v : Nat) :
    Good P (State.killVat s v) := by
  unfold State.killVat
  with_reducible (repeat' (first
      | assumption | apply State.clearCurd_good | apply State.clearGens_good | apply State.put_good
      | apply State.setVat_good | apply State.setVst_good | apply State.wr_good))

theorem State.zeroCtx_good {P : List Instr} {s : State} (h : Good P s) (v c : Nat) :
    Good P (State.zeroCtx s v c) := by
  unfold State.zeroCtx
  with_reducible (repeat' (first
      | assumption | apply State.put_good | apply State.resetRegs_good | apply State.wr_good))

theorem State.zeroCtxs_good {P : List Instr} {s : State} (h : Good P s) (v : Nat) :
    Good P (State.zeroCtxs s v) := by
  unfold State.zeroCtxs
  with_reducible (repeat' (first
      | assumption | intro _ | apply Good.foldl | apply State.clearProg_good | apply State.zeroCtx_good))

theorem State.dirtyGroups_good {P : List Instr} {s : State} (h : Good P s) (v : Nat) (gs : List Nat) :
    Good P (State.dirtyGroups s v gs) := by
  unfold State.dirtyGroups
  with_reducible (repeat' (first
      | assumption | intro _ | apply Good.ite | apply Good.foldl | apply State.makeDirty_good | apply State.put_good))

theorem State.killWagon_good {P : List Instr} {s : State} (h : Good P s) (v : Nat) :
    Good P (State.killWagon s v) := by
  unfold State.killWagon
  with_reducible (repeat' (first
      | assumption | intro _ | apply Good.foldl | apply State.put_good | apply State.resetRegs_good
      | apply State.setStream_good | refine Good.lit rfl rfl rfl rfl rfl rfl rfl rfl rfl rfl ?_))

theorem State.closeWindow_good {P : List Instr} {s : State} (h : Good P s) (v w : Nat) :
    Good P (State.closeWindow s v w) := by
  unfold State.closeWindow
  with_reducible (repeat' (first | assumption | apply State.put_good | apply State.release_good))

theorem State.closeWindows_good {P : List Instr} {s : State} (h : Good P s) (v : Nat) (f : Nat → Bool) :
    Good P (State.closeWindows s v f) := by
  unfold State.closeWindows
  with_reducible (repeat' (first
      | assumption | intro _ | apply Good.ite | apply Good.foldl | apply State.closeWindow_good))

theorem State.killVats_good {P : List Instr} {s : State} (h : Good P s) (vs : List Nat) :
    Good P (State.killVats s vs) := by
  unfold State.killVats
  with_reducible (repeat' (first
      | assumption | intro _ | apply Good.ite | apply Good.foldl | apply State.closeWindows_good
      | apply State.dirtyGroups_good | apply State.killVat_good | apply State.killWagon_good
      | apply State.resetRegs_good | apply State.setVat_good))

theorem State.killSettle_good {P : List Instr} {s : State} (h : Good P s) (p : Nat) :
    Good P (State.killSettle s p) := by
  unfold State.killSettle
  with_reducible (repeat' (first
      | assumption | intro _ | apply Good.ite | apply Good.foldl | apply State.setVat_good))

theorem State.sampleDue_good {P : List Instr} {s : State} (h : Good P s) (u i : Nat) :
    Good P (State.sampleDue s u i) := by
  unfold State.sampleDue
  with_reducible (repeat' (first | assumption | apply Good.ite | apply State.setVat_good))

theorem State.perfAdd_good {P : List Instr} {s : State} (h : Good P s) (u i n : Nat) :
    Good P (State.perfAdd s u i n).1 := by
  unfold State.perfAdd
  with_reducible (repeat' (first
      | assumption | apply Good.ite | apply State.put_good | apply State.sampleDue_good | split | dsimp only))

theorem State.perfChain_good {P : List Instr} {s : State} (h : Good P s) (u i n : Nat) : Good P (s.perfChain u i n) := by
  unfold State.perfChain
  with_reducible (repeat' (first | assumption | apply Good.ite | apply State.perfAdd_good))

theorem State.perfOne_good {P : List Instr} {s : State} (h : Good P s) (u ev : Nat) (sels : List Nat) (n i : Nat) :
    Good P (State.perfOne s u ev sels n i) := by
  unfold State.perfOne
  with_reducible (repeat' (first | assumption | apply Good.ite | apply State.perfChain_good))

theorem State.perf_good {P : List Instr} {s : State} (h : Good P s) (u ev : Nat) (sels : List Nat) (n : Nat) :
    Good P (State.perf s u ev sels n) := by
  unfold State.perf
  with_reducible (repeat' (first
      | assumption | intro _ | apply Good.ite | apply Good.foldl | apply State.perfOne_good))

theorem State.perfs_good {P : List Instr} {s : State} (h : Good P s) (us : List Nat) (ev : Nat) (sels : List Nat) (n : Nat) :
    Good P (State.perfs s us ev sels n) := by
  unfold State.perfs
  with_reducible (repeat' (first | assumption | intro _ | apply Good.foldl | apply State.perf_good))

theorem State.hostOut_good {P : List Instr} {s : State} (h : Good P s) (a : Nat) (bs : List Byte) :
    Good P (State.hostOut s a bs) := by
  unfold State.hostOut
  with_reducible (repeat' (first | assumption | apply State.perfs_good | apply State.setHost_good))

theorem State.hostIn_good {P : List Instr} {s : State} (h : Good P s) (a n : Nat) :
    Good P (State.hostIn s a n).2 := by
  unfold State.hostIn
  with_reducible (repeat' (first | assumption | apply State.perfs_good))

theorem State.hbmCount_good {P : List Instr} {s : State} (h : Good P s) (ev a n : Nat) :
    Good P (State.hbmCount s ev a n) := by
  unfold State.hbmCount
  with_reducible (repeat' (first | assumption | intro _ | apply Good.ite | apply Good.foldl | apply State.perfs_good))

theorem State.traceRec_good {P : List Instr} {s : State} (h : Good P s) (time tag v c kind pc : Nat) :
    Good P (State.traceRec s time tag v c kind pc) := by
  unfold State.traceRec
  with_reducible (repeat' (first
      | assumption | apply Good.ite | apply State.hbmCount_good | apply State.put_good | apply State.store_good))

theorem State.noteIssue_good {P : List Instr} {s : State} (h : Good P s) (v c pc opc : Nat) :
    Good P (State.noteIssue s v c pc opc) := by
  unfold State.noteIssue
  with_reducible (repeat' (first | assumption | apply State.perf_good | apply State.setVat_good))

theorem State.pfxSet_good {P : List Instr} {s : State} (h : Good P s) (g i o n x : Nat) :
    Good P (State.pfxSet s g i o n x) := by
  unfold State.pfxSet
  with_reducible (repeat' (first | assumption | apply State.store_good))

theorem State.pfxHit_good {P : List Instr} {s : State} (h : Good P s) (g i : Nat) :
    Good P (State.pfxHit s g i) := by
  unfold State.pfxHit
  with_reducible (repeat' (first
      | assumption | apply State.bump_good | apply State.perfs_good | apply State.pfxSet_good))

theorem State.pfxLookup_good {P : List Instr} {s : State} (h : Good P s) (g tenant variant : Nat) (prompt : List Nat)
    (n i : Nat) (prev : List Byte) (parent : Nat) : Good P (s.pfxLookup g tenant variant prompt n i prev parent).2 := by
  induction n generalizing s i prev parent with
  | zero => exact h
  | succ n ih =>
    unfold State.pfxLookup
    have h1 := State.perfs_good (State.bump_good h .PFX_STAT PFX_STAT.LOOKUPS 1) puGlb 0x06 [0] 1
    dsimp only
    split
    · exact h1
    · split
      · exact ih (State.pfxHit_good h1 ..) ..
      · exact State.bump_good h1 ..

theorem State.pfxFree_good {P : List Instr} {s : State} (h : Good P s) (g i : Nat) :
    Good P (State.pfxFree s g i) := by
  unfold State.pfxFree
  with_reducible (repeat' (first | assumption | apply Good.ite | apply State.pfxSet_good | apply State.store_good))

theorem State.pfxRelease_good {P : List Instr} {s : State} (h : Good P s) (g i : Nat) :
    Good P (State.pfxRelease s g i) := by
  unfold State.pfxRelease
  with_reducible (repeat' (first | assumption | apply Good.ite | apply State.pfxFree_good | apply State.pfxSet_good))

theorem State.pfxEntry_good {P : List Instr} {s : State} (h : Good P s) (g b : Nat) : Good P (s.pfxEntry g b).2 := by
  unfold State.pfxEntry
  dsimp only
  split
  · exact h
  · split
    · exact State.pfxFree_good h ..
    · exact h

theorem State.pfxBlock_good {P : List Instr} {s : State} (h : Good P s) (g : Nat) : Good P (s.pfxBlock g).2 := by
  unfold State.pfxBlock
  split
  · exact h
  · split
    · exact State.pfxFree_good h ..
    · exact h

theorem State.pfxInsert_good {P : List Instr} {s : State} (h : Good P s) (g p tenant variant parent i : Nat)
    (hs : List Byte) (toks : List Nat) : Good P (s.pfxInsert g p tenant variant parent i hs toks).2 := by
  unfold State.pfxInsert
  with_reducible (repeat' (first
      | assumption | apply Good.ite | apply State.bump_good | apply State.pfxSet_good | apply State.store_good
      | apply State.pfxEntry_good | apply State.pfxBlock_good | split | dsimp only
      | refine Good.lit rfl rfl rfl rfl rfl rfl rfl rfl rfl rfl ?_))

theorem State.pfxInserts_good {P : List Instr} {s : State} (h : Good P s) (g p tenant variant new : Nat) (prompt : List Nat)
    (n i : Nat) (prev : List Byte) (parent : Nat) :
    Good P (s.pfxInserts g p tenant variant new prompt n i prev parent) := by
  induction n generalizing s i prev parent with
  | zero => exact h
  | succ n ih =>
    unfold State.pfxInserts
    dsimp only
    split
    · exact ih h ..
    · split
      · exact h
      · have h1 := State.pfxInsert_good h g p tenant variant parent i
          (blockHash (s.tenantKey tenant) prev (blockToks prompt i) variant) (blockToks prompt i)
        split
        · next e => rw [e] at h1; exact ih h1 ..
        · next e => rw [e] at h1; exact h1

theorem State.pfxDone_good {P : List Instr} {s : State} (h : Good P s) (g i : Nat) (cache : List Byte) :
    Good P (State.pfxDone s g i cache) := by
  unfold State.pfxDone
  with_reducible (repeat' (first
      | assumption | apply Good.ite | apply State.emit_good | apply State.pfxSet_good | apply State.store_good
      | refine Good.lit rfl rfl rfl rfl rfl rfl rfl rfl rfl rfl ?_))

theorem State.pfxKill_good {P : List Instr} {s : State} (h : Good P s) (p : Nat) :
    Good P (State.pfxKill s p) := by
  unfold State.pfxKill
  with_reducible (repeat' (first
      | assumption | intro _ | apply Good.foldl | apply State.pfxFree_good
      | refine Good.lit rfl rfl rfl rfl rfl rfl rfl rfl rfl rfl ?_))

theorem State.pfxRekey_good {P : List Instr} {s : State} (h : Good P s) (t : Nat) :
    Good P (State.pfxRekey s t) := by
  unfold State.pfxRekey
  with_reducible (repeat' (first
      | assumption | intro _ | apply Good.ite | apply Good.foldl | apply State.pfxFree_good
      | refine Good.lit rfl rfl rfl rfl rfl rfl rfl rfl rfl rfl ?_))

theorem State.setReq_good {P : List Instr} {s : State} (h : Good P s) (i : Nat) (x : ReqX) :
    Good P (State.setReq s i x) := by
  unfold State.setReq
  with_reducible (repeat' (first | assumption | refine Good.lit rfl rfl rfl rfl rfl rfl rfl rfl rfl rfl ?_))

theorem State.writeStatus_good {P : List Instr} {s : State} (h : Good P s) (i : Nat) :
    Good P (State.writeStatus s i) := by
  unfold State.writeStatus
  with_reducible (repeat' (first | assumption | apply Good.ite | apply State.hostOut_good | apply State.setReq_good))

theorem State.writeResult_good {P : List Instr} {s : State} (h : Good P s) (i o : Nat) (bs : List Byte) :
    Good P (State.writeResult s i o bs) := by
  unfold State.writeResult
  with_reducible (repeat' (first | assumption | apply Good.ite | apply State.hostOut_good))

theorem State.writeCounts_good {P : List Instr} {s : State} (h : Good P s) (i : Nat) :
    Good P (State.writeCounts s i) := by
  unfold State.writeCounts
  with_reducible (repeat' (first | assumption | apply State.writeResult_good))

theorem State.complete_good {P : List Instr} {s : State} (h : Good P s) (addr st res : Nat) :
    Good P (State.complete s addr st res) := by
  unfold State.complete
  with_reducible (repeat' (first | assumption | apply State.hostOut_good))

theorem State.setSt_good {P : List Instr} {s : State} (h : Good P s) (i st err : Nat) :
    Good P (State.setSt s i st err) := by
  unfold State.setSt
  with_reducible (repeat' (first
      | assumption | apply Good.ite | apply State.raiseMsi_good | apply State.setReq_good
      | apply State.writeStatus_good))

theorem State.setDest_good {P : List Instr} {s : State} (h : Good P s) (d : Nat) (x : DestX) :
    Good P (State.setDest s d x) := by
  unfold State.setDest
  with_reducible (repeat' (first | assumption | refine Good.lit rfl rfl rfl rfl rfl rfl rfl rfl rfl rfl ?_))

theorem State.kvxWait_good {P : List Instr} {s : State} (h : Good P s) (d : Nat) :
    Good P (State.kvxWait s d) := by
  unfold State.kvxWait
  with_reducible (repeat' (first
      | assumption | apply Good.ite | apply State.bump_good | apply State.perfs_good | apply State.setDest_good))

theorem State.kvxQueue_good {P : List Instr} {s : State} (h : Good P s) (d : Nat) (rs : List Rec) :
    Good P (State.kvxQueue s d rs) := by
  unfold State.kvxQueue
  with_reducible (repeat' (first | assumption | apply State.kvxWait_good | apply State.setDest_good))

theorem State.kvxDrop_good {P : List Instr} {s : State} (h : Good P s) (d : Nat) (keep : Rec → Bool) :
    Good P (State.kvxDrop s d keep) := by
  unfold State.kvxDrop
  with_reducible (repeat' (first | assumption | apply State.kvxWait_good | apply State.setDest_good))

theorem State.kvxPurge_good {P : List Instr} {s : State} (h : Good P s) (i : Nat) :
    Good P (State.kvxPurge s i) := by
  unfold State.kvxPurge
  with_reducible (repeat' (first
      | assumption | apply Good.ite | apply State.kvxDrop_good | apply State.kvxQueue_good | split
      | refine Good.lit rfl rfl rfl rfl rfl rfl rfl rfl rfl rfl ?_))

theorem State.kvxRebuild_good {P : List Instr} {s : State} (h : Good P s) (i a : Nat) :
    Good P (State.kvxRebuild s i a) := by
  unfold State.kvxRebuild
  with_reducible (repeat' (first
      | assumption | apply State.kvxDrop_good | split | refine Good.lit rfl rfl rfl rfl rfl rfl rfl rfl rfl rfl ?_))

theorem State.leavePass_good {P : List Instr} {s : State} (h : Good P s) (i : Nat) :
    Good P (State.leavePass s i) := by
  unfold State.leavePass
  with_reducible (repeat' (first | assumption | refine Good.lit rfl rfl rfl rfl rfl rfl rfl rfl rfl rfl ?_))

theorem State.leaveSheaf_good {P : List Instr} {s : State} (h : Good P s) (i : Nat) :
    Good P (State.leaveSheaf s i) := by
  unfold State.leaveSheaf
  with_reducible (repeat' (first | assumption | refine Good.lit rfl rfl rfl rfl rfl rfl rfl rfl rfl rfl ?_))

theorem State.reqFree_good {P : List Instr} {s : State} (h : Good P s) (i : Nat) :
    Good P (State.reqFree s i) := by
  unfold State.reqFree
  with_reducible (repeat' (first
      | assumption | intro _ | apply Good.foldl | apply State.leavePass_good | apply State.leaveSheaf_good
      | apply State.pfxRelease_good | apply State.setReq_good))

theorem State.dropWant_good {P : List Instr} {s : State} (h : Good P s) (i st err : Nat) :
    Good P (State.dropWant s i st err) := by
  unfold State.dropWant
  with_reducible (repeat' (first
      | assumption | apply Good.ite | apply State.complete_good | apply State.setReq_good | split
      | refine Good.lit rfl rfl rfl rfl rfl rfl rfl rfl rfl rfl ?_))

theorem State.reqEnd_good {P : List Instr} {s : State} (h : Good P s) (i st err : Nat) :
    Good P (State.reqEnd s i st err) := by
  unfold State.reqEnd
  with_reducible (repeat' (first
      | assumption | apply State.dropWant_good | apply State.kvxPurge_good | apply State.reqFree_good
      | apply State.setReq_good | apply State.setSt_good | split
      | refine Good.lit rfl rfl rfl rfl rfl rfl rfl rfl rfl rfl ?_))

theorem State.reqFail_good {P : List Instr} {s : State} (h : Good P s) (i err : Nat) :
    Good P (State.reqFail s i err) := by
  unfold State.reqFail
  with_reducible (repeat' (first | assumption | apply Good.ite | apply State.reqEnd_good))

theorem State.reqCancel_good {P : List Instr} {s : State} (h : Good P s) (i : Nat) :
    Good P (State.reqCancel s i).1 := by
  unfold State.reqCancel
  with_reducible (repeat' (first
      | assumption | apply Good.ite | apply State.reqEnd_good | apply State.setSt_good | split | dsimp only))

theorem State.failPart_good {P : List Instr} {s : State} (h : Good P s) (p err : Nat) :
    Good P (State.failPart s p err) := by
  unfold State.failPart
  with_reducible (repeat' (first | assumption | intro _ | apply Good.foldl | apply State.reqFail_good))

theorem State.cancelPart_good {P : List Instr} {s : State} (h : Good P s) (p : Nat) :
    Good P (State.cancelPart s p) := by
  unfold State.cancelPart
  with_reducible (repeat' (first | assumption | intro _ | apply Good.foldl | apply State.reqCancel_good))

theorem State.partLast_good {P : List Instr} {s : State} (h : Good P s) (p reason : Nat) :
    Good P (State.partLast s p reason) := by
  unfold State.partLast
  with_reducible (repeat' (first | assumption | apply State.wr_good))

theorem State.applyGroup_good {P : List Instr} {s : State} (h : Good P s) (v g : Nat) (own : Bool) :
    Good P (State.applyGroup s v g own) := by
  unfold State.applyGroup
  with_reducible (repeat' (first
      | assumption | apply Good.ite | apply State.dirtyGroups_good | apply State.put_good | apply State.setGs_good))

theorem State.applyVat_good {P : List Instr} {s : State} (h : Good P s) (p : Nat) (x : PartSec) (v : Nat) :
    Good P (State.applyVat s p x v) := by
  unfold State.applyVat
  with_reducible (repeat' (first
      | assumption | intro _ | apply Good.ite | apply Good.foldl | apply State.applyGroup_good
      | apply State.load_good | apply State.put_good | apply State.setVst_good))

theorem State.applyPart_good {P : List Instr} {s : State} (h : Good P s) (p : Nat) (x : PartSec) :
    Good P (State.applyPart s p x) := by
  unfold State.applyPart
  with_reducible (repeat' (first
      | assumption | intro _ | apply Good.foldl | apply State.applyVat_good | apply State.put_good))

theorem State.partReset_good {P : List Instr} {s : State} (h : Good P s) (p reason : Nat) :
    Good P (State.partReset s p reason) := by
  unfold State.partReset
  with_reducible (repeat' (first
      | assumption | apply State.applyPart_good | apply State.failPart_good | apply State.killVats_good
      | apply State.partLast_good | apply State.pfxKill_good | split))

theorem State.log_good {P : List Instr} {s : State} (h : Good P s) (r : LogRec) :
    Good P (State.log s r) := by
  unfold State.log
  with_reducible (repeat' (first
      | assumption | apply Good.ite | apply State.bump_good | apply State.partReset_good | apply State.put_good
      | apply State.raiseMsi_good | apply State.wr_good))

theorem State.logDone_good {P : List Instr} {s : State} (h : Good P s) (cls unit : Nat) (sub : Option Nat) :
    Good P (State.logDone s cls unit sub) := by
  unfold State.logDone
  with_reducible (repeat' (first
      | assumption | intro _ | apply Good.foldl | apply State.put_good | apply State.wr_good))

theorem State.setPc_good {P : List Instr} {s : State} (h : Good P s) (v c n : Nat) :
    Good P (State.setPc s v c n) := by
  unfold State.setPc
  with_reducible (repeat' (first | assumption | apply State.put_good))

theorem State.setCurdRow_good {P : List Instr} {s : State} (h : Good P s) (v n : Nat) (xs : List W32) :
    Good P (State.setCurdRow s v n xs) := by
  unfold State.setCurdRow
  with_reducible (repeat' (first
      | assumption | apply Good.pend | apply Good.regs (P := P) | apply Good.live (P := P) | apply Good.mem (P := P)
      | apply Good.poison (P := P) | apply Good.host (P := P) | apply Good.flash (P := P) | apply Good.sram (P := P)
      | apply Good.prog (P := P) | apply Good.curd (P := P) | apply Tab.wf_setAll
      | ((refine ⟨?_, ?_, ?_, ?_, ?_, ?_, ?_, ?_, ?_, ?_⟩) <;> dsimp only)))

theorem State.joinFlags_good {P : List Instr} {s : State} (h : Good P s) (v : Nat) (f : Flags) :
    Good P (State.joinFlags s v f) := by
  unfold State.joinFlags
  with_reducible (repeat' (first | assumption | apply State.wr_good))

theorem State.setGen_good {P : List Instr} {s : State} (h : Good P s) (v c j : Nat) (g : Gen) :
    Good P (State.setGen s v c j g) := by
  unfold State.setGen
  with_reducible (repeat' (first | assumption | apply State.wr_good))

theorem State.seedGens_good {P : List Instr} {s : State} (h : Good P s) (v c : Nat) (seed : W64) :
    Good P (State.seedGens s v c seed) := by
  unfold State.seedGens
  with_reducible (repeat' (first | assumption | intro _ | apply Good.foldl | apply State.setGen_good))

theorem State.cvtRow_good {P : List Instr} {s : State} (h : Good P s) (v c : Nat) (f : FpFmt) (md : Conv) (j : Nat)
    (l : List W32) : Good P (s.cvtRow v c f md j l).2.2 := by
  induction l generalizing s j with
  | nil => exact h
  | cons x xs ih =>
    unfold State.cvtRow
    split
    · exact ih (State.setGen_good h ..) _
    · exact ih h _

end Sys2Proof.Machine
end

