-- ==== Sys2Proof/Laws/KeepVat.lean ====
section
/-! SUPPORT. What the operations behind the Vat commands keep: the queue, and the canonical form of the registers
and of every memory. -/

namespace Sys2Proof.Machine

theorem State.dropHdr_good {P : List Instr} {s : State} (h : Good P s) (v c : Nat) :
    Good P (State.dropHdr s v c) := by
  unfold State.dropHdr
  with_reducible (repeat' (first | assumption | apply State.setVat_good))

theorem State.dropReq_good {P : List Instr} {s : State} (h : Good P s) (v c : Nat) :
    Good P (State.dropReq s v c) := by
  unfold State.dropReq
  with_reducible (repeat' (first
      | assumption | apply State.dropHdr_good | apply State.put_good | apply State.release_good
      | apply State.setVat_good))

theorem State.clearPart_good {P : List Instr} {s : State} (h : Good P s) (v c : Nat) :
    Good P (State.clearPart s v c) := by
  unfold State.clearPart
  with_reducible (repeat' (first | assumption | apply State.resetRegs_good | apply State.wr_good))

theorem State.leaveRun_good {P : List Instr} {s : State} (h : Good P s) (v c : Nat) :
    Good P (State.leaveRun s v c) := by
  unfold State.leaveRun
  with_reducible (repeat' (first | assumption | apply Good.ite | apply State.put_good | apply State.setVst_good))

theorem State.enterRun_good {P : List Instr} {s : State} (h : Good P s) (v c : Nat) :
    Good P (State.enterRun s v c) := by
  unfold State.enterRun
  with_reducible (repeat' (first
      | assumption | intro _ | apply Good.foldl | apply State.put_good | apply State.release_good
      | apply State.setCst_good | apply State.setVat_good | apply State.setVst_good))

theorem State.halt_good {P : List Instr} {s : State} (h : Good P s) (v c code : Nat) :
    Good P (State.halt s v c code) := by
  unfold State.halt
  with_reducible (repeat' (first
      | assumption | apply State.dropReq_good | apply State.leaveRun_good | apply State.put_good
      | apply State.setCst_good))

theorem State.abortNow_good {P : List Instr} {s : State} (h : Good P s) (v c : Nat) :
    Good P (State.abortNow s v c) := by
  unfold State.abortNow
  with_reducible (repeat' (first
      | assumption | apply Good.ite | apply State.clearPart_good | apply State.dropReq_good | apply State.halt_good
      | apply State.leaveRun_good | apply State.setCst_good | apply State.setVat_good))

theorem State.pauseNow_good {P : List Instr} {s : State} (h : Good P s) (v c : Nat) :
    Good P (State.pauseNow s v c) := by
  unfold State.pauseNow
  with_reducible (repeat' (first
      | assumption | apply State.dropHdr_good | apply State.leaveRun_good | apply State.put_good
      | apply State.release_good | apply State.setCst_good))

theorem State.atBoundary_good {P : List Instr} {s : State} (h : Good P s) (v c : Nat) :
    Good P (State.atBoundary s v c) := by
  unfold State.atBoundary
  with_reducible (repeat' (first
      | assumption | apply Good.ite | apply State.abortNow_good | apply State.pauseNow_good))

theorem State.waitOn_good {P : List Instr} {s : State} (h : Good P s) (v c why : Nat) :
    Good P (State.waitOn s v c why) := by
  unfold State.waitOn
  with_reducible (repeat' (first
      | assumption | apply Good.ite | apply State.atBoundary_good | apply State.leaveRun_good
      | apply State.setCst_good))

theorem State.wake_good {P : List Instr} {s : State} (h : Good P s) (v c : Nat) :
    Good P (State.wake s v c) := by
  unfold State.wake
  with_reducible (repeat' (first | assumption | apply Good.ite | apply State.enterRun_good | apply State.setCst_good))

theorem State.enterError_good {P : List Instr} {s : State} (h : Good P s) (v c err : Nat) :
    Good P (State.enterError s v c err) := by
  unfold State.enterError
  with_reducible (repeat' (first
      | assumption | apply State.clearPart_good | apply State.dropReq_good | apply State.leaveRun_good
      | apply State.put_good | apply State.setCst_good | apply State.wr_good))

theorem State.raise_good {P : List Instr} {s : State} (h : Good P s) (v c err : Nat) :
    Good P (State.raise s v c err) := by
  unfold State.raise
  with_reducible (repeat' (first
      | assumption | apply State.emit_good | apply State.enterError_good | apply State.log_good))

theorem State.stopVat_good {P : List Instr} {s : State} (h : Good P s) (v cls verdict sub : Nat) :
    Good P (State.stopVat s v cls verdict sub) := by
  unfold State.stopVat
  with_reducible (repeat' (first
      | assumption | intro _ | apply Good.foldl | apply State.dropReq_good | apply State.emit_good
      | apply State.log_good | apply State.put_good | apply State.setCst_good | apply State.setVat_good
      | apply State.setVst_good))

theorem State.issued_good {P : List Instr} {s : State} (h : Good P s) (v c op : Nat) :
    Good P (State.issued s v c op) := by
  unfold State.issued
  with_reducible (repeat' (first | assumption | apply Good.ite | apply State.noteIssue_good))

theorem State.issue_good {P : List Instr} {s : State} (h : Good P s) (v c op : Nat) (f : Nat → State → State) (sel : Nat → Bool)
    (hf : ∀ w s, Good P s → Good P (f w s)) : Good P (s.issue v c op f sel) := by
  unfold State.issue
  split
  · split
    · have h1 := State.issued_good h v c op
      split
      · exact State.atBoundary_good (hf _ _ h1) ..
      · exact State.raise_good h1 ..
    · exact h
  · exact h

theorem State.nextPc_good {P : List Instr} {s : State} (h : Good P s) (v c : Nat) :
    Good P (State.nextPc s v c) := by
  unfold State.nextPc
  with_reducible (repeat' (first | assumption | apply State.setPc_good))

theorem State.setSem_good {P : List Instr} {s : State} (h : Good P s) (v kind i n : Nat) :
    Good P (State.setSem s v kind i n) := by
  unfold State.setSem
  with_reducible (repeat' (first | assumption | apply State.put_good))

theorem State.addSem_good {P : List Instr} {s : State} (h : Good P s) (v kind i n : Nat) :
    Good P (State.addSem s v kind i n) := by
  unfold State.addSem
  with_reducible (repeat' (first | assumption | apply Good.ite | apply State.log_good | apply State.setSem_good))

theorem State.takeSem_good {P : List Instr} {s : State} (h : Good P s) (v kind i n : Nat) (t : State)
    (e : s.takeSem v kind i n = some t) : Good P t := by
  unfold State.takeSem at e
  split at e
  · cases e; exact State.setSem_good h ..
  · cases e

theorem State.retire_good {P : List Instr} {s : State} (h : Good P s) (kind unit pos : Nat) :
    Good P (State.retire s kind unit pos) := by
  unfold State.retire
  with_reducible (repeat' (first | assumption | split | refine Good.lit rfl rfl rfl rfl rfl rfl rfl rfl rfl rfl ?_))

theorem State.bankRetire_good {P : List Instr} {s : State} (h : Good P s) (v b cls : Nat) :
    Good P (State.bankRetire s v b cls) := by
  unfold State.bankRetire
  with_reducible (repeat' (first
      | assumption | apply Good.ite | apply State.emit_good | apply State.log_good | apply State.put_good
      | apply State.retire_good | apply Good.pend | apply Good.regs (P := P) | apply Good.live (P := P)
      | apply Good.mem (P := P) | apply Good.poison (P := P) | apply Good.host (P := P) | apply Good.flash (P := P)
      | apply Good.sram (P := P) | apply Good.prog (P := P) | apply Good.curd (P := P) | apply Tab.wf_clear | split
      | refine Good.lit rfl rfl rfl rfl rfl rfl rfl rfl rfl rfl ?_
      | ((refine ⟨?_, ?_, ?_, ?_, ?_, ?_, ?_, ?_, ?_, ?_⟩) <;> dsimp only)))

theorem State.mapSpare_good {P : List Instr} {s : State} (h : Good P s) (v i : Nat) :
    Good P (State.mapSpare s v i) := by
  unfold State.mapSpare
  with_reducible (repeat' (first | assumption | intro _ | apply Good.ite | apply Good.foldl | apply State.put_good))

theorem State.bankCopyDone_good {P : List Instr} {s : State} (h : Good P s) (v i : Nat) :
    Good P (State.bankCopyDone s v i) := by
  unfold State.bankCopyDone
  with_reducible (repeat' (first
      | assumption | apply Good.ite | apply State.logDone_good | apply State.mapSpare_good))

theorem State.eccRow_good {P : List Instr} {s : State} (h : Good P s) (v r : Nat) (e : Ecc) :
    Good P (State.eccRow s v r e) := by
  unfold State.eccRow
  with_reducible (repeat' (first
      | assumption | apply State.bankRetire_good | apply State.bump_good | apply State.lastErr_good
      | apply State.setPoison_good | split))

theorem State.scrubDone_good {P : List Instr} {s : State} (h : Good P s) (v : Nat) :
    Good P (State.scrubDone s v) := by
  unfold State.scrubDone
  with_reducible (repeat' (first
      | assumption | intro _ | apply Good.foldl | apply State.perf_good | apply State.put_good
      | apply State.setDirty_good))

theorem State.wakeGroup_good {P : List Instr} {s : State} (h : Good P s) (v g : Nat) :
    Good P (State.wakeGroup s v g) := by
  unfold State.wakeGroup
  with_reducible (repeat' (first
      | assumption | intro _ | apply Good.foldl | apply State.makeDirty_good | apply State.setGs_good))

theorem State.pwrBit_good {P : List Instr} {s : State} (h : Good P s) (v g : Nat) (on : Bool) :
    Good P (State.pwrBit s v g on) := by
  unfold State.pwrBit
  with_reducible (repeat' (first
      | assumption | apply Good.ite | apply State.put_good | apply State.setGs_good | apply State.wakeGroup_good))

theorem State.clockStart_good {P : List Instr} {s : State} (h : Good P s) (v g : Nat) :
    Good P (State.clockStart s v g) := by
  unfold State.clockStart
  with_reducible (repeat' (first
      | assumption | apply Good.ite | apply State.dirtyGroups_good | apply State.setGs_good))

theorem State.groupOff_good {P : List Instr} {s : State} (h : Good P s) (v g : Nat) :
    Good P (State.groupOff s v g) := by
  unfold State.groupOff
  with_reducible (repeat' (first
      | assumption | intro _ | apply Good.ite | apply Good.foldl | apply State.bankCopyDone_good
      | apply State.closeWindows_good | apply State.makeDirty_good | apply State.setDirty_good
      | apply State.setGs_good | apply State.wakeGroup_good))

theorem Acc.each_good {P : List Instr} {α : Type} {a : Acc} (h : Good P a.s) (l : List α) (f : Acc → α → Acc)
    (hf : ∀ a x, Good P a.s → Good P (f a x).s) : Good P (a.each l f).s := by
  unfold Acc.each
  refine Good.fold (fun a : Acc => a.s) h fun a x h => ?_
  split
  · exact hf _ _ h
  · exact h

theorem Acc.fail_good {P : List Instr} {a : Acc} (h : Good P a.s) (e : Nat) :
    Good P (Acc.fail a e).s := by
  unfold Acc.fail
  with_reducible (repeat' (first | assumption | split))

theorem Acc.on_good {P : List Instr} {a : Acc} (h : Good P a.s) (f : State → State)
    (hf : ∀ s, Good P s → Good P (f s)) : Good P (a.on f).s := hf _ h

theorem Acc.flag_good {P : List Instr} {a : Acc} (h : Good P a.s) (f : Flags) :
    Good P (Acc.flag a f).s := by
  unfold Acc.flag
  with_reducible (repeat' (first | assumption | intro _ | apply Acc.on_good | apply State.joinFlags_good | split))

theorem Acc.claim_good {P : List Instr} {a : Acc} (h : Good P a.s) (port r : Nat) :
    Good P (Acc.claim a port r).s := by
  unfold Acc.claim
  with_reducible (repeat' (first
      | assumption | intro _ | apply Acc.fail_good | apply Acc.on_good | apply State.perf_good | split | dsimp only))

theorem Acc.read_good {P : List Instr} {a : Acc} (h : Good P a.s) (port r : Nat) :
    Good P (Acc.read a port r).1.s := by
  unfold Acc.read
  with_reducible (repeat' (first
      | assumption | intro _ | apply Acc.claim_good | apply Acc.fail_good | apply Acc.on_good
      | apply State.perf_good | split | dsimp only))

theorem Acc.write_good {P : List Instr} {a : Acc} (h : Good P a.s) (port r : Nat) (data : List Byte) :
    Good P (Acc.write a port r data).s := by
  unfold Acc.write
  with_reducible (repeat' (first
      | assumption | intro _ | apply Acc.claim_good | apply Acc.on_good | apply State.perf_good
      | apply State.setRow_good | split | dsimp only))

theorem Acc.reads_good {P : List Instr} {a : Acc} (h : Good P a.s) (port : Nat) (l : List Nat) :
    Good P (a.reads port l).1.s := by
  induction l generalizing a with
  | nil => exact h
  | cons r rs ih =>
    unfold Acc.reads
    exact ih (Acc.read_good h port r)

theorem State.chkLast_good {P : List Instr} {s : State} (h : Good P s) (v token pos verdict plate : Nat) :
    Good P (State.chkLast s v token pos verdict plate) := by
  unfold State.chkLast
  with_reducible (repeat' (first | assumption | apply State.wr_good))

theorem State.transient_good {P : List Instr} {s : State} (h : Good P s) (v token pos plate sub : Nat) :
    Good P (State.transient s v token pos plate sub) := by
  unfold State.transient
  with_reducible (repeat' (first
      | assumption | apply Good.ite | apply State.bump_good | apply State.chkLast_good | apply State.log_good))

theorem State.lastingStop_good {P : List Instr} {s : State} (h : Good P s) (v cls token pos rec plate : Nat) :
    Good P (State.lastingStop s v cls token pos rec plate) := by
  unfold State.lastingStop
  with_reducible (repeat' (first
      | assumption | apply State.bump_good | apply State.chkLast_good | apply State.stopVat_good))

theorem Acc.fault_good {P : List Instr} {a : Acc} (h : Good P a.s) (f : VatFault) :
    Good P (Acc.fault a f).s := by
  unfold Acc.fault
  with_reducible (repeat' (first
      | assumption | intro _ | apply Good.ite | apply Acc.fail_good | apply Acc.on_good | apply State.bump_good
      | apply State.eccRow_good | apply State.lastingStop_good | apply State.perf_good | apply State.transient_good
      | split))

theorem Acc.faultsNow_good {P : List Instr} {a : Acc} (h : Good P a.s)  :
    Good P (Acc.faultsNow a).s := by
  unfold Acc.faultsNow
  with_reducible (repeat' (first | assumption | intro _ | apply Acc.each_good | apply Acc.fault_good))

theorem Acc.partDone_good {P : List Instr} {a : Acc} (h : Good P a.s) (ra rb rc pass : Nat) :
    Good P (Acc.partDone a ra rb rc pass).s := by
  unfold Acc.partDone
  with_reducible (repeat' (first | assumption | intro _ | apply Good.foldl | apply State.wr_good))

theorem Acc.boundary_good {P : List Instr} {a : Acc} (h : Good P a.s) (ra rb rc pass : Nat) :
    Good P (Acc.boundary a ra rb rc pass).s := by
  unfold Acc.boundary
  with_reducible (repeat' (first | assumption | apply Acc.faultsNow_good | apply Acc.partDone_good | split))

theorem Acc.hold_good {P : List Instr} {a : Acc} (h : Good P a.s)  :
    Good P (Acc.hold a).s := by
  unfold Acc.hold
  with_reducible (repeat' (first
      | assumption | intro _ | apply Acc.on_good | refine Good.lit rfl rfl rfl rfl rfl rfl rfl rfl rfl rfl ?_))

theorem Acc.finish_good {P : List Instr} {a : Acc} (h : Good P a.s) (v c : Nat) :
    Good P (Acc.finish a v c) := by
  unfold Acc.finish
  with_reducible (repeat' (first
      | assumption | apply Good.ite | apply State.clearPart_good | apply State.nextPc_good | apply State.raise_good))

theorem State.semwTest_good {P : List Instr} {s : State} (h : Good P s) (v w : Nat) (t : State)
    (e : s.semwTest v w = some t) : Good P t := by
  unfold State.semwTest at e
  split at e
  · cases e
    split
    · exact State.setSem_good h ..
    · exact h
  · cases e

theorem State.semw_good {P : List Instr} {s : State} (h : Good P s) (v c w : Nat) :
    Good P (State.semw s v c w) := by
  unfold State.semw
  with_reducible (repeat' (first
      | assumption | apply Good.ite | apply State.nextPc_good | apply State.raise_good
      | refine State.semwTest_good (e := ‹_ = some _›) ?_ .. | apply State.waitOn_good | split))

theorem State.semp_good {P : List Instr} {s : State} (h : Good P s) (v c w : Nat) :
    Good P (State.semp s v c w) := by
  unfold State.semp
  with_reducible (repeat' (first
      | assumption | apply Good.ite | apply State.addSem_good | apply State.dnetSend_good | apply State.nextPc_good
      | apply State.raise_good | apply State.setSem_good))

theorem State.fence_good {P : List Instr} {s : State} (h : Good P s) (v c w : Nat) :
    Good P (State.fence s v c w) := by
  unfold State.fence
  with_reducible (repeat' (first
      | assumption | apply Good.ite | apply State.nextPc_good | apply State.raise_good | apply State.waitOn_good))

theorem State.loop_good {P : List Instr} {s : State} (h : Good P s) (v c w : Nat) :
    Good P (State.loop s v c w) := by
  unfold State.loop
  with_reducible (repeat' (first
      | assumption | apply Good.ite | apply State.nextPc_good | apply State.put_good | apply State.raise_good
      | apply State.setPc_good | apply State.wr_good))

theorem State.endl_good {P : List Instr} {s : State} (h : Good P s) (v c w : Nat) :
    Good P (State.endl s v c w) := by
  unfold State.endl
  with_reducible (repeat' (first
      | assumption | apply Good.ite | apply State.nextPc_good | apply State.put_good | apply State.raise_good
      | apply State.setPc_good))

theorem State.brc_good {P : List Instr} {s : State} (h : Good P s) (v c w : Nat) :
    Good P (State.brc s v c w) := by
  unfold State.brc
  with_reducible (repeat' (first
      | assumption | apply Good.ite | apply State.nextPc_good | apply State.raise_good | apply State.setPc_good))

theorem State.tick_good {P : List Instr} {s : State} (h : Good P s) (v c w : Nat) :
    Good P (State.tick s v c w) := by
  unfold State.tick
  with_reducible (repeat' (first
      | assumption | apply Good.ite | apply State.nextPc_good | apply State.perf_good | apply State.raise_good
      | apply State.traceRec_good | apply State.wr_good))

theorem State.haltDone_good {P : List Instr} {s : State} (h : Good P s) (v c w : Nat) :
    Good P (State.haltDone s v c w) := by
  unfold State.haltDone
  with_reducible (repeat' (first
      | assumption | apply Good.ite | apply State.emit_good | apply State.halt_good | apply State.nextPc_good))

theorem State.haltIssue_good {P : List Instr} {s : State} (h : Good P s) (v c w : Nat) :
    Good P (State.haltIssue s v c w) := by
  unfold State.haltIssue
  with_reducible (repeat' (first
      | assumption | apply Good.ite | apply State.haltDone_good | apply State.raise_good | apply State.waitOn_good))

theorem State.flagsInsn_good {P : List Instr} {s : State} (h : Good P s) (v c w : Nat) :
    Good P (State.flagsInsn s v c w) := by
  unfold State.flagsInsn
  with_reducible (repeat' (first
      | assumption | apply Good.ite | apply State.nextPc_good | apply State.raise_good | apply State.wr_good))

theorem State.seedInsn_good {P : List Instr} {s : State} (h : Good P s) (v c w : Nat) :
    Good P (State.seedInsn s v c w) := by
  unfold State.seedInsn
  with_reducible (repeat' (first
      | assumption | apply Good.ite | apply State.nextPc_good | apply State.raise_good | apply State.seedGens_good))

theorem State.wagonWait_good {P : List Instr} {s : State} (h : Good P s) (v c a : Nat) :
    Good P (State.wagonWait s v c a) := by
  unfold State.wagonWait
  with_reducible (repeat' (first | assumption | apply State.setVat_good | apply State.waitOn_good))

theorem State.wagonInsn_good {P : List Instr} {s : State} (h : Good P s) (v c w : Nat) :
    Good P (State.wagonInsn s v c w) := by
  unfold State.wagonInsn
  with_reducible (repeat' (first
      | assumption | apply Good.ite | apply State.dropHdr_good | apply State.nextPc_good | apply State.raise_good
      | apply State.setStream_good | apply State.wagonWait_good))

theorem State.badFetch_good {P : List Instr} {s : State} (h : Good P s) (v c : Nat) (ecc : Bool) :
    Good P (State.badFetch s v c ecc) := by
  unfold State.badFetch
  with_reducible (repeat' (first | assumption | apply Good.ite | apply State.raise_good | split))

theorem State.start_good {P : List Instr} {s : State} (h : Good P s) (v c : Nat) :
    Good P (State.start s v c) := by
  unfold State.start
  with_reducible (repeat' (first
      | assumption | apply State.clearPart_good | apply State.dropReq_good | apply State.put_good
      | apply State.resetRegs_good | apply State.setCst_good | apply State.setPc_good | apply State.wr_good))

theorem State.ctxPause_good {P : List Instr} {s : State} (h : Good P s) (v c : Nat) :
    Good P (State.ctxPause s v c) := by
  unfold State.ctxPause
  with_reducible (repeat' (first | assumption | apply Good.ite | apply State.pauseNow_good | apply State.put_good))

theorem State.ctxAbort_good {P : List Instr} {s : State} (h : Good P s) (v c : Nat) :
    Good P (State.ctxAbort s v c) := by
  unfold State.ctxAbort
  with_reducible (repeat' (first
      | assumption | apply Good.ite | apply State.abortNow_good | apply State.put_good | apply State.setVat_good))

theorem State.ctxCtrl_good {P : List Instr} {s : State} (h : Good P s) (v c : Nat) (val : W64) :
    Good P (State.ctxCtrl s v c val).1 := by
  unfold State.ctxCtrl
  with_reducible (repeat' (first
      | assumption | apply Good.ite | apply State.ctxAbort_good | apply State.ctxPause_good | apply State.put_good
      | apply State.setCst_good | apply State.start_good | split))

theorem State.pauseEffect_good {P : List Instr} {s : State} (h : Good P s) (v c : Nat) :
    Good P (State.pauseEffect s v c) := by
  unfold State.pauseEffect
  with_reducible (repeat' (first | assumption | apply Good.ite | apply State.atBoundary_good))

theorem State.abortEffect_good {P : List Instr} {s : State} (h : Good P s) (v c : Nat) :
    Good P (State.abortEffect s v c) := by
  unfold State.abortEffect
  with_reducible (repeat' (first | assumption | apply Good.ite | apply State.atBoundary_good))

theorem State.contextSwitch_good {P : List Instr} {s : State} (h : Good P s) (v : Nat) :
    Good P (State.contextSwitch s v) := by
  unfold State.contextSwitch
  with_reducible (repeat' (first
      | assumption | apply State.enterRun_good | apply State.perf_good | apply State.release_good
      | apply State.setCst_good | apply State.setVat_good | split))

theorem State.settleCtx_good {P : List Instr} {s : State} (h : Good P s) (v c : Nat) :
    Good P (State.settleCtx s v c) := by
  unfold State.settleCtx
  with_reducible (repeat' (first
      | assumption | apply Good.ite | apply State.halt_good | apply State.haltDone_good | apply State.nextPc_good
      | apply State.wagonInsn_good | apply State.wake_good | split))

theorem State.settle_good {P : List Instr} {s : State} (h : Good P s) (v : Nat) :
    Good P (State.settle s v) := by
  unfold State.settle
  with_reducible (repeat' (first | assumption | intro _ | apply Good.foldl | apply State.settleCtx_good))

theorem State.zeroingDone_good {P : List Instr} {s : State} (h : Good P s) (v : Nat) :
    Good P (State.zeroingDone s v) := by
  unfold State.zeroingDone
  with_reducible (repeat' (first
      | assumption | apply Good.ite | apply State.setVat_good | apply State.setVst_good | apply State.zeroCtxs_good))

theorem State.markBad_good {P : List Instr} {s : State} (h : Good P s) (v : Nat) (ps : List Nat) :
    Good P (State.markBad s v ps) := by
  unfold State.markBad
  with_reducible (repeat' (first | assumption | apply State.wr_good))

theorem State.remap_good {P : List Instr} {s : State} (h : Good P s) (v : Nat) (ps : List Nat) :
    Good P (State.remap s v ps) := by
  unfold State.remap
  with_reducible (repeat' (first
      | assumption | intro _ | apply Good.foldl | apply State.log_good | apply State.retire_good
      | apply State.wr_good))

theorem State.segVerdict_good {P : List Instr} {s : State} (h : Good P s) (v : Nat) (first again : Attempt) :
    Good P (State.segVerdict s v first again).1 := by
  unfold State.segVerdict
  with_reducible (repeat' (first
      | assumption | apply State.bump_good | apply State.chkLast_good | apply State.lastingStop_good
      | apply State.markBad_good | apply State.perf_good | apply State.remap_good | apply State.transient_good
      | split | dsimp only))

theorem State.setCurd_good {P : List Instr} {s : State} (h : Good P s) (v slot col : Nat) (x : W32) :
    Good P (State.setCurd s v slot col x) := by
  unfold State.setCurd
  with_reducible (repeat' (first
      | assumption | apply Good.pend | apply Good.regs (P := P) | apply Good.live (P := P) | apply Good.mem (P := P)
      | apply Good.poison (P := P) | apply Good.host (P := P) | apply Good.flash (P := P) | apply Good.sram (P := P)
      | apply Good.prog (P := P) | apply Good.curd (P := P) | apply Tab.wf_set
      | ((refine ⟨?_, ?_, ?_, ?_, ?_, ?_, ?_, ?_, ?_, ?_⟩) <;> dsimp only)))

theorem State.commitOne_good {P : List Instr} {s : State} (h : Good P s) (v : Nat) (w : SegWrite) :
    Good P (State.commitOne s v w) := by
  unfold State.commitOne
  with_reducible (repeat' (first | assumption | apply State.joinFlags_good | apply State.setCurd_good | split))

theorem State.stage_good {P : List Instr} {s : State} (h : Good P s) (v : Nat) (g : Segment) :
    Good P (State.stage s v g) := by
  unfold State.stage
  with_reducible (repeat' (first | assumption | apply State.setVat_good))

theorem State.verdict_good {P : List Instr} {s : State} (h : Good P s) (v : Nat) :
    Good P (State.verdict s v) := by
  unfold State.verdict
  with_reducible (repeat' (first
      | assumption | intro _ | apply Good.foldl | apply State.commitOne_good | apply State.joinFlags_good
      | refine Good.fst ‹_› (State.segVerdict_good ?_ ..) | apply State.setVat_good | split
      | refine Good.lit rfl rfl rfl rfl rfl rfl rfl rfl rfl rfl ?_))

theorem State.segment_good {P : List Instr} {s : State} (h : Good P s) (v : Nat) (g : Segment) :
    Good P (State.segment s v g) := by
  unfold State.segment
  with_reducible (repeat' (first | assumption | apply Good.ite | apply State.stage_good | apply State.verdict_good))

theorem Acc.loadWith_good {P : List Instr} {a : Acc} (h : Good P a.s) (fmt kv : Nat) (rows : List Nat) (cols : List (List Byte) → List (List W16)) :
    Good P (Acc.loadWith a fmt kv rows cols).s := by
  unfold Acc.loadWith
  with_reducible (repeat' (first
      | assumption | intro _ | apply Acc.on_good | apply Acc.reads_good | apply State.perf_good
      | apply State.setVat_good | split | dsimp only))

theorem Acc.load_good {P : List Instr} {a : Acc} (h : Good P a.s) (fmt : Nat) (trn : Bool) (nv kv : Nat) (row : Nat → Nat) :
    Good P (Acc.load a fmt trn nv kv row).s := by
  unfold Acc.load
  with_reducible (repeat' (first | assumption | apply Acc.loadWith_good))

theorem State.commitTok_good {P : List Instr} {s : State} (h : Good P s) (v slot how : Nat) (out : List W32) :
    Good P (State.commitTok s v slot how out) := by
  unfold State.commitTok
  with_reducible (repeat' (first
      | assumption | apply Good.ite | apply State.joinFlags_good | apply State.setCurdRow_good | apply Good.pend
      | apply Good.regs (P := P) | apply Good.live (P := P) | apply Good.mem (P := P) | apply Good.poison (P := P)
      | apply Good.host (P := P) | apply Good.flash (P := P) | apply Good.sram (P := P) | apply Good.prog (P := P)
      | apply Good.curd (P := P) | apply Tab.wf_setAll
      | ((refine ⟨?_, ?_, ?_, ?_, ?_, ?_, ?_, ?_, ?_, ?_⟩) <;> dsimp only)))

theorem Acc.verdict_good {P : List Instr} {a : Acc} (h : Good P a.s) (m : Mould) (t0 : Nat) (xs : List (List W16))
    (outs : List (List W32)) (n : Nat) : Good P (a.verdict m t0 xs outs n).s := by
  induction n generalizing a with
  | zero => exact h
  | succ n ih =>
    unfold Acc.verdict
    dsimp only
    have hs := State.segVerdict_good h a.v (segChecks m (a.s.rd (.VAT_LANE_REMAP a.v)) t0 xs outs)
      (segChecks m (a.s.rd (.VAT_LANE_REMAP a.v)) t0 xs outs)
    split
    · next e => rw [e] at hs; exact hs
    · next e => rw [e] at hs; exact ih (a := { a with s := _ }) hs
    · next e => rw [e] at hs; exact hs

theorem Acc.segment_good {P : List Instr} {a : Acc} (h : Good P a.s) (m : Mould) (t0 : Nat) (rows : List Nat)
    (xOf : List Byte → List W16) (commit : Nat → List W32 → State → State)
    (hc : ∀ i o s, Good P s → Good P (commit i o s)) : Good P (a.segment m t0 rows xOf commit).s := by
  unfold Acc.segment
  with_reducible (repeat' (first
      | assumption | intro _ | apply Good.foldl | apply hc | apply Acc.flag_good | apply Acc.on_good
      | apply Acc.verdict_good | refine Good.accfst ‹_› (Acc.reads_good ?_ ..) | split | dsimp only))

theorem Acc.pressWith_good {P : List Instr} {a : Acc} (h : Good P a.s) (t0 : Nat) (rows : List Nat)
    (xOf : List Byte → List W16) (commit : Nat → List W32 → State → State)
    (hc : ∀ i o s, Good P s → Good P (commit i o s)) : Good P (a.pressWith t0 rows xOf commit).s := by
  unfold Acc.pressWith
  with_reducible (repeat' (first
      | assumption | intro _ | apply hc | apply Acc.each_good | apply Acc.on_good | apply Acc.segment_good
      | apply State.perf_good | split))

theorem Acc.press_good {P : List Instr} {a : Acc} (h : Good P a.s) (how slot t0 : Nat) (rows : List Nat) :
    Good P (Acc.press a how slot t0 rows).s := by
  unfold Acc.press
  with_reducible (repeat' (first | assumption | intro _ | apply Acc.pressWith_good | apply State.commitTok_good))

theorem State.mouldRun_good {P : List Instr} {s : State} (h : Good P s) (v c : Nat) (run : Run) (w : Nat) :
    Good P (State.mouldRun s v c run w).s := by
  unfold State.mouldRun
  with_reducible (repeat' (first
      | assumption | intro _ | apply Acc.faultsNow_good | apply Acc.load_good | apply Acc.on_good
      | apply State.setVat_good | split | dsimp only))

theorem State.mouldInsn_good {P : List Instr} {s : State} (h : Good P s) (v c : Nat) (run : Run) (w : Nat) :
    Good P (State.mouldInsn s v c run w) := by
  unfold State.mouldInsn
  with_reducible (repeat' (first
      | assumption | apply Good.ite | apply Acc.finish_good | apply State.mouldRun_good | apply State.raise_good))

theorem State.pressRun_good {P : List Instr} {s : State} (h : Good P s) (v c : Nat) (run : Run) (w : Nat) :
    Good P (State.pressRun s v c run w).s := by
  unfold State.pressRun
  with_reducible (repeat' (first | assumption | apply Acc.faultsNow_good | apply Acc.press_good | split | dsimp only))

theorem State.pressInsn_good {P : List Instr} {s : State} (h : Good P s) (v c : Nat) (run : Run) (w : Nat) :
    Good P (State.pressInsn s v c run w) := by
  unfold State.pressInsn
  with_reducible (repeat' (first
      | assumption | apply Good.ite | apply Acc.finish_good | apply State.pressRun_good | apply State.raise_good))

theorem Acc.writeTok_good {P : List Instr} {a : Acc} (h : Good P a.s) (p : Ptr) (ch t : Nat) (rows : List (List Byte)) :
    Good P (Acc.writeTok a p ch t rows).s := by
  unfold Acc.writeTok
  with_reducible (repeat' (first | assumption | intro _ | apply Acc.each_good | apply Acc.write_good))

theorem Acc.convert_good {P : List Instr} {a : Acc} (h : Good P a.s) (fmt : Nat) (md : Conv) (j : Nat) (xs : List W32) :
    Good P (Acc.convert a fmt md j xs).1.s := by
  unfold Acc.convert
  with_reducible (repeat' (first | assumption | apply Acc.flag_good | apply State.cvtRow_good))

theorem Acc.drainTok_good {P : List Instr} {a : Acc} (h : Good P a.s) (d : Drain) (bs : Option (List W32)) (nv ch t slot : Nat) :
    Good P (Acc.drainTok a d bs nv ch t slot).s := by
  unfold Acc.drainTok
  with_reducible (repeat' (first
      | assumption | apply Acc.convert_good | apply Acc.flag_good | apply Acc.writeTok_good | split))

theorem Acc.biasOf_good {P : List Instr} {a : Acc} (h : Good P a.s) (d : Drain) (nv ch : Nat) :
    Good P (Acc.biasOf a d nv ch).1.s := by
  unfold Acc.biasOf
  with_reducible (repeat' (first | assumption | apply Acc.reads_good | split))

theorem Acc.drainToks_good {P : List Instr} {a : Acc} (h : Good P a.s) (d : Drain) (nv ch base tb t0 t1 : Nat) :
    Good P (Acc.drainToks a d nv ch base tb t0 t1).s := by
  unfold Acc.drainToks
  with_reducible (repeat' (first
      | assumption | intro _ | apply Acc.biasOf_good | apply Acc.drainTok_good | apply Acc.each_good))

theorem Acc.unkeep_good {P : List Instr} {a : Acc} (h : Good P a.s)  :
    Good P (Acc.unkeep a).s := by
  unfold Acc.unkeep
  with_reducible (repeat' (first | assumption | intro _ | apply Acc.on_good | apply State.wr_good))

theorem Acc.keep_good {P : List Instr} {a : Acc} (h : Good P a.s) (m mode : Nat) :
    Good P (Acc.keep a m mode).s := by
  unfold Acc.keep
  with_reducible (repeat' (first | assumption | intro _ | apply Acc.on_good | apply State.wr_good))

theorem Acc.inRuns_good {P : List Instr} {a : Acc} (h : Good P a.s) (n : Nat) (runs : List (Nat × Nat)) (f : Acc → Nat × Nat → Acc)
    (hf : ∀ a r, Good P a.s → Good P (f a r).s) : Good P (a.inRuns n runs f).s := by
  unfold Acc.inRuns
  refine Acc.each_good h _ _ fun a r h => ?_
  dsimp only
  split
  · exact Acc.boundary_good (hf _ _ h) ..
  · exact hf _ _ h

theorem State.drainRun_good {P : List Instr} {s : State} (h : Good P s) (v c : Nat) (run : Run) (w : Nat) :
    Good P (State.drainRun s v c run w).s := by
  unfold State.drainRun
  with_reducible (repeat' (first
      | assumption | intro _ | apply Acc.drainToks_good | apply Acc.faultsNow_good | apply Acc.inRuns_good
      | apply Acc.unkeep_good))

theorem State.drainInsn_good {P : List Instr} {s : State} (h : Good P s) (v c : Nat) (run : Run) (w : Nat) :
    Good P (State.drainInsn s v c run w) := by
  unfold State.drainInsn
  with_reducible (repeat' (first
      | assumption | apply Good.ite | apply Acc.finish_good | apply State.drainRun_good | apply State.raise_good))

theorem Acc.fillSlot_good {P : List Instr} {a : Acc} (h : Good P a.s) (p : Ptr) (t slot : Nat) :
    Good P (Acc.fillSlot a p t slot).s := by
  unfold Acc.fillSlot
  with_reducible (repeat' (first
      | assumption | intro _ | apply Acc.on_good | refine Good.accfst ‹_› (Acc.reads_good ?_ ..)
      | apply State.setCurdRow_good | split))

theorem State.fillRun_good {P : List Instr} {s : State} (h : Good P s) (v c : Nat) (run : Run) (w : Nat) :
    Good P (State.fillRun s v c run w).s := by
  unfold State.fillRun
  with_reducible (repeat' (first
      | assumption | intro _ | apply Acc.each_good | apply Acc.faultsNow_good | apply Acc.fillSlot_good
      | apply Acc.inRuns_good | apply Acc.keep_good | split | dsimp only))

theorem State.fillInsn_good {P : List Instr} {s : State} (h : Good P s) (v c : Nat) (run : Run) (w : Nat) :
    Good P (State.fillInsn s v c run w) := by
  unfold State.fillInsn
  with_reducible (repeat' (first
      | assumption | apply Good.ite | apply Acc.finish_good | apply State.fillRun_good | apply State.raise_good))

theorem Acc.skimFault_good {P : List Instr} {a : Acc} (h : Good P a.s) (row : Nat) (again : Bool) :
    Good P (Acc.skimFault a row again).s := by
  unfold Acc.skimFault
  with_reducible (repeat' (first
      | assumption | intro _ | apply Acc.fail_good | apply Acc.on_good | apply State.bankRetire_good
      | apply State.bump_good | apply State.lastErr_good | split | dsimp only))

theorem Acc.skimFaults_good {P : List Instr} {a : Acc} (h : Good P a.s)  :
    Good P (Acc.skimFaults a).s := by
  unfold Acc.skimFaults
  with_reducible (repeat' (first
      | assumption | intro _ | apply Acc.each_good | apply Acc.fault_good | apply Acc.skimFault_good | split))

theorem Acc.skimLoad_good {P : List Instr} {a : Acc} (h : Good P a.s) (m k : Nat) (row : Nat → Nat → Nat) :
    Good P (a.skimLoad m k row).1.s := by
  unfold Acc.skimLoad
  exact Good.fold (fun p : Acc × List (List (List W16)) => p.1.s) h fun p t h => Acc.reads_good h ..

theorem Acc.skimCheck_good {P : List Instr} {a : Acc} (h : Good P a.s) (f : FpFmt) (kv : Nat) (rows : List (Nat × List W16)) (xs : List (List W16)) :
    Good P (Acc.skimCheck a f kv rows xs).s := by
  unfold Acc.skimCheck
  with_reducible (repeat' (first
      | assumption | intro _ | apply Acc.each_good | apply Acc.on_good | apply Acc.skimFault_good
      | apply State.bump_good | split | dsimp only))

theorem Acc.skimChunk_good {P : List Instr} {a : Acc} (h : Good P a.s) (f : FpFmt) (kv : Nat) (rows : List Nat) (xs : List (List W16)) :
    Good P (Acc.skimChunk a f kv rows xs).1.s := by
  unfold Acc.skimChunk
  with_reducible (repeat' (first
      | assumption | intro _ | apply Acc.flag_good | apply Acc.on_good
      | refine Good.accfst ‹_› (Acc.reads_good ?_ ..) | apply Acc.skimCheck_good | apply State.perf_good | split
      | dsimp only))

theorem Acc.skimDots_good {P : List Instr} {a : Acc} (h : Good P a.s) (fmt k : Nat) (wrow : Nat → Nat → Nat) (os : List Nat)
    (xs : List (List (List W16))) : Good P (a.skimDots fmt k wrow os xs).1.s := by
  unfold Acc.skimDots
  refine Good.fold (fun p : Acc × List (List W32) => p.1.s) h fun p kc h => ?_
  have h1 := Acc.skimChunk_good h (fpOf fmt) (kValid k kc) (os.map (wrow kc)) (xs.map fun x => x.getD kc [])
  dsimp only
  split
  · exact h
  · split
    · exact h1
    · exact Acc.flag_good h1 ..

theorem Acc.skimWrite_good {P : List Instr} {a : Acc} (h : Good P a.s) (y : Ptr) (o0 o1 : Nat) (sums : List (List W32)) :
    Good P (Acc.skimWrite a y o0 o1 sums).s := by
  unfold Acc.skimWrite
  with_reducible (repeat' (first
      | assumption | intro _ | apply Acc.each_good | apply Acc.read_good | apply Acc.write_good | split))

theorem State.skimRun_good {P : List Instr} {s : State} (h : Good P s) (v c : Nat) (run : Run) (w : Nat) :
    Good P (State.skimRun s v c run w).s := by
  unfold State.skimRun
  with_reducible (repeat' (first
      | assumption | apply Acc.partDone_good | apply Acc.skimDots_good | apply Acc.skimFaults_good
      | apply Acc.skimLoad_good | apply Acc.skimWrite_good | split | dsimp only))

theorem State.skimInsn_good {P : List Instr} {s : State} (h : Good P s) (v c : Nat) (run : Run) (w : Nat) :
    Good P (State.skimInsn s v c run w) := by
  unfold State.skimInsn
  with_reducible (repeat' (first
      | assumption | apply Good.ite | apply Acc.finish_good | apply State.raise_good | apply State.skimRun_good))

theorem Acc.tileStep_good {P : List Instr} {a : Acc} (h : Good P a.s) (w : Nat) (d : Drain) (ws xs : List Ptr) (skip : Bool) (t : TStep) :
    Good P (Acc.tileStep a w d ws xs skip t).s := by
  unfold Acc.tileStep
  with_reducible (repeat' (first
      | assumption | apply Acc.drainToks_good | apply Acc.load_good | apply Acc.press_good | apply Acc.unkeep_good
      | split | dsimp only))

theorem Acc.tileSteps_good {P : List Instr} {a : Acc} (h : Good P a.s) (w : Nat) (d : Drain) (ws xs : List Ptr)
    (o : Option TStep) (l : List TStep) : Good P (a.tileSteps w d ws xs o l).s := by
  induction l generalizing a o with
  | nil => exact h
  | cons t ts ih =>
    unfold Acc.tileSteps
    split
    · exact h
    · refine ih ?_ _
      have h1 := fun b => Acc.tileStep_good h w d ws xs b t
      cases ts with
      | nil => exact h1 _
      | cons n ts => exact Acc.boundary_good (h1 _) ..

theorem Acc.tilePlates_good {P : List Instr} {a : Acc} (h : Good P a.s) (w : Nat) (d : Drain) (ws xs : List Ptr) :
    Good P (Acc.tilePlates a w d ws xs).s := by
  unfold Acc.tilePlates
  with_reducible (repeat' (first
      | assumption | apply Acc.faultsNow_good | apply Acc.keep_good | apply Acc.tileSteps_good | split | dsimp only))

theorem Acc.tileSkimChunk_good {P : List Instr} {a : Acc} (h : Good P a.s) (w : Nat) (d : Drain) (sums : List (List W32)) (o0 o1 n : Nat) :
    Good P (Acc.tileSkimChunk a w d sums o0 o1 n).s := by
  unfold Acc.tileSkimChunk
  with_reducible (repeat' (first
      | assumption | intro _ | apply Good.foldl | apply Acc.drainToks_good | apply Acc.on_good
      | apply Acc.unkeep_good | apply State.setCurdRow_good | split | dsimp only))

theorem Acc.tileSkim_good {P : List Instr} {a : Acc} (h : Good P a.s) (w : Nat) (d : Drain) (wp xp : Ptr) :
    Good P (Acc.tileSkim a w d wp xp).s := by
  unfold Acc.tileSkim
  with_reducible (repeat' (first
      | assumption | intro _ | apply Acc.each_good | apply Acc.partDone_good | apply Acc.skimDots_good
      | apply Acc.skimFaults_good | refine Good.accfst ‹_› (Acc.skimLoad_good ?_ ..) | apply Acc.tileSkimChunk_good
      | split | dsimp only))

theorem State.tileRun_good {P : List Instr} {s : State} (h : Good P s) (v c : Nat) (run : Run) (w : Nat) :
    Good P (State.tileRun s v c run w).s := by
  unfold State.tileRun
  with_reducible (repeat' (first
      | assumption | apply Acc.tilePlates_good | apply Acc.tileSkim_good | split | dsimp only))

theorem State.tileInsn_good {P : List Instr} {s : State} (h : Good P s) (v c : Nat) (run : Run) (w : Nat) :
    Good P (State.tileInsn s v c run w) := by
  unfold State.tileInsn
  with_reducible (repeat' (first
      | assumption | apply Good.ite | apply Acc.finish_good | apply State.raise_good | apply State.tileRun_good))

theorem Attn.readMask_good {P : List Instr} {a : Acc} (h : Good P a.s) (t : Attn) :
    Good P (Attn.readMask t a).1.s := by
  unfold Attn.readMask
  with_reducible (repeat' (first
      | assumption | apply Acc.fail_good | refine Good.accfst ‹_› (Acc.read_good ?_ ..) | apply Acc.reads_good
      | split | dsimp only))

theorem Attn.bitmaps_good {P : List Instr} {a : Acc} (h : Good P a.s) (t : Attn) (u0 r b : Nat) :
    Good P (Attn.bitmaps t a u0 r b).1.s := by
  unfold Attn.bitmaps
  with_reducible (repeat' (first | assumption | apply Acc.reads_good | split))

theorem Attn.loadKeys_good {P : List Instr} {a : Acc} (h : Good P a.s) (t : Attn) (b : Nat) :
    Good P (Attn.loadKeys t a b).s := by
  unfold Attn.loadKeys
  with_reducible (repeat' (first | assumption | apply Acc.loadWith_good))

theorem Attn.loadVals_good {P : List Instr} {a : Acc} (h : Good P a.s) (t : Attn) (b : Nat) :
    Good P (Attn.loadVals t a b).s := by
  unfold Attn.loadVals
  with_reducible (repeat' (first | assumption | apply Acc.loadWith_good))

theorem Attn.setStats_good {P : List Instr} {a : Acc} (h : Good P a.s) (t : Attn) (i : Nat) (m l al : W32) :
    Good P (Attn.setStats t a i m l al).s := by
  unfold Attn.setStats
  with_reducible (repeat' (first
      | assumption | intro _ | apply Acc.on_good | apply Good.pend | apply Good.regs (P := P)
      | apply Good.live (P := P) | apply Good.mem (P := P) | apply Good.poison (P := P) | apply Good.host (P := P)
      | apply Good.flash (P := P) | apply Good.sram (P := P) | apply Good.prog (P := P) | apply Good.curd (P := P)
      | apply Tab.wf_setAll | ((refine ⟨?_, ?_, ?_, ?_, ?_, ?_, ?_, ?_, ?_, ?_⟩) <;> dsimp only)))

theorem Attn.init_good {P : List Instr} {a : Acc} (h : Good P a.s) (t : Attn) (u0 r : Nat) :
    Good P (Attn.init t a u0 r).s := by
  unfold Attn.init
  with_reducible (repeat' (first
      | assumption | intro _ | apply Acc.each_good | apply Acc.on_good | apply Acc.read_good | apply Acc.reads_good
      | apply Attn.setStats_good | apply Good.pend | apply Good.regs (P := P) | apply Good.live (P := P)
      | apply Good.mem (P := P) | apply Good.poison (P := P) | apply Good.host (P := P) | apply Good.flash (P := P)
      | apply Good.sram (P := P) | apply Good.prog (P := P) | apply Good.curd (P := P) | apply Tab.wf_setAll | split
      | dsimp only | ((refine ⟨?_, ?_, ?_, ?_, ?_, ?_, ?_, ?_, ?_, ?_⟩) <;> dsimp only)))

theorem Attn.rindRow_good {P : List Instr} {a : Acc} (h : Good P a.s) (t : Attn) (i : Nat) (ok : Nat → Bool) :
    Good P (Attn.rindRow t a i ok).s := by
  unfold Attn.rindRow
  with_reducible (repeat' (first
      | assumption | apply Acc.flag_good | apply Acc.write_good | apply Attn.setStats_good | split | dsimp only))

theorem Attn.commitO_good {P : List Instr} {s : State} (h : Good P s) (t : Attn) (v i : Nat) (out : List W32) :
    Good P (Attn.commitO t v i out s) := by
  unfold Attn.commitO
  with_reducible (repeat' (first
      | assumption | apply State.joinFlags_good | apply Good.pend | apply Good.regs (P := P)
      | apply Good.live (P := P) | apply Good.mem (P := P) | apply Good.poison (P := P) | apply Good.host (P := P)
      | apply Good.flash (P := P) | apply Good.sram (P := P) | apply Good.prog (P := P) | apply Good.curd (P := P)
      | apply Tab.wf_setAll | ((refine ⟨?_, ?_, ?_, ?_, ?_, ?_, ?_, ?_, ?_, ?_⟩) <;> dsimp only)))

theorem Attn.visit_good {P : List Instr} {a : Acc} (h : Good P a.s) (t : Attn) (u0 r b : Nat) (ok : Nat → Nat → Bool) :
    Good P (Attn.visit t a u0 r b ok).s := by
  unfold Attn.visit
  with_reducible (repeat' (first
      | assumption | intro _ | apply Acc.each_good | apply Acc.pressWith_good | apply Attn.commitO_good
      | apply Attn.loadKeys_good | apply Attn.loadVals_good | apply Attn.rindRow_good | apply State.setCurdRow_good
      | split | dsimp only))

theorem Attn.finOut_good {P : List Instr} {a : Acc} (h : Good P a.s) (t : Attn) (i u : Nat) :
    Good P (Attn.finOut t a i u).s := by
  unfold Attn.finOut
  with_reducible (repeat' (first
      | assumption | intro _ | apply Acc.each_good | apply Acc.read_good | apply Acc.write_good))

theorem Attn.finNorm_good {P : List Instr} {a : Acc} (h : Good P a.s) (t : Attn) (i u : Nat) :
    Good P (Attn.finNorm t a i u).s := by
  unfold Attn.finNorm
  with_reducible (repeat' (first
      | assumption | apply Acc.convert_good | apply Acc.flag_good | apply Acc.read_good | apply Acc.write_good
      | split))

theorem Attn.finalise_good {P : List Instr} {a : Acc} (h : Good P a.s) (t : Attn) (u0 r : Nat) :
    Good P (Attn.finalise t a u0 r).s := by
  unfold Attn.finalise
  with_reducible (repeat' (first
      | assumption | intro _ | apply Acc.each_good | apply Attn.finNorm_good | apply Attn.finOut_good | split))

theorem Attn.ringTake_good {P : List Instr} {a : Acc} (h : Good P a.s) (t : Attn) (b : Acc) (e : t.ringTake a = some b) :
    Good P b.s := by
  unfold Attn.ringTake at e
  split at e
  · cases e; exact h
  · split at e
    · cases e; exact State.setVat_good h ..
    · cases e' : a.s.takeSem a.v 0 t.pair 1 with
      | none => simp [e'] at e
      | some u =>
        simp [e'] at e
        subst e
        exact State.takeSem_good h _ _ _ _ _ e'

theorem Attn.ringGive_good {P : List Instr} {a : Acc} (h : Good P a.s) (t : Attn) :
    Good P (Attn.ringGive t a).s := by
  unfold Attn.ringGive
  with_reducible (repeat' (first | assumption | intro _ | apply Acc.on_good | apply State.addSem_good | split))

theorem Attn.blocks_good {P : List Instr} {a : Acc} (h : Good P a.s) (t : Attn) (q u0 r b n : Nat) :
    Good P (t.blocks a q u0 r b n).s := by
  induction n generalizing a b with
  | zero => exact h
  | succ n ih =>
    unfold Attn.blocks
    split
    · exact h
    · split
      · exact State.waitOn_good (Acc.hold_good (Acc.partDone_good h ..) ..) ..
      · next a' e =>
        have h1 := Attn.ringTake_good h t _ e
        have h2 := Attn.bitmaps_good h1 t u0 r b
        dsimp only
        split
        · exact ih (Attn.ringGive_good h2 ..) _
        · refine ih ?_ _
          with_reducible (repeat' (first
              | assumption | apply Attn.visit_good | apply Attn.ringGive_good | apply Acc.boundary_good | split))

theorem Attn.qblock_good {P : List Instr} {a : Acc} (h : Good P a.s) (t : Attn) (q b0 : Nat) :
    Good P (Attn.qblock t a q b0).s := by
  unfold Attn.qblock
  with_reducible (repeat' (first
      | assumption | apply Acc.boundary_good | apply Attn.blocks_good | apply Attn.finalise_good
      | apply Attn.init_good | split | dsimp only))

theorem State.attnRun_good {P : List Instr} {s : State} (h : Good P s) (v c : Nat) (run : Run) (w : Nat) :
    Good P (State.attnRun s v c run w).s := by
  unfold State.attnRun
  with_reducible (repeat' (first
      | assumption | intro _ | apply Acc.each_good | apply Acc.faultsNow_good | apply Acc.unkeep_good
      | apply Attn.qblock_good | apply Attn.readMask_good | apply State.release_good))

theorem State.attnInsn_good {P : List Instr} {s : State} (h : Good P s) (v c : Nat) (run : Run) (w : Nat) :
    Good P (State.attnInsn s v c run w) := by
  unfold State.attnInsn
  with_reducible (repeat' (first
      | assumption | apply Good.ite | apply Acc.finish_good | apply State.attnRun_good | apply State.raise_good))

theorem Acc.rindOperand_good {P : List Instr} {a : Acc} (h : Good P a.s) (p : Ptr) (i n fmt : Nat) :
    Good P (Acc.rindOperand a p i n fmt).1.s := by
  unfold Acc.rindOperand
  with_reducible (repeat' (first | assumption | apply Acc.reads_good))

theorem Acc.rindBytes_good {P : List Instr} {a : Acc} (h : Good P a.s) (w j : Nat) (xs : List W32) :
    Good P (Acc.rindBytes a w j xs).1.s := by
  unfold Acc.rindBytes
  with_reducible (repeat' (first | assumption | apply Acc.convert_good | split))

theorem Acc.rindRows_good {P : List Instr} {a : Acc} (h : Good P a.s) (t : RindOp) (i : Nat) (ys : List W32) :
    Good P (Acc.rindRows a t i ys).s := by
  unfold Acc.rindRows
  with_reducible (repeat' (first
      | assumption | intro _ | apply Acc.each_good | apply Acc.rindBytes_good | apply Acc.write_good))

theorem Acc.rindSplit_good {P : List Instr} {a : Acc} (h : Good P a.s) (t : RindOp) (i : Nat) (xs : List W32) :
    Good P (Acc.rindSplit a t i xs).s := by
  unfold Acc.rindSplit
  with_reducible (repeat' (first
      | assumption | intro _ | apply Acc.each_good | apply Acc.flag_good | apply Acc.write_good))

theorem Acc.rindOne_good {P : List Instr} {a : Acc} (h : Good P a.s) (t : RindOp) (i : Nat) (part : List Byte) :
    Good P (Acc.rindOne a t i part).1.s := by
  unfold Acc.rindOne
  with_reducible (repeat' (first
      | assumption | apply Acc.flag_good | apply Acc.rindBytes_good | apply Acc.rindOperand_good
      | apply Acc.rindRows_good | apply Acc.rindSplit_good | apply Acc.write_good | split | dsimp only))

theorem Acc.rindItems_good {P : List Instr} {a : Acc} (h : Good P a.s) (t : RindOp) (i : Nat) (part : List Byte) (n : Nat) :
    Good P (Acc.rindItems t a i part n).s := by
  induction n generalizing a i part with
  | zero => exact h
  | succ n ih =>
    unfold Acc.rindItems
    split
    · exact h
    · have h1 := Acc.rindOne_good h t i part
      refine ih ?_ _ _
      dsimp only
      split
      · exact h1
      · exact Acc.boundary_good h1 ..

theorem State.rindRun_good {P : List Instr} {s : State} (h : Good P s) (v c : Nat) (run : Run) (w : Nat) :
    Good P (State.rindRun s v c run w).s := by
  unfold State.rindRun
  with_reducible (repeat' (first | assumption | apply Acc.faultsNow_good | apply Acc.rindItems_good))

theorem State.rindInsn_good {P : List Instr} {s : State} (h : Good P s) (v c : Nat) (run : Run) (w : Nat) :
    Good P (State.rindInsn s v c run w) := by
  unfold State.rindInsn
  with_reducible (repeat' (first
      | assumption | apply Good.ite | apply Acc.finish_good | apply State.raise_good | apply State.rindRun_good))

end Sys2Proof.Machine
end

