-- ==== Sys2Proof/Laws/KeepNet.lean ====
section
/-! SUPPORT. What the operations behind the Wagon, export, fabric and Sheaf commands keep: the queue, and the canonical form of the registers
and of every memory. -/

namespace Sys2Proof.Machine

theorem State.setPort_good {P : List Instr} {s : State} (h : Good P s) (p : Nat) (x : PortX) :
    Good P (State.setPort s p x) := by
  unfold State.setPort
  with_reducible (repeat' (first | assumption | refine Good.lit rfl rfl rfl rfl rfl rfl rfl rfl rfl rfl ?_))

theorem State.bwAdd_good {P : List Instr} {s : State} (h : Good P s) (p rx : Nat) (k : Pkt) :
    Good P (State.bwAdd s p rx k) := by
  unfold State.bwAdd
  with_reducible (repeat' (first
      | assumption | apply Good.ite | refine Good.lit rfl rfl rfl rfl rfl rfl rfl rfl rfl rfl ?_))

theorem State.sendOut_good {P : List Instr} {s : State} (h : Good P s) (p : Nat) (k : Pkt) :
    Good P (State.sendOut s p k) := by
  unfold State.sendOut
  with_reducible (repeat' (first | assumption | apply Good.ite | apply State.emit_good | apply State.setPort_good))

theorem State.send_good {P : List Instr} {s : State} (h : Good P s) (k : Pkt) :
    Good P (State.send s k) := by
  unfold State.send
  with_reducible (repeat' (first | assumption | apply State.emit_good | apply State.sendOut_good | split))

theorem State.sendNative_good {P : List Instr} {s : State} (h : Good P s) (m : Nat) (ks : List Pkt) :
    Good P (State.sendNative s m ks) := by
  unfold State.sendNative
  with_reducible (repeat' (first
      | assumption | intro _ | apply Good.foldl | apply State.send_good | apply State.sendOut_good | split))

theorem State.answer_good {P : List Instr} {s : State} (h : Good P s) (k : Pkt) (kind aux : Nat) :
    Good P (State.answer s k kind aux) := by
  unfold State.answer
  with_reducible (repeat' (first | assumption | apply Good.ite | apply State.send_good | apply State.sendOut_good))

theorem State.logPkt_good {P : List Instr} {s : State} (h : Good P s) (k : Pkt) (code : Nat) :
    Good P (State.logPkt s k code) := by
  unfold State.logPkt
  with_reducible (repeat' (first | assumption | apply State.log_good))

theorem State.setDesc_good {P : List Instr} {s : State} (h : Good P s) (v i : Nat) (d : Desc) :
    Good P (State.setDesc s v i d) := by
  unfold State.setDesc
  with_reducible (repeat' (first | assumption | apply State.setStream_good))

theorem State.batchRecord_good {P : List Instr} {s : State} (h : Good P s) (hdr status err didx : Nat) :
    Good P (State.batchRecord s hdr status err didx) := by
  unfold State.batchRecord
  with_reducible (repeat' (first | assumption | apply State.store_good))

theorem State.batchFailed_good {P : List Instr} {s : State} (h : Good P s) (v c err : Nat) :
    Good P (State.batchFailed s v c err) := by
  unfold State.batchFailed
  with_reducible (repeat' (first | assumption | apply Good.ite | apply State.enterError_good | apply State.put_good))

theorem State.streamFail_good {P : List Instr} {s : State} (h : Good P s) (v i err didx shown : Nat) :
    Good P (State.streamFail s v i err didx shown) := by
  unfold State.streamFail
  with_reducible (repeat' (first
      | assumption | apply Good.ite | apply State.batchFailed_good | apply State.batchRecord_good
      | apply State.emit_good | apply State.log_good | apply State.put_good | apply State.setStream_good
      | apply State.settle_good | split))

theorem State.descFail_good {P : List Instr} {s : State} (h : Good P s) (v i idx err : Nat) :
    Good P (State.descFail s v i idx err) := by
  unfold State.descFail
  with_reducible (repeat' (first
      | assumption | apply State.release_good | apply State.setDesc_good | apply State.streamFail_good | split))

theorem State.headerFetch_good {P : List Instr} {s : State} (h : Good P s) (v i : Nat) :
    Good P (State.headerFetch s v i) := by
  unfold State.headerFetch
  with_reducible (repeat' (first
      | assumption | apply Good.ite | apply State.setStream_good | apply State.streamFail_good | split
      | refine Good.lit rfl rfl rfl rfl rfl rfl rfl rfl rfl rfl ?_))

theorem State.descHead_good {P : List Instr} {s : State} (h : Good P s) (v i : Nat) :
    Good P (State.descHead s v i) := by
  unfold State.descHead
  with_reducible (repeat' (first
      | assumption | apply Good.ite | apply State.descFail_good | apply State.setStream_good | split
      | refine Good.lit rfl rfl rfl rfl rfl rfl rfl rfl rfl rfl ?_))

theorem State.dnetTake_good {P : List Instr} {s : State} (h : Good P s) (k : Nat) (p : DPkt) (stop : Nat) :
    Good P (State.dnetTake s k p stop) := by
  unfold State.dnetTake
  with_reducible (repeat' (first | assumption | split | refine Good.lit rfl rfl rfl rfl rfl rfl rfl rfl rfl rfl ?_))

theorem State.dnetReply_good {P : List Instr} {s : State} (h : Good P s) (stop part : Nat) (p : DPkt) (load : Load) :
    Good P (State.dnetReply s stop part p load) := by
  unfold State.dnetReply
  with_reducible (repeat' (first | assumption | apply State.dnetSend_good))

theorem State.tagFree_good {P : List Instr} {s : State} (h : Good P s) (id : Nat) :
    Good P (State.tagFree s id) := by
  unfold State.tagFree
  with_reducible (repeat' (first
      | assumption | apply State.killSettle_good | split
      | refine Good.lit rfl rfl rfl rfl rfl rfl rfl rfl rfl rfl ?_))

theorem State.setTag_good {P : List Instr} {s : State} (h : Good P s) (t : TagUse) :
    Good P (State.setTag s t) := by
  unfold State.setTag
  with_reducible (repeat' (first | assumption | refine Good.lit rfl rfl rfl rfl rfl rfl rfl rfl rfl rfl ?_))

theorem State.tagNew_good {P : List Instr} {s : State} (h : Good P s) (o : Nat × Nat × Nat) (p : Nat) :
    Good P (State.tagNew s o p) := by
  unfold State.tagNew
  with_reducible (repeat' (first | assumption | refine Good.lit rfl rfl rfl rfl rfl rfl rfl rfl rfl rfl ?_))

theorem State.tagSend_good {P : List Instr} {s : State} (h : Good P s) (v : Nat) (t : TagUse) (dest : DTo) (load : Load) :
    Good P (State.tagSend s v t dest load) := by
  unfold State.tagSend
  with_reducible (repeat' (first | assumption | apply State.dnetSend_good | apply State.setTag_good))

theorem State.dropPiece_good {P : List Instr} {s : State} (h : Good P s) (t : TagUse) :
    Good P (State.dropPiece s t) := by
  unfold State.dropPiece
  with_reducible (repeat' (first | assumption | intro _ | apply Good.foldl | apply State.tagFree_good))

theorem State.tagFail_good {P : List Instr} {s : State} (h : Good P s) (t : TagUse) (err : Nat) :
    Good P (State.tagFail s t err) := by
  unfold State.tagFail
  with_reducible (repeat' (first | assumption | apply State.descFail_good | apply State.dropPiece_good | split))

theorem State.tagLess_good {P : List Instr} {s : State} (h : Good P s) (t : TagUse) (n : Nat) :
    Good P (State.tagLess s t n) := by
  unfold State.tagLess
  with_reducible (repeat' (first | assumption | apply Good.ite | apply State.setTag_good | apply State.tagFree_good))

theorem State.lateDrop_good {P : List Instr} {s : State} (h : Good P s) (v r src : Nat) :
    Good P (State.lateDrop s v r src) := by
  unfold State.lateDrop
  with_reducible (repeat' (first
      | assumption | apply State.bump_good | apply State.lastErr_good | apply State.log_good))

theorem State.rowGone_good {P : List Instr} {s : State} (h : Good P s) (p : DPkt) (w : Nat) :
    Good P (State.rowGone s p w) := by
  unfold State.rowGone
  with_reducible (repeat' (first | assumption | apply State.tagLess_good | split))

theorem State.rowDone_good {P : List Instr} {s : State} (h : Good P s) (p : DPkt) (w err : Nat) :
    Good P (State.rowDone s p w err) := by
  unfold State.rowDone
  with_reducible (repeat' (first | assumption | apply State.dnetReply_good))

theorem State.refuseRows_good {P : List Instr} {s : State} (h : Good P s) (p : DPkt) (w : Nat) :
    Good P (State.refuseRows s p w) := by
  unfold State.refuseRows
  with_reducible (repeat' (first | assumption | apply State.setDesc_good | split))

theorem State.rowClaimsGo_good {P : List Instr} {s : State} (h : Good P s) (p : DPkt) (w : Nat) :
    Good P (State.rowClaimsGo s p w) := by
  unfold State.rowClaimsGo
  with_reducible (repeat' (first
      | assumption | apply Good.ite | refine Good.lit rfl rfl rfl rfl rfl rfl rfl rfl rfl rfl ?_))

theorem State.rowArrives_good {P : List Instr} {s : State} (h : Good P s) (w : Nat) (p : DPkt) (r : Nat) (data : List Byte) (poison : Bool) :
    Good P (State.rowArrives s w p r data poison) := by
  unfold State.rowArrives
  with_reducible (repeat' (first
      | assumption | apply Good.ite | apply State.claim_good | apply State.lateDrop_good | apply State.perf_good
      | apply State.refuseRows_good | apply State.rowClaimsGo_good | apply State.rowDone_good
      | apply State.rowGone_good | apply State.setRow_good))

theorem State.readArrives_good {P : List Instr} {s : State} (h : Good P s) (w : Nat) (p : DPkt) (a n : Nat) :
    Good P (State.readArrives s w p a n) := by
  unfold State.readArrives
  with_reducible (repeat' (first
      | assumption | apply Good.ite | apply State.claim_good | apply State.dnetReply_good | apply State.perf_good
      | split))

theorem State.hbmArrives_good {P : List Instr} {s : State} (h : Good P s) (h : Nat) (p : DPkt) (poison : Bool) :
    Good P (State.hbmArrives s h p poison) := by
  unfold State.hbmArrives
  with_reducible (repeat' (first
      | assumption | apply Good.ite | apply State.dnetReply_good | apply State.perfs_good
      | apply State.setPoison_good | apply State.store_good | split))

theorem State.getAnswer_good {P : List Instr} {s : State} (h : Good P s) (k : Pkt) (bytes : List Byte) (bad : Bool) :
    Good P (State.getAnswer s k bytes bad) := by
  unfold State.getAnswer
  with_reducible (repeat' (first | assumption | apply State.send_good))

theorem State.getPart_good {P : List Instr} {s : State} (h : Good P s) (id stop : Nat) (data : List Byte) (poison : Bool) :
    Good P (State.getPart s id stop data poison) := by
  unfold State.getPart
  with_reducible (repeat' (first
      | assumption | apply Good.ite | apply State.getAnswer_good | split
      | refine Good.lit rfl rfl rfl rfl rfl rfl rfl rfl rfl rfl ?_))

theorem State.semCtx_good {P : List Instr} {s : State} (h : Good P s) (v c : Nat) :
    Good P (State.semCtx s v c) := by
  unfold State.semCtx
  with_reducible (repeat' (first
      | assumption | apply Good.ite | apply State.nextPc_good | refine State.semwTest_good (e := ‹_ = some _›) ?_ ..
      | apply State.setVat_good | refine State.takeSem_good (e := ‹_ = some _›) ?_ .. | apply State.wake_good
      | split))

theorem State.semCtxs_good {P : List Instr} {s : State} (h : Good P s) (v : Nat) :
    Good P (State.semCtxs s v) := by
  unfold State.semCtxs
  with_reducible (repeat' (first | assumption | intro _ | apply Good.foldl | apply State.semCtx_good))

theorem State.semStream_good {P : List Instr} {s : State} (h : Good P s) (v i : Nat) :
    Good P (State.semStream s v i) := by
  unfold State.semStream
  with_reducible (repeat' (first
      | assumption | apply Good.ite | apply State.setDesc_good | refine State.takeSem_good (e := ‹_ = some _›) ?_ ..
      | split | refine Good.lit rfl rfl rfl rfl rfl rfl rfl rfl rfl rfl ?_))

theorem State.semCycle_good {P : List Instr} {s : State} (h : Good P s) (v : Nat) :
    Good P (State.semCycle s v) := by
  unfold State.semCycle
  with_reducible (repeat' (first
      | assumption | intro _ | apply Good.foldl | apply State.semCtxs_good | apply State.semStream_good))

theorem State.waitLate_good {P : List Instr} {s : State} (h : Good P s) (v c : Nat) :
    Good P (State.waitLate s v c) := by
  unfold State.waitLate
  with_reducible (repeat' (first | assumption | apply Good.ite | apply State.bump_good | split))

theorem State.deadlineMiss_good {P : List Instr} {s : State} (h : Good P s) (v c : Nat) :
    Good P (State.deadlineMiss s v c) := by
  unfold State.deadlineMiss
  with_reducible (repeat' (first
      | assumption | apply Good.ite | apply State.raise_good | apply State.semCycle_good | apply State.wr_good
      | split | refine Good.lit rfl rfl rfl rfl rfl rfl rfl rfl rfl rfl ?_))

theorem State.nextBurst_good {P : List Instr} {s : State} (h : Good P s) (v i idx : Nat) :
    Good P (State.nextBurst s v i idx) := by
  unfold State.nextBurst
  with_reducible (repeat' (first
      | assumption | apply Good.ite | apply State.setStream_good | split
      | refine Good.lit rfl rfl rfl rfl rfl rfl rfl rfl rfl rfl ?_))

theorem State.descBegin_good {P : List Instr} {s : State} (h : Good P s) (v i : Nat) (d : Desc) :
    Good P (State.descBegin s v i d) := by
  unfold State.descBegin
  with_reducible (repeat' (first
      | assumption | apply Good.ite | apply State.addSem_good | apply State.claim_good | apply State.descFail_good
      | apply State.nextBurst_good | apply State.perf_good | apply State.setDesc_good))

theorem State.descStart_good {P : List Instr} {s : State} (h : Good P s) (v i : Nat) :
    Good P (State.descStart s v i) := by
  unfold State.descStart
  with_reducible (repeat' (first
      | assumption | apply Good.ite | apply State.descBegin_good | apply State.semCycle_good | split
      | refine Good.lit rfl rfl rfl rfl rfl rfl rfl rfl rfl rfl ?_))

theorem State.writeProg_good {P : List Instr} {s : State} (h : Good P s) (v a : Nat) (data : List Byte) :
    Good P (State.writeProg s v a data) := by
  unfold State.writeProg
  with_reducible (repeat' (first
      | assumption | intro _ | apply Good.foldl | apply Good.pend | apply Good.regs (P := P)
      | apply Good.live (P := P) | apply Good.mem (P := P) | apply Good.poison (P := P) | apply Good.host (P := P)
      | apply Good.flash (P := P) | apply Good.sram (P := P) | apply Good.prog (P := P) | apply Good.curd (P := P)
      | apply Tab.wf_set | ((refine ⟨?_, ?_, ?_, ?_, ?_, ?_, ?_, ?_, ?_, ?_⟩) <;> dsimp only)))

theorem State.writeOwn_good {P : List Instr} {s : State} (h : Good P s) (v : Nat) (b : List Byte) (p : Nat) (data : List Byte) :
    Good P (State.writeOwn s v b p data).1 := by
  unfold State.writeOwn
  with_reducible (repeat' (first
      | assumption | apply State.lateDrop_good | apply State.perf_good | apply State.setRow_good
      | apply State.writeProg_good | split))

theorem State.pieceEnd_good {P : List Instr} {s : State} (h : Good P s) (v i : Nat) (d : Desc) (p : Nat) (srcs : List (List Byte)) :
    Good P (State.pieceEnd s v i d p srcs) := by
  unfold State.pieceEnd
  with_reducible (repeat' (first
      | assumption | intro _ | apply Good.ite | apply Good.foldl | apply State.descFail_good | apply State.perf_good
      | apply State.send_good | apply State.setTag_good | apply State.tagFree_good | apply State.tagSend_good
      | apply State.writeOwn_good | split))

theorem State.readBack_good {P : List Instr} {s : State} (h : Good P s) (t : TagUse) (data : List Byte) (bad : Bool) :
    Good P (State.readBack s t data bad) := by
  unfold State.readBack
  with_reducible (repeat' (first
      | assumption | apply Good.ite | apply State.dropPiece_good | apply State.pieceEnd_good
      | apply State.setTag_good | apply State.tagFail_good | split))

theorem State.readSend_good {P : List Instr} {s : State} (h : Good P s) (v : Nat) (b : List Byte) (t : TagUse) (x : Nat × Nat) :
    Good P (State.readSend s v b t x) := by
  unfold State.readSend
  with_reducible (repeat' (first
      | assumption | apply Good.ite | apply State.send_good | apply State.setTag_good | apply State.tagSend_good))

theorem State.pieceIssue_good {P : List Instr} {s : State} (h : Good P s) (v i : Nat) (d : Desc) (p : Nat) :
    Good P (State.pieceIssue s v i d p) := by
  unfold State.pieceIssue
  with_reducible (repeat' (first
      | assumption | intro _ | apply Good.ite | apply Good.foldl | apply State.descFail_good | apply State.perf_good
      | apply State.pieceEnd_good | apply State.readSend_good | apply State.setDesc_good | apply State.tagFree_good
      | apply State.tagNew_good | split | refine Good.lit rfl rfl rfl rfl rfl rfl rfl rfl rfl rfl ?_))

theorem State.tagQueue_good {P : List Instr} {s : State} (h : Good P s) (v : Nat) :
    Good P (State.tagQueue s v) := by
  unfold State.tagQueue
  with_reducible (repeat' (first
      | assumption | apply Good.ite | refine Good.lit rfl rfl rfl rfl rfl rfl rfl rfl rfl rfl ?_))

theorem State.movePieces_good {P : List Instr} {s : State} (h : Good P s) (v i idx n : Nat) : Good P (s.movePieces v i idx n) := by
  induction n generalizing s with
  | zero => exact h
  | succ n ih =>
    unfold State.movePieces
    split
    · exact h
    · next d _ =>
      split
      · exact h
      · exact ih (State.pieceIssue_good h ..)

theorem State.chunkGrant_good {P : List Instr} {s : State} (h : Good P s) (v : Nat) :
    Good P (State.chunkGrant s v) := by
  unfold State.chunkGrant
  with_reducible (repeat' (first
      | assumption | apply Good.ite | apply State.movePieces_good | apply State.perf_good
      | apply State.setStream_good | apply State.tagQueue_good | split))

theorem State.descPost_good {P : List Instr} {s : State} (h : Good P s) (v : Nat) (b : List Byte) :
    Good P (State.descPost s v b) := by
  unfold State.descPost
  with_reducible (repeat' (first | assumption | apply Good.ite | apply State.addSem_good | apply State.dnetSend_good))

theorem State.descPosts_good {P : List Instr} {s : State} (h : Good P s) (v i n : Nat) : Good P (s.descPosts v i n) := by
  induction n generalizing s with
  | zero => exact h
  | succ n ih =>
    unfold State.descPosts
    dsimp only
    split
    · exact h
    · split
      · exact ih (State.descPost_good (State.setStream_good h ..) ..)
      · exact h

theorem State.batchEnd_good {P : List Instr} {s : State} (h : Good P s) (v i : Nat) :
    Good P (State.batchEnd s v i) := by
  unfold State.batchEnd
  with_reducible (repeat' (first
      | assumption | apply Good.ite | apply State.batchRecord_good | apply State.emit_good
      | apply State.setStream_good | apply State.settle_good | split
      | refine Good.lit rfl rfl rfl rfl rfl rfl rfl rfl rfl rfl ?_))

theorem State.descComplete_good {P : List Instr} {s : State} (h : Good P s) (v i : Nat) :
    Good P (State.descComplete s v i) := by
  unfold State.descComplete
  with_reducible (repeat' (first
      | assumption | apply Good.ite | apply State.batchEnd_good | apply State.descPosts_good | apply State.emit_good
      | apply State.release_good | apply State.setDesc_good | split))

theorem State.tagReissue_good {P : List Instr} {s : State} (h : Good P s) (t : TagUse) :
    Good P (State.tagReissue s t) := by
  unfold State.tagReissue
  with_reducible (repeat' (first
      | assumption | apply State.dnetSend_good | apply State.send_good | apply State.sendNative_good
      | apply State.setTag_good | split | refine Good.lit rfl rfl rfl rfl rfl rfl rfl rfl rfl rfl ?_))

theorem State.answerArrives_good {P : List Instr} {s : State} (h : Good P s) (p : DPkt) (poison : Bool) :
    Good P (State.answerArrives s p poison) := by
  unfold State.answerArrives
  with_reducible (repeat' (first
      | assumption | apply Good.ite | apply State.readBack_good | apply State.tagFail_good
      | apply State.tagLess_good | split))

theorem State.vatArrives_good {P : List Instr} {s : State} (h : Good P s) (stop : Nat) (p : DPkt) (poison : Bool) :
    Good P (State.vatArrives s stop p poison) := by
  unfold State.vatArrives
  with_reducible (repeat' (first
      | assumption | apply Good.ite | apply State.addSem_good | apply State.answerArrives_good
      | apply State.bump_good | apply State.dnetReply_good | apply State.log_good | apply State.readArrives_good
      | apply State.rowArrives_good | apply State.setSem_good | split))

theorem State.dnetDeliver_good {P : List Instr} {s : State} (h : Good P s) (stop : Nat) (p : DPkt) (poison : Bool) :
    Good P (State.dnetDeliver s stop p poison) := by
  unfold State.dnetDeliver
  with_reducible (repeat' (first
      | assumption | apply Good.ite | apply State.dnetReply_good | apply State.getPart_good
      | apply State.hbmArrives_good | apply State.perfs_good | apply State.vatArrives_good | split))

theorem State.dnetArrive_good {P : List Instr} {s : State} (h : Good P s) (n : Nat) (e : FlitErr) :
    Good P (State.dnetArrive s n e) := by
  unfold State.dnetArrive
  with_reducible (repeat' (first
      | assumption | apply Good.ite | apply State.bump_good | apply State.dnetDeliver_good
      | apply State.dnetTake_good | apply State.log_good | split
      | refine Good.lit rfl rfl rfl rfl rfl rfl rfl rfl rfl rfl ?_))

theorem State.streamReset_good {P : List Instr} {s : State} (h : Good P s) (v i : Nat) :
    Good P (State.streamReset s v i) := by
  unfold State.streamReset
  with_reducible (repeat' (first
      | assumption | intro _ | apply Good.foldl | apply State.release_good | apply State.setStream_good
      | apply State.settle_good | refine Good.lit rfl rfl rfl rfl rfl rfl rfl rfl rfl rfl ?_))

theorem State.exportDone_good {P : List Instr} {s : State} (h : Good P s) (i : Nat) :
    Good P (State.exportDone s i) := by
  unfold State.exportDone
  with_reducible (repeat' (first
      | assumption | apply Good.ite | apply State.reqEnd_good | split
      | refine Good.lit rfl rfl rfl rfl rfl rfl rfl rfl rfl rfl ?_))

theorem State.recAcked_good {P : List Instr} {s : State} (h : Good P s) (r : Rec) :
    Good P (State.recAcked s r) := by
  unfold State.recAcked
  with_reducible (repeat' (first
      | assumption | apply Good.ite | apply State.exportDone_good | apply State.setReq_good
      | apply State.writeCounts_good))

theorem State.destDown_good {P : List Instr} {s : State} (h : Good P s) (d cause err : Nat) :
    Good P (State.destDown s d cause err) := by
  unfold State.destDown
  with_reducible (repeat' (first
      | assumption | intro _ | apply Good.ite | apply Good.foldl | apply State.emit_good | apply State.log_good
      | apply State.put_good | apply State.reqFail_good | apply State.setDest_good
      | refine Good.lit rfl rfl rfl rfl rfl rfl rfl rfl rfl rfl ?_))

theorem State.creditSet_good {P : List Instr} {s : State} (h : Good P s) (d : Nat) (n : Nat) :
    Good P (State.creditSet s d n).1 := by
  unfold State.creditSet
  with_reducible (repeat' (first
      | assumption | apply Good.ite | apply State.kvxWait_good | apply State.log_good | apply State.setDest_good
      | apply State.wr_good | split | dsimp only))

theorem State.creditTimeout_good {P : List Instr} {s : State} (h : Good P s) (d : Nat) :
    Good P (State.creditTimeout s d) := by
  unfold State.creditTimeout
  with_reducible (repeat' (first | assumption | apply Good.ite | apply State.destDown_good))

theorem State.emitAll_good {P : List Instr} {s : State} (h : Good P s) (l : List Sent) :
    Good P (State.emitAll s l) := by
  unfold State.emitAll
  with_reducible (repeat' (first | assumption | refine Good.lit rfl rfl rfl rfl rfl rfl rfl rfl rfl rfl ?_))

theorem State.recOut_good {P : List Instr} {s : State} (h : Good P s) (d : Nat) (r : Rec) (bs : List Byte) :
    Good P (State.recOut s d r bs) := by
  unfold State.recOut
  with_reducible (repeat' (first
      | assumption | apply Good.ite | apply State.emitAll_good | apply State.sendNative_good
      | apply State.setDest_good | refine Good.lit rfl rfl rfl rfl rfl rfl rfl rfl rfl rfl ?_))

theorem State.recSent_good {P : List Instr} {s : State} (h : Good P s) (r : Rec) :
    Good P (State.recSent s r) := by
  unfold State.recSent
  with_reducible (repeat' (first
      | assumption | apply Good.ite | apply State.bump_good | apply State.perfs_good | apply State.setReq_good
      | apply State.writeCounts_good))

theorem State.recordSend_good {P : List Instr} {s : State} (h : Good P s) (d : Nat) (krows vrows : List (List W16)) (poison : Bool) :
    Good P (State.recordSend s d krows vrows poison) := by
  unfold State.recordSend
  with_reducible (repeat' (first
      | assumption | apply Good.ite | apply State.kvxWait_good | apply State.log_good | apply State.recOut_good
      | apply State.recSent_good | apply State.setDest_good | apply State.wr_good | split))

theorem State.destStart_good {P : List Instr} {s : State} (h : Good P s) (d : Nat) :
    Good P (State.destStart s d) := by
  unfold State.destStart
  with_reducible (repeat' (first
      | assumption | apply State.kvxWait_good | apply State.put_good | apply State.setDest_good))

theorem State.psnAcked_good {P : List Instr} {s : State} (h : Good P s) (d psn : Nat) :
    Good P (State.psnAcked s d psn) := by
  unfold State.psnAcked
  with_reducible (repeat' (first
      | assumption | intro _ | apply Good.ite | apply Good.foldl | apply State.recAcked_good
      | apply State.setDest_good))

theorem State.goBack_good {P : List Instr} {s : State} (h : Good P s) (d : Nat) :
    Good P (State.goBack s d) := by
  unfold State.goBack
  with_reducible (repeat' (first | assumption | apply State.emitAll_good))

theorem State.roceRetry_good {P : List Instr} {s : State} (h : Good P s) (d : Nat) :
    Good P (State.roceRetry s d) := by
  unfold State.roceRetry
  with_reducible (repeat' (first
      | assumption | apply Good.ite | apply State.destDown_good | apply State.goBack_good | apply State.setDest_good))

theorem State.roceNak_good {P : List Instr} {s : State} (h : Good P s) (d : Nat) (k : RoceNak) (psn : Nat) :
    Good P (State.roceNak s d k psn) := by
  unfold State.roceNak
  with_reducible (repeat' (first
      | assumption | apply Good.ite | apply State.destDown_good | apply State.psnAcked_good
      | apply State.roceRetry_good | apply State.setDest_good | split))

theorem State.rnrExpiry_good {P : List Instr} {s : State} (h : Good P s) (d : Nat) :
    Good P (State.rnrExpiry s d) := by
  unfold State.rnrExpiry
  with_reducible (repeat' (first
      | assumption | apply Good.ite | apply State.destDown_good | apply State.goBack_good | apply State.setDest_good))

theorem State.cnp_good {P : List Instr} {s : State} (h : Good P s) (d : Nat) :
    Good P (State.cnp s d) := by
  unfold State.cnp
  with_reducible (repeat' (first | assumption | apply Good.ite | apply State.setDest_good))

theorem State.rateStep_good {P : List Instr} {s : State} (h : Good P s) (d : Nat) :
    Good P (State.rateStep s d) := by
  unfold State.rateStep
  with_reducible (repeat' (first | assumption | apply Good.ite | apply State.setDest_good))

theorem State.pfc_good {P : List Instr} {s : State} (h : Good P s) (x prio : Nat) (pause : Bool) :
    Good P (State.pfc s x prio pause) := by
  unfold State.pfc
  with_reducible (repeat' (first
      | assumption | apply Good.ite | refine Good.lit rfl rfl rfl rfl rfl rfl rfl rfl rfl rfl ?_))

theorem State.pageAcked_good {P : List Instr} {s : State} (h : Good P s) (d id : Nat) :
    Good P (State.pageAcked s d id) := by
  unfold State.pageAcked
  with_reducible (repeat' (first
      | assumption | apply State.recAcked_good | apply State.setDest_good | split
      | refine Good.lit rfl rfl rfl rfl rfl rfl rfl rfl rfl rfl ?_))

theorem State.tagTimeout_good {P : List Instr} {s : State} (h : Good P s) (n : Nat) :
    Good P (State.tagTimeout s n) := by
  unfold State.tagTimeout
  with_reducible (repeat' (first
      | assumption | apply Good.ite | apply State.destDown_good | apply State.log_good | apply State.tagFail_good
      | apply State.tagFree_good | apply State.tagReissue_good | split))

theorem State.refuse_good {P : List Instr} {s : State} (h : Good P s) (k : Pkt) (code : Nat) :
    Good P (State.refuse s k code) := by
  unfold State.refuse
  with_reducible (repeat' (first | assumption | apply State.answer_good | apply State.logPkt_good))

theorem State.memWrite_good {P : List Instr} {s : State} (h : Good P s) (k : Pkt) :
    Good P (State.memWrite s k) := by
  unfold State.memWrite
  with_reducible (repeat' (first
      | assumption | apply Good.ite | apply State.answer_good | apply State.perfs_good | apply State.refuse_good
      | apply State.setPoison_good | apply State.store_good))

theorem State.winWrite_good {P : List Instr} {s : State} (h : Good P s) (k : Pkt) :
    Good P (State.winWrite s k) := by
  unfold State.winWrite
  with_reducible (repeat' (first
      | assumption | apply Good.ite | apply State.addSem_good | apply State.answer_good | apply State.bump_good
      | apply State.lateDrop_good | apply State.perf_good | apply State.refuse_good | apply State.setRow_good))

theorem State.getReq_good {P : List Instr} {s : State} (h : Good P s) (k : Pkt) :
    Good P (State.getReq s k) := by
  unfold State.getReq
  with_reducible (repeat' (first
      | assumption | intro _ | apply Good.ite | apply Good.foldl | apply State.answer_good
      | apply State.dnetSend_good | apply State.getAnswer_good | apply State.refuse_good
      | refine Good.lit rfl rfl rfl rfl rfl rfl rfl rfl rfl rfl ?_))

theorem State.getData_good {P : List Instr} {s : State} (h : Good P s) (k : Pkt) :
    Good P (State.getData s k) := by
  unfold State.getData
  with_reducible (repeat' (first | assumption | apply Good.ite | apply State.readBack_good | split))

theorem State.fabricAck_good {P : List Instr} {s : State} (h : Good P s) (k : Pkt) :
    Good P (State.fabricAck s k) := by
  unfold State.fabricAck
  with_reducible (repeat' (first
      | assumption | intro _ | apply Good.ite | apply Good.foldl | apply State.pageAcked_good
      | apply State.tagFree_good | split))

theorem State.resend_good {P : List Instr} {s : State} (h : Good P s) (t : TagUse) :
    Good P (State.resend s t) := by
  unfold State.resend
  with_reducible (repeat' (first
      | assumption | intro _ | apply Good.foldl | apply State.send_good | apply State.sendNative_good | split))

theorem State.fabricNak_good {P : List Instr} {s : State} (h : Good P s) (k : Pkt) :
    Good P (State.fabricNak s k) := by
  unfold State.fabricNak
  with_reducible (repeat' (first
      | assumption | apply Good.ite | apply State.destDown_good | apply State.resend_good | apply State.tagFail_good
      | apply State.tagFree_good | split | refine Good.lit rfl rfl rfl rfl rfl rfl rfl rfl rfl rfl ?_))

theorem State.getReissue_good {P : List Instr} {s : State} (h : Good P s) (v : Nat) :
    Good P (State.getReissue s v) := by
  unfold State.getReissue
  with_reducible (repeat' (first
      | assumption | intro _ | apply Good.ite | apply Good.foldl | apply State.resend_good
      | refine Good.lit rfl rfl rfl rfl rfl rfl rfl rfl rfl rfl ?_))

theorem State.ringBreak_good {P : List Instr} {s : State} (h : Good P s) (dim pos : Nat) (withdraw : Bool) :
    Good P (State.ringBreak s dim pos withdraw) := by
  unfold State.ringBreak
  with_reducible (repeat' (first | assumption | split | refine Good.lit rfl rfl rfl rfl rfl rfl rfl rfl rfl rfl ?_))

theorem State.frameOut_good {P : List Instr} {s : State} (h : Good P s) (p : Nat) (u : TxFrame) :
    Good P (State.frameOut s p u) := by
  unfold State.frameOut
  with_reducible (repeat' (first | assumption | apply State.emit_good | apply State.setPort_good))

theorem State.frameNew_good {P : List Instr} {s : State} (h : Good P s) (p : Nat) (flits : List (Option (Pkt × Nat))) :
    Good P (State.frameNew s p flits) := by
  unfold State.frameNew
  with_reducible (repeat' (first | assumption | apply State.frameOut_good | apply State.setPort_good))

theorem State.pktCount_good {P : List Instr} {s : State} (h : Good P s) (p : Nat) (k : Pkt) :
    Good P (State.pktCount s p k) := by
  unfold State.pktCount
  with_reducible (repeat' (first | assumption | apply State.bwAdd_good | apply State.perfs_good))

theorem State.frameBoundary_good {P : List Instr} {s : State} (h : Good P s) (p : Nat) :
    Good P (State.frameBoundary s p) := by
  unfold State.frameBoundary
  with_reducible (repeat' (first | assumption | apply Good.ite | apply State.apply_good))

theorem State.portTick_good {P : List Instr} {s : State} (h : Good P s) (p : Nat) :
    Good P (State.portTick s p) := by
  unfold State.portTick
  with_reducible (repeat' (first
      | assumption | intro _ | apply Good.ite | apply Good.foldl | apply State.frameBoundary_good
      | apply State.frameNew_good | apply State.pktCount_good | apply State.setPort_good))

theorem State.linkTick_good {P : List Instr} {s : State} (h : Good P s)  :
    Good P (State.linkTick s) := by
  unfold State.linkTick
  with_reducible (repeat' (first | assumption | intro _ | apply Good.foldl | apply State.portTick_good))

theorem State.setPortSt_good {P : List Instr} {s : State} (h : Good P s) (p n : Nat) :
    Good P (State.setPortSt s p n) := by
  unfold State.setPortSt
  with_reducible (repeat' (first | assumption | apply State.put_good))

theorem State.replay_good {P : List Instr} {s : State} (h : Good P s) (p : Nat) :
    Good P (State.replay s p) := by
  unfold State.replay
  with_reducible (repeat' (first
      | assumption | intro _ | apply Good.ite | apply Good.foldl | apply State.bump_good | apply State.frameOut_good
      | apply State.perfs_good))

theorem State.frameCtl_good {P : List Instr} {s : State} (h : Good P s) (p : Nat) (f : Frame) :
    Good P (State.frameCtl s p f) := by
  unfold State.frameCtl
  with_reducible (repeat' (first | assumption | apply Good.ite | apply State.replay_good | apply State.setPort_good))

theorem State.arrived_good {P : List Instr} {s : State} (h : Good P s) (p : Nat) (k : Pkt) :
    Good P (State.arrived s p k) := by
  unfold State.arrived
  with_reducible (repeat' (first
      | assumption | apply Good.ite | apply State.bwAdd_good | apply State.logPkt_good | apply State.perfs_good
      | apply State.sendOut_good | split))

theorem State.flitIn_good {P : List Instr} {s : State} (h : Good P s) (p : Nat) (k : Pkt) (j : Nat) :
    Good P (State.flitIn s p k j) := by
  unfold State.flitIn
  with_reducible (repeat' (first | assumption | apply Good.ite | apply State.arrived_good | apply State.setPort_good))

theorem State.frame_good {P : List Instr} {s : State} (h : Good P s) (p : Nat) (f : Frame) :
    Good P (State.frame s p f) := by
  unfold State.frame
  with_reducible (repeat' (first
      | assumption | intro _ | apply Good.ite | apply Good.foldl | apply State.bump_good | apply State.flitIn_good
      | apply State.frameCtl_good | apply State.setPort_good | split))

theorem State.notices_good {P : List Instr} {s : State} (h : Good P s) (d pos : Nat) (withdraw : Bool) :
    Good P (State.notices s d pos withdraw) := by
  unfold State.notices
  with_reducible (repeat' (first | assumption | intro _ | apply Good.foldl | apply State.send_good))

theorem State.caught_good {P : List Instr} {s : State} (h : Good P s) (p : Nat) (k : Pkt) :
    Good P (State.caught s p k) := by
  unfold State.caught
  with_reducible (repeat' (first | assumption | apply Good.ite | apply State.answer_good | apply State.send_good))

theorem State.detour_good {P : List Instr} {s : State} (h : Good P s) (p : Nat) :
    Good P (State.detour s p) := by
  unfold State.detour
  with_reducible (repeat' (first
      | assumption | intro _ | apply Good.foldl | apply State.caught_good | apply State.log_good
      | apply State.notices_good | apply State.put_good | apply State.ringBreak_good | apply State.setPort_good
      | apply State.setPortSt_good | split))

theorem State.portFail_good {P : List Instr} {s : State} (h : Good P s) (p : Nat) :
    Good P (State.portFail s p) := by
  unfold State.portFail
  with_reducible (repeat' (first
      | assumption | apply Good.ite | apply State.detour_good | apply State.emit_good | apply State.log_good
      | apply State.put_good | apply State.setPortSt_good))

theorem State.portFresh_good {P : List Instr} {s : State} (h : Good P s) (p : Nat) :
    Good P (State.portFresh s p) := by
  unfold State.portFresh
  with_reducible (repeat' (first | assumption | apply State.replay_good | apply State.setPort_good))

theorem State.partnerMet_good {P : List Instr} {s : State} (h : Good P s) (p m q : Nat) (g : State → State)
    (hg : ∀ t, Good P t → Good P (g t)) : Good P (State.partnerMet s p m q g) := by
  unfold State.partnerMet
  with_reducible (repeat' (first | assumption | apply hg | apply Good.ite | apply State.log_good | apply State.put_good))

theorem State.portRetrain_good {P : List Instr} {s : State} (h : Good P s) (p : Nat) (ok : Bool) (m q : Nat) :
    Good P (State.portRetrain s p ok m q) := by
  unfold State.portRetrain
  with_reducible (repeat' (first
      | assumption | apply Good.ite | apply State.bump_good | apply State.portFail_good
      | (refine State.partnerMet_good ?_ _ _ _ _ (fun t ht => State.portFresh_good (State.setPortSt_good ht _ _) _))
      | apply State.setPort_good | apply State.setPortSt_good))

theorem State.takeover_good {P : List Instr} {s : State} (h : Good P s) (p : Nat) (partnerOk : Bool) :
    Good P (State.takeover s p partnerOk) := by
  unfold State.takeover
  with_reducible (repeat' (first
      | assumption | apply Good.ite | apply State.detour_good | apply State.logDone_good
      | apply State.portFresh_good | apply State.put_good | apply State.setPort_good | apply State.setPortSt_good
      | apply State.wr_good | split))

theorem State.retryTrain_good {P : List Instr} {s : State} (h : Good P s) (p : Nat) :
    Good P (State.retryTrain s p) := by
  unfold State.retryTrain
  with_reducible (repeat' (first
      | assumption | apply Good.ite | apply State.setPort_good | apply State.setPortSt_good))

theorem State.trained_good {P : List Instr} {s : State} (h : Good P s) (p : Nat) :
    Good P (State.trained s p) := by
  unfold State.trained
  with_reducible (repeat' (first
      | assumption | apply Good.ite | apply State.logDone_good | apply State.notices_good
      | apply State.portFresh_good | apply State.put_good | apply State.ringBreak_good | apply State.setPort_good
      | apply State.setPortSt_good | split))

theorem State.trainDone_good {P : List Instr} {s : State} (h : Good P s) (p : Nat) (ok : Bool) (m q : Nat) :
    Good P (State.trainDone s p ok m q) := by
  unfold State.trainDone
  with_reducible (repeat' (first
      | assumption | apply Good.ite | apply State.portFail_good
      | (refine State.partnerMet_good ?_ _ _ _ _ (fun t ht => State.trained_good ht _))
      | apply State.setPort_good | apply State.setPortSt_good))

theorem State.rampStep_good {P : List Instr} {s : State} (h : Good P s) (p : Nat) :
    Good P (State.rampStep s p) := by
  unfold State.rampStep
  with_reducible (repeat' (first | assumption | apply Good.ite | apply State.put_good | apply State.setPortSt_good))

theorem State.channelReturn_good {P : List Instr} {s : State} (h : Good P s) (vc : Nat) :
    Good P (State.channelReturn s vc) := by
  unfold State.channelReturn
  with_reducible (repeat' (first
      | assumption | apply Good.ite | apply State.setPort_good | apply State.setPortSt_good | apply State.wr_good))

theorem State.setTimeSt_good {P : List Instr} {s : State} (h : Good P s) (n : Nat) :
    Good P (State.setTimeSt s n) := by
  unfold State.setTimeSt
  with_reducible (repeat' (first | assumption | apply State.put_good))

theorem State.electMaster_good {P : List Instr} {s : State} (h : Good P s)  :
    Good P (State.electMaster s) := by
  unfold State.electMaster
  with_reducible (repeat' (first | assumption | apply State.put_good))

theorem State.bpresLoss_good {P : List Instr} {s : State} (h : Good P s) (slot : Nat) :
    Good P (State.bpresLoss s slot) := by
  unfold State.bpresLoss
  with_reducible (repeat' (first
      | assumption | apply Good.ite | apply State.electMaster_good | apply State.setTimeSt_good
      | refine Good.lit rfl rfl rfl rfl rfl rfl rfl rfl rfl rfl ?_))

theorem State.tsyncExchange_good {P : List Instr} {s : State} (h : Good P s)  :
    Good P (State.tsyncExchange s) := by
  unfold State.tsyncExchange
  with_reducible (repeat' (first | assumption | intro _ | apply Good.ite | apply Good.foldl | apply State.send_good))

theorem State.tsync_good {P : List Instr} {s : State} (h : Good P s) (t1 t2 t3 t4 : Nat) :
    Good P (State.tsync s t1 t2 t3 t4) := by
  unfold State.tsync
  with_reducible (repeat' (first
      | assumption | apply Good.ite | apply State.put_good | apply State.setTimeSt_good | apply State.wr_good
      | split | refine Good.lit rfl rfl rfl rfl rfl rfl rfl rfl rfl rfl ?_))

theorem State.shSend_good {P : List Instr} {s : State} (h : Good P s) (d k r sub step chunk : Nat) (data : List Byte) :
    Good P (State.shSend s d k r sub step chunk data) := by
  unfold State.shSend
  with_reducible (repeat' (first | assumption | apply State.send_good))

theorem State.shCast_good {P : List Instr} {s : State} (h : Good P s) (d k sub : Nat) (data : List Byte) :
    Good P (State.shCast s d k sub data) := by
  unfold State.shCast
  with_reducible (repeat' (first | assumption | intro _ | apply Good.foldl | apply State.shSend_good))

theorem State.shChunk_good {P : List Instr} {s : State} (h : Good P s) (d k r step chunk : Nat) (ebs data : List Byte)
    (spoilt : Bool) : Good P (State.shChunk s d k r step chunk ebs data spoilt) := by
  unfold State.shChunk
  with_reducible (repeat' (first | assumption | intro _ | apply Good.foldl | apply State.send_good))

theorem State.shSet_good {P : List Instr} {s : State} (h : Good P s) (o : ShOp) :
    Good P (State.shSet s o) := by
  unfold State.shSet
  with_reducible (repeat' (first | assumption | refine Good.lit rfl rfl rfl rfl rfl rfl rfl rfl rfl rfl ?_))

theorem State.shWord_good {P : List Instr} {s : State} (h : Good P s) (f cpl err flags : Nat) :
    Good P (State.shWord s f cpl err flags) := by
  unfold State.shWord
  with_reducible (repeat' (first | assumption | apply State.hostOut_good | apply State.raiseMsi_good))

theorem State.shLast_good {P : List Instr} {s : State} (h : Good P s) (o : ShOp) (code reason : Nat) :
    Good P (State.shLast s o code reason) := by
  unfold State.shLast
  with_reducible (repeat' (first | assumption | apply State.wr_good))

theorem State.shDrop_good {P : List Instr} {s : State} (h : Good P s) (o : ShOp) :
    Good P (State.shDrop s o) := by
  unfold State.shDrop
  with_reducible (repeat' (first
      | assumption | apply State.release_good | refine Good.lit rfl rfl rfl rfl rfl rfl rfl rfl rfl rfl ?_))

theorem State.shEnd_good {P : List Instr} {s : State} (h : Good P s) (o : ShOp) (code reason flags : Nat) :
    Good P (State.shEnd s o code reason flags) := by
  unfold State.shEnd
  with_reducible (repeat' (first
      | assumption | apply State.bump_good | apply State.reqFail_good | apply State.shDrop_good
      | apply State.shLast_good | apply State.shWord_good | split))

theorem State.shStop_good {P : List Instr} {s : State} (h : Good P s) (o : ShOp) (code reason : Nat) :
    Good P (State.shStop s o code reason) := by
  unfold State.shStop
  with_reducible (repeat' (first
      | assumption | apply Good.ite | apply State.log_good | apply State.shCast_good | apply State.shEnd_good
      | apply State.shSend_good))

theorem State.shLaunch_good {P : List Instr} {s : State} (h : Good P s) (f : Nat) (val : W64) :
    Good P (State.shLaunch s f val) := by
  unfold State.shLaunch
  with_reducible (repeat' (first
      | assumption | apply Good.ite | apply State.claim_good | apply State.log_good | apply State.put_good
      | apply State.shWord_good | refine Good.lit rfl rfl rfl rfl rfl rfl rfl rfl rfl rfl ?_))

theorem State.shWrite_good {P : List Instr} {s : State} (h : Good P s) (a : Nat) (bs : List Byte) :
    Good P (State.shWrite s a bs) := by
  unfold State.shWrite
  with_reducible (repeat' (first
      | assumption | intro _ | apply Good.ite | apply Good.foldl | apply State.setRow_good | apply State.store_good))

theorem State.shDeliver_good {P : List Instr} {s : State} (h : Good P s) (o : ShOp) :
    Good P (State.shDeliver s o) := by
  unfold State.shDeliver
  with_reducible (repeat' (first | assumption | apply State.shWrite_good))

theorem State.shDone_good {P : List Instr} {s : State} (h : Good P s) (o : ShOp) :
    Good P (State.shDone s o) := by
  unfold State.shDone
  with_reducible (repeat' (first
      | assumption | apply Good.ite | apply State.shCast_good | apply State.shEnd_good | apply State.shSend_good
      | apply State.shSet_good | split))

theorem State.shFinish_good {P : List Instr} {s : State} (h : Good P s) (o : ShOp) :
    Good P (State.shFinish s o) := by
  unfold State.shFinish
  with_reducible (repeat' (first
      | assumption | apply Good.ite | apply State.shDeliver_good | apply State.shDone_good))

theorem State.shMerge_good {P : List Instr} {s : State} (h : Good P s) (o : ShOp) (p : ShPart) : Good P (s.shMerge o p).1 := by
  unfold State.shMerge
  dsimp only
  refine Good.fold (fun a : State × ShOp => a.1) h fun a x h => ?_
  dsimp only
  split
  · exact State.perfs_good h ..
  · exact h

theorem State.shSendChunk_good {P : List Instr} {s : State} (h : Good P s) (o : ShOp) (p : ShPart) (r c : Nat) :
    Good P (State.shSendChunk s o p r c).1 := by
  unfold State.shSendChunk
  with_reducible (repeat' (first | assumption | apply State.shChunk_good))

theorem State.shMend_good {P : List Instr} {s : State} (h : Good P s) (o : ShOp) (p : ShPart) : Good P (s.shMend o p).1 := by
  unfold State.shMend
  exact Good.fold (fun a : State × ShOp => a.1) h fun a x h => State.bump_good (State.shSendChunk_good h ..) ..

theorem State.shFeedOne_good {P : List Instr} {s : State} (h : Good P s) (o : ShOp) (p : ShPart) (t : ShOut) :
    Good P (s.shFeedOne o p t).1 := by
  unfold State.shFeedOne
  exact Good.fold (fun a : State × ShOp × ShOut => a.1) h fun a x h => State.shSendChunk_good h ..

theorem State.shFeed_good {P : List Instr} {s : State} (h : Good P s) (o : ShOp) (p : ShPart) : Good P (s.shFeed o p).1 := by
  unfold State.shFeed
  exact Good.fold (fun a : State × ShOp × List ShOut => a.1) h fun a x h => State.shFeedOne_good h ..

theorem State.shPart_good {P : List Instr} {s : State} (h : Good P s) (o : ShOp) (p : ShPart) : Good P (s.shPart o p).1 := by
  unfold State.shPart
  dsimp only
  with_reducible (repeat' (first | assumption | apply State.shFeed_good | apply State.shMend_good | apply State.shMerge_good | split))

theorem State.shGo_good {P : List Instr} {s : State} (h : Good P s) (o : ShOp) (n : Nat) : Good P (s.shGo o n) := by
  induction n generalizing s o with
  | zero => exact State.shSet_good h ..
  | succ n ih =>
    unfold State.shGo
    split
    · split
      · exact State.shEnd_good h ..
      · exact ih h _
    · split
      · exact State.shFinish_good h ..
      · split
        · exact State.shSet_good h ..
        · next p _ _ =>
          dsimp only
          generalize ho : (if o.step < p.step then _ else o : ShOp) = o'
          have h1 := State.shPart_good h o' p
          split
          · exact ih h1 _
          · exact State.shSet_good h1 ..

theorem State.shRun_good {P : List Instr} {s : State} (h : Good P s) (o : ShOp) :
    Good P (State.shRun s o) := by
  unfold State.shRun
  with_reducible (repeat' (first | assumption | apply State.shGo_good))

theorem State.shStart_good {P : List Instr} {s : State} (h : Good P s) (o : ShOp) :
    Good P (State.shStart s o) := by
  unfold State.shStart
  with_reducible (repeat' (first
      | assumption | apply Good.ite | apply State.shRun_good | apply State.shSet_good | apply State.shStop_good))

theorem State.shDecide_good {P : List Instr} {s : State} (h : Good P s) (o : ShOp) (bad : Bool) :
    Good P (State.shDecide s o bad) := by
  unfold State.shDecide
  with_reducible (repeat' (first
      | assumption | apply Good.ite | apply State.shCast_good | apply State.shEnd_good | apply State.shStart_good))

theorem State.shHello_good {P : List Instr} {s : State} (h : Good P s) (o : ShOp) :
    Good P (State.shHello s o) := by
  unfold State.shHello
  with_reducible (repeat' (first
      | assumption | apply Good.ite | apply State.shDecide_good | apply State.shSend_good | apply State.shSet_good
      | split | refine Good.lit rfl rfl rfl rfl rfl rfl rfl rfl rfl rfl ?_))

theorem State.shOpStart_good {P : List Instr} {s : State} (h : Good P s) (d : Nat) :
    Good P (State.shOpStart s d) := by
  unfold State.shOpStart
  with_reducible (repeat' (first
      | assumption | apply Good.ite | apply State.shHello_good | split
      | refine Good.lit rfl rfl rfl rfl rfl rfl rfl rfl rfl rfl ?_))

theorem State.shHelloIn_good {P : List Instr} {s : State} (h : Good P s) (h : ShHead) (hash : Nat) (marked : Bool) :
    Good P (State.shHelloIn s h hash marked) := by
  unfold State.shHelloIn
  with_reducible (repeat' (first
      | assumption | apply Good.ite | apply State.shDecide_good | apply State.shHello_good | split))

theorem State.shBad_good {P : List Instr} {s : State} (h : Good P s) (o : ShOp) (step r c : Nat)
    (xs : List Nat) : Good P (State.shBad s o step r c xs) := by
  unfold State.shBad
  with_reducible (repeat' (first
      | assumption | apply Good.ite | apply State.shRun_good | apply State.shSend_good | apply State.shSet_good
      | apply State.shStop_good))

theorem State.shKv_good {P : List Instr} {s : State} (h : Good P s) (o : ShOp) (k : ShChunk) :
    Good P (State.shKv s o k) := by
  unfold State.shKv
  with_reducible (repeat' (first
      | assumption | apply Good.ite | apply State.shBad_good | apply State.shChunk_good | apply State.shSend_good
      | apply State.shSet_good))

theorem State.shData_good {P : List Instr} {s : State} (h : Good P s) (k : ShChunk) :
    Good P (State.shData s k) := by
  unfold State.shData
  with_reducible (repeat' (first
      | assumption | apply Good.ite | apply State.shBad_good | apply State.shKv_good | apply State.shRun_good
      | apply State.shSend_good | split | refine Good.lit rfl rfl rfl rfl rfl rfl rfl rfl rfl rfl ?_))

theorem State.shAck_good {P : List Instr} {s : State} (h : Good P s) (h : ShHead) (step c : Nat) :
    Good P (State.shAck s h step c) := by
  unfold State.shAck
  with_reducible (repeat' (first | assumption | apply Good.ite | apply State.shRun_good | split))

theorem State.shNak_good {P : List Instr} {s : State} (h : Good P s) (h : ShHead) (step c : Nat) :
    Good P (State.shNak s h step c) := by
  unfold State.shNak
  with_reducible (repeat' (first
      | assumption | apply Good.ite | apply State.bump_good | apply State.shSendChunk_good | apply State.shSet_good
      | apply State.shStop_good | split))

theorem State.shReissue_good {P : List Instr} {s : State} (h : Good P s) (o : ShOp) :
    Good P (State.shReissue s o) := by
  unfold State.shReissue
  with_reducible (repeat' (first | assumption | intro _ | apply Good.foldl | apply State.shSendChunk_good | split))

theorem State.nakIn_good {P : List Instr} {s : State} (h : Good P s) (k : Pkt) :
    Good P (State.nakIn s k) := by
  unfold State.nakIn
  with_reducible (repeat' (first
      | assumption | apply Good.ite | apply State.fabricNak_good | apply State.shReissue_good | split))

theorem State.shDoneIn_good {P : List Instr} {s : State} (h : Good P s) (h : ShHead) (flags : Flags) (n : Nat) :
    Good P (State.shDoneIn s h flags n) := by
  unfold State.shDoneIn
  with_reducible (repeat' (first
      | assumption | apply Good.ite | apply State.shCast_good | apply State.shDone_good | apply State.shEnd_good
      | split))

theorem State.shAbortIn_good {P : List Instr} {s : State} (h : Good P s) (h : ShHead) (code reason : Byte) :
    Good P (State.shAbortIn s h code reason) := by
  unfold State.shAbortIn
  with_reducible (repeat' (first
      | assumption | apply Good.ite | apply State.shCast_good | apply State.shEnd_good | split))

theorem State.shPauseBy_good {P : List Instr} {s : State} (h : Good P s) (o : ShOp) (r : Nat) :
    Good P (State.shPauseBy s o r) := by
  unfold State.shPauseBy
  with_reducible (repeat' (first | assumption | apply Good.ite | apply State.shCast_good | apply State.shSet_good))

theorem State.shResume_good {P : List Instr} {s : State} (h : Good P s) (o : ShOp) :
    Good P (State.shResume s o) := by
  unfold State.shResume
  with_reducible (repeat' (first | assumption | apply Good.ite | apply State.shRun_good | apply State.shSet_good))

theorem State.shResumeBy_good {P : List Instr} {s : State} (h : Good P s) (o : ShOp) (r : Nat) :
    Good P (State.shResumeBy s o r) := by
  unfold State.shResumeBy
  with_reducible (repeat' (first
      | assumption | apply Good.ite | apply State.shCast_good | apply State.shResume_good | apply State.shSet_good))

theorem State.shReqPause_good {P : List Instr} {s : State} (h : Good P s) (i : Nat) :
    Good P (State.shReqPause s i) := by
  unfold State.shReqPause
  with_reducible (repeat' (first
      | assumption | apply Good.ite | apply State.shPauseBy_good | apply State.shSend_good | split))

theorem State.shReqResume_good {P : List Instr} {s : State} (h : Good P s) (i : Nat) :
    Good P (State.shReqResume s i) := by
  unfold State.shReqResume
  with_reducible (repeat' (first
      | assumption | apply Good.ite | apply State.shResumeBy_good | apply State.shSend_good | split))

theorem State.shReqEnd_good {P : List Instr} {s : State} (h : Good P s) (i : Nat) :
    Good P (State.shReqEnd s i) := by
  unfold State.shReqEnd
  with_reducible (repeat' (first
      | assumption | apply Good.ite | apply State.bump_good | apply State.shCast_good | apply State.shDrop_good
      | apply State.shLast_good | apply State.shSend_good | split))

theorem State.shReqDone_good {P : List Instr} {s : State} (h : Good P s) (i : Nat) :
    Good P (State.shReqDone s i) := by
  unfold State.shReqDone
  with_reducible (repeat' (first | assumption | apply State.shDone_good | split))

theorem State.shKill_good {P : List Instr} {s : State} (h : Good P s) (p : Nat) :
    Good P (State.shKill s p) := by
  unfold State.shKill
  with_reducible (repeat' (first
      | assumption | intro _ | apply Good.foldl | apply State.release_good | apply State.shDrop_good
      | apply State.shWord_good | refine Good.lit rfl rfl rfl rfl rfl rfl rfl rfl rfl rfl ?_))

theorem State.shReset_good {P : List Instr} {s : State} (h : Good P s) (f : Nat) :
    Good P (State.shReset s f) := by
  unfold State.shReset
  with_reducible (repeat' (first
      | assumption | intro _ | apply Good.ite | apply Good.foldl | apply State.bump_good | apply State.release_good
      | apply State.shCast_good | apply State.shDrop_good | apply State.shLast_good | apply State.shSend_good
      | refine Good.lit rfl rfl rfl rfl rfl rfl rfl rfl rfl rfl ?_))

end Sys2Proof.Machine
end

