-- ==== Sys2Proof/Laws/KeepHost.lean ====
section
/-! SUPPORT. What the operations behind the request, boot, power, security, host and register commands keep: the queue, and the canonical form of the registers
and of every memory. -/

namespace Sys2Proof.Machine

theorem State.setRing_good {P : List Instr} {s : State} (h : Good P s) (f : Nat) (r : Ring) :
    Good P (State.setRing s f r) := by
  unfold State.setRing
  with_reducible (repeat' (first
      | assumption | apply State.put_good | refine Good.lit rfl rfl rfl rfl rfl rfl rfl rfl rfl rfl ?_))

theorem State.ringBell_good {P : List Instr} {s : State} (h : Good P s) (f val : Nat) :
    Good P (State.ringBell s f val) := by
  unfold State.ringBell
  with_reducible (repeat' (first
      | assumption | apply Good.ite | apply State.emit_good | apply State.log_good | apply State.put_good
      | apply State.setRing_good))

theorem State.doorbell_good {P : List Instr} {s : State} (h : Good P s) (f off size : Nat) (val : W32) :
    Good P (State.doorbell s f off size val) := by
  unfold State.doorbell
  with_reducible (repeat' (first
      | assumption | apply Good.ite | apply State.log_good | apply State.ringBell_good | split
      | refine Good.lit rfl rfl rfl rfl rfl rfl rfl rfl rfl rfl ?_))

theorem State.ringRestart_good {P : List Instr} {s : State} (h : Good P s) (f : Nat) :
    Good P (State.ringRestart s f) := by
  unfold State.ringRestart
  with_reducible (repeat' (first | assumption | apply State.put_good | apply State.setRing_good))

theorem State.ringTake_good {P : List Instr} {s : State} (h : Good P s) (f : Nat) (b : List Byte) (t : State)
    (e : s.ringTake f = some (b, t)) : Good P t := by
  unfold State.ringTake at e
  dsimp only at e
  split at e
  · cases e
  · cases e
    exact State.setRing_good (Good.lit rfl rfl rfl rfl rfl rfl rfl rfl rfl rfl (State.hostIn_good h ..)) ..

theorem State.ringKind_good {P : List Instr} {s : State} (h : Good P s) (f : Nat) (ok : Nat → Bool) (g : State → List Byte → State)
    (hg : ∀ t b, Good P t → Good P (g t b)) : Good P (s.ringKind f ok g) := by
  unfold State.ringKind
  split
  · next e => split
              · exact hg _ _ (State.ringTake_good h _ _ _ e)
              · exact h
  · exact h

theorem State.setBalance_good {P : List Instr} {s : State} (h : Good P s) (i : Nat) (b : Int) :
    Good P (State.setBalance s i b) := by
  unfold State.setBalance
  with_reducible (repeat' (first | assumption | apply State.put_good))

theorem State.admitHits_good {P : List Instr} {s : State} (h : Good P s) (x : ReqX) : Good P (s.admitHits x).2 := by
  unfold State.admitHits
  split
  · exact State.pfxLookup_good h ..
  · exact h

theorem State.admitReq_good {P : List Instr} {s : State} (h : Good P s) (x : ReqX) :
    Good P (State.admitReq s x) := by
  unfold State.admitReq
  with_reducible (repeat' (first
      | assumption | apply State.admitHits_good | apply State.hostIn_good | apply State.perfs_good
      | apply State.setReq_good | apply State.setSt_good | split
      | refine Good.lit rfl rfl rfl rfl rfl rfl rfl rfl rfl rfl ?_))

theorem State.submit_good {P : List Instr} {s : State} (h : Good P s) (f : Nat) (b : List Byte) :
    Good P (State.submit s f b) := by
  unfold State.submit
  with_reducible (repeat' (first
      | assumption | apply Good.ite | apply State.admitReq_good | apply State.hostOut_good | apply State.log_good
      | apply State.raiseMsi_good))

theorem State.command_good {P : List Instr} {s : State} (h : Good P s) (f : Nat) (b : List Byte) (g : State → Nat → Nat → State)
    (hg : ∀ t i c, Good P t → Good P (g t i c)) : Good P (s.command f b g) := by
  unfold State.command
  with_reducible (repeat' (first
      | assumption | apply Good.ite | apply hg | apply State.log_good | apply State.complete_good | split))

theorem State.setPass_good {P : List Instr} {s : State} (h : Good P s) (p : Pass) :
    Good P (State.setPass s p) := by
  unfold State.setPass
  with_reducible (repeat' (first | assumption | refine Good.lit rfl rfl rfl rfl rfl rfl rfl rfl rfl rfl ?_))

theorem State.abortPart_good {P : List Instr} {s : State} (h : Good P s) (p : Nat) :
    Good P (State.abortPart s p) := by
  unfold State.abortPart
  with_reducible (repeat' (first
      | assumption | intro _ | apply Good.ite | apply Good.foldl | apply State.ctxAbort_good))

theorem State.pausePart_good {P : List Instr} {s : State} (h : Good P s) (p : Nat) :
    Good P (State.pausePart s p) := by
  unfold State.pausePart
  with_reducible (repeat' (first
      | assumption | intro _ | apply Good.ite | apply Good.foldl | apply State.ctxPause_good))

theorem State.cancelReq_good {P : List Instr} {s : State} (h : Good P s) (i : Nat) :
    Good P (State.cancelReq s i).1 := by
  unfold State.cancelReq
  with_reducible (repeat' (first
      | assumption | apply Good.ite | apply State.abortPart_good | apply State.reqCancel_good
      | apply State.shReqEnd_good | split | dsimp only))

theorem State.wantPause_good {P : List Instr} {s : State} (h : Good P s) (i : Nat) (w : Want) :
    Good P (State.wantPause s i w) := by
  unfold State.wantPause
  with_reducible (repeat' (first
      | assumption | apply Good.ite | apply State.abortPart_good | apply State.pausePart_good
      | apply State.setPass_good | apply State.setReq_good | apply State.shReqPause_good | split
      | refine Good.lit rfl rfl rfl rfl rfl rfl rfl rfl rfl rfl ?_))

theorem State.pauseReq_good {P : List Instr} {s : State} (h : Good P s) (i cpl : Nat) :
    Good P (State.pauseReq s i cpl) := by
  unfold State.pauseReq
  with_reducible (repeat' (first
      | assumption | apply Good.ite | apply State.complete_good | apply State.wantPause_good))

theorem State.loadVat_good {P : List Instr} {s : State} (h : Good P s) (v : Nat) (x : VSave) :
    Good P (State.loadVat s v x) := by
  unfold State.loadVat
  with_reducible (repeat' (first
      | assumption | intro _ | apply Good.ite | apply Good.foldl | apply State.resetRegs_good
      | apply State.setCst_good | apply State.setDirty_good | apply Good.pend | apply Good.regs (P := P)
      | apply Good.live (P := P) | apply Good.mem (P := P) | apply Good.poison (P := P) | apply Good.host (P := P)
      | apply Good.flash (P := P) | apply Good.sram (P := P) | apply Good.prog (P := P) | apply Good.curd (P := P)
      | apply Tab.wf_set | apply Tab.wf_clear | apply Tab.wf_foldl
      | ((refine ⟨?_, ?_, ?_, ?_, ?_, ?_, ?_, ?_, ?_, ?_⟩) <;> dsimp only)))

theorem State.saveOut_good {P : List Instr} {s : State} (h : Good P s) (p : Nat) (is : List Nat) (bs : List Byte) :
    Good P (State.saveOut s p is bs) := by
  unfold State.saveOut
  with_reducible (repeat' (first
      | assumption | intro _ | apply Good.foldl | apply State.setReq_good | apply State.store_good | split))

theorem State.enterPaused_good {P : List Instr} {s : State} (h : Good P s) (i : Nat) :
    Good P (State.enterPaused s i) := by
  unfold State.enterPaused
  with_reducible (repeat' (first
      | assumption | apply Good.ite | apply State.complete_good | apply State.setReq_good | apply State.setSt_good
      | split | refine Good.lit rfl rfl rfl rfl rfl rfl rfl rfl rfl rfl ?_))

theorem State.reqPaused_good {P : List Instr} {s : State} (h : Good P s) (i : Nat) :
    Good P (State.reqPaused s i) := by
  unfold State.reqPaused
  with_reducible (repeat' (first
      | assumption | intro _ | apply Good.ite | apply Good.foldl | apply State.enterPaused_good
      | apply State.pausePart_good | apply State.saveOut_good | apply State.setPass_good | split))

theorem State.leavePaused_good {P : List Instr} {s : State} (h : Good P s) (i : Nat) :
    Good P (State.leavePaused s i) := by
  unfold State.leavePaused
  with_reducible (repeat' (first | assumption | apply State.setReq_good | apply State.setSt_good))

theorem State.resumeLate_good {P : List Instr} {s : State} (h : Good P s) (i : Nat) :
    Good P (State.resumeLate s i) := by
  unfold State.resumeLate
  with_reducible (repeat' (first | assumption | apply State.bump_good | apply State.reqFail_good))

theorem State.reeveResume_good {P : List Instr} {s : State} (h : Good P s) (i : Nat) :
    Good P (State.reeveResume s i) := by
  unfold State.reeveResume
  with_reducible (repeat' (first
      | assumption | apply Good.ite | apply State.leavePaused_good | apply State.resumeLate_good))

theorem State.resumeReq_good {P : List Instr} {s : State} (h : Good P s) (i cpl : Nat) :
    Good P (State.resumeReq s i cpl) := by
  unfold State.resumeReq
  with_reducible (repeat' (first
      | assumption | intro _ | apply Good.ite | apply Good.foldl | apply State.complete_good
      | apply State.leavePaused_good | apply State.resumeLate_good | apply State.setPass_good
      | apply State.shReqResume_good | split))

theorem State.freshBytes_good {P : List Instr} {s : State} (h : Good P s) (n : Nat) :
    Good P (State.freshBytes s n).2 := by
  unfold State.freshBytes
  with_reducible (repeat' (first
      | assumption | dsimp only | refine Good.lit rfl rfl rfl rfl rfl rfl rfl rfl rfl rfl ?_))

theorem State.spillBody_good {P : List Instr} {s : State} (h : Good P s) (i : Nat) :
    Good P (State.spillBody s i).2 := by
  unfold State.spillBody
  with_reducible (repeat' (first | assumption | apply State.freshBytes_good))

theorem State.spillRetry_good {P : List Instr} {s : State} (h : Good P s) (i : Nat) :
    Good P (State.spillRetry s i) := by
  unfold State.spillRetry
  with_reducible (repeat' (first | assumption | apply State.bump_good | apply State.setReq_good))

theorem State.spillReq_good {P : List Instr} {s : State} (h : Good P s) (i : Nat) :
    Good P (State.spillReq s i) := by
  unfold State.spillReq
  with_reducible (repeat' (first
      | assumption | apply Good.ite | apply State.hostOut_good | apply State.setReq_good
      | refine Good.snd ‹_› (State.spillBody_good ?_ ..) | apply State.spillRetry_good | split
      | refine Good.lit rfl rfl rfl rfl rfl rfl rfl rfl rfl rfl ?_))

theorem State.spillDone_good {P : List Instr} {s : State} (h : Good P s) (i : Nat) (ok : Bool) :
    Good P (State.spillDone s i ok) := by
  unfold State.spillDone
  with_reducible (repeat' (first
      | assumption | apply Good.ite | apply State.setReq_good | apply State.spillRetry_good | split
      | refine Good.lit rfl rfl rfl rfl rfl rfl rfl rfl rfl rfl ?_))

theorem State.rerun_good {P : List Instr} {s : State} (h : Good P s) (i : Nat) :
    Good P (State.rerun s i) := by
  unfold State.rerun
  with_reducible (repeat' (first
      | assumption | apply Good.ite | apply State.kvxRebuild_good | apply State.reqFail_good
      | apply State.setReq_good))

theorem State.restartPass_good {P : List Instr} {s : State} (h : Good P s) (seq : Nat) (whole : Bool) :
    Good P (State.restartPass s seq whole) := by
  unfold State.restartPass
  with_reducible (repeat' (first
      | assumption | intro _ | apply Good.foldl | apply State.loadVat_good | apply State.setPass_good | split))

theorem State.rerunMiss_good {P : List Instr} {s : State} (h : Good P s) (i : Nat) :
    Good P (State.rerunMiss s i) := by
  unfold State.rerunMiss
  with_reducible (repeat' (first | assumption | apply Good.ite | apply State.reqFail_good | apply State.setReq_good))

theorem State.rerunPart_good {P : List Instr} {s : State} (h : Good P s) (p code : Nat) :
    Good P (State.rerunPart s p code) := by
  unfold State.rerunPart
  with_reducible (repeat' (first
      | assumption | intro _ | apply Good.ite | apply Good.foldl | apply State.reqFail_good | apply State.rerun_good
      | apply State.rerunMiss_good | apply State.restartPass_good))

theorem State.fromPrompt_good {P : List Instr} {s : State} (h : Good P s) (i : Nat) :
    Good P (State.fromPrompt s i) := by
  unfold State.fromPrompt
  with_reducible (repeat' (first
      | assumption | apply Good.ite | apply State.kvxRebuild_good | apply State.leavePass_good
      | apply State.rerun_good | apply State.setReq_good))

theorem State.restored_good {P : List Instr} {s : State} (h : Good P s) (i : Nat) (ok : Bool) :
    Good P (State.restored s i ok) := by
  unfold State.restored
  with_reducible (repeat' (first
      | assumption | apply Good.ite | apply State.bump_good | apply State.fromPrompt_good | apply State.hostIn_good
      | apply State.setReq_good | split | refine Good.lit rfl rfl rfl rfl rfl rfl rfl rfl rfl rfl ?_))

theorem State.setDuty_good {P : List Instr} {s : State} (h : Good P s) (p d : Nat) :
    Good P (State.setDuty s p d) := by
  unfold State.setDuty
  with_reducible (repeat' (first | assumption | apply State.put_good))

theorem State.settleDuty_good {P : List Instr} {s : State} (h : Good P s) (p : Nat) :
    Good P (State.settleDuty s p) := by
  unfold State.settleDuty
  with_reducible (repeat' (first
      | assumption | apply Good.ite | apply State.setDuty_good | split
      | refine Good.lit rfl rfl rfl rfl rfl rfl rfl rfl rfl rfl ?_))

theorem State.queuePages_good {P : List Instr} {s : State} (h : Good P s) (i a b : Nat) (ls : List Nat) :
    Good P (State.queuePages s i a b ls) := by
  unfold State.queuePages
  with_reducible (repeat' (first | assumption | apply Good.ite | apply State.kvxQueue_good | split))

theorem State.queueFull_good {P : List Instr} {s : State} (h : Good P s) (i upTo : Nat) :
    Good P (State.queueFull s i upTo) := by
  unfold State.queueFull
  with_reducible (repeat' (first
      | assumption | apply Good.ite | apply State.queuePages_good | apply State.setReq_good))

theorem State.commitRecord_good {P : List Instr} {s : State} (h : Good P s) (i upTo : Nat) :
    Good P (State.commitRecord s i upTo) := by
  unfold State.commitRecord
  with_reducible (repeat' (first
      | assumption | apply Good.ite | apply State.dropWant_good | apply State.kvxQueue_good
      | apply State.queueFull_good | apply State.queuePages_good | apply State.reqEnd_good | apply State.setReq_good
      | apply State.setSt_good | split | refine Good.lit rfl rfl rfl rfl rfl rfl rfl rfl rfl rfl ?_))

theorem State.packWait_good {P : List Instr} {s : State} (h : Good P s) (p : Nat) :
    Good P (State.packWait s p) := by
  unfold State.packWait
  with_reducible (repeat' (first
      | assumption | apply Good.ite | split | refine Good.lit rfl rfl rfl rfl rfl rfl rfl rfl rfl rfl ?_))

theorem State.enterPrefill_good {P : List Instr} {s : State} (h : Good P s) (i p : Nat) :
    Good P (State.enterPrefill s i p) := by
  unfold State.enterPrefill
  with_reducible (repeat' (first
      | assumption | apply Good.ite | apply State.queueFull_good | apply State.setReq_good | apply State.setSt_good
      | apply State.writeResult_good))

theorem State.resumePass_good {P : List Instr} {s : State} (h : Good P s) (p : Nat) (q : Pass) :
    Good P (State.resumePass s p q) := by
  unfold State.resumePass
  with_reducible (repeat' (first
      | assumption | intro _ | apply Good.ite | apply Good.foldl | apply State.leavePaused_good
      | apply State.loadVat_good | apply State.setPass_good | apply State.setReq_good))

theorem State.takeUp_good {P : List Instr} {s : State} (h : Good P s) (p : Nat) (q : Pass) :
    Good P (State.takeUp s p q) := by
  unfold State.takeUp
  with_reducible (repeat' (first
      | assumption | intro _ | apply Good.ite | apply Good.foldl | apply State.reeveResume_good
      | apply State.resumePass_good | apply State.setPass_good))

theorem State.takeUpAlone_good {P : List Instr} {s : State} (h : Good P s) (p : Nat) :
    Good P (State.takeUpAlone s p) := by
  unfold State.takeUpAlone
  with_reducible (repeat' (first | assumption | intro _ | apply Good.foldl | apply State.reeveResume_good))

theorem State.beginPass_good {P : List Instr} {s : State} (h : Good P s) (p : Nat) (l : List (Nat × Nat)) :
    Good P (State.beginPass s p l) := by
  unfold State.beginPass
  with_reducible (repeat' (first
      | assumption | intro _ | apply Good.foldl | apply State.enterPrefill_good
      | refine Good.lit rfl rfl rfl rfl rfl rfl rfl rfl rfl rfl ?_))

theorem State.passStart_good {P : List Instr} {s : State} (h : Good P s) (p : Nat) :
    Good P (State.passStart s p) := by
  unfold State.passStart
  with_reducible (repeat' (first
      | assumption | apply Good.ite | apply State.apply_good | apply State.beginPass_good | apply State.takeUp_good
      | apply State.takeUpAlone_good | split | refine Good.lit rfl rfl rfl rfl rfl rfl rfl rfl rfl rfl ?_))

theorem State.queueLayers_good {P : List Instr} {s : State} (h : Good P s) (i n : Nat) (ls : List Nat) :
    Good P (State.queueLayers s i n ls) := by
  unfold State.queueLayers
  with_reducible (repeat' (first
      | assumption | intro _ | apply Good.foldl | apply State.queuePages_good | split
      | refine Good.lit rfl rfl rfl rfl rfl rfl rfl rfl rfl rfl ?_))

theorem State.firstLogits_good {P : List Instr} {s : State} (h : Good P s) (logits : List (ReqId × List W32)) (i : Nat) :
    Good P (State.firstLogits s logits i).2 := by
  unfold State.firstLogits
  with_reducible (repeat' (first
      | assumption | dsimp only | refine Good.lit rfl rfl rfl rfl rfl rfl rfl rfl rfl rfl ?_))

theorem State.commitMember_good {P : List Instr} {s : State} (h : Good P s) (logits : List (ReqId × List W32)) (ls : List Nat) (i n : Nat) :
    Good P (State.commitMember s logits ls i n) := by
  unfold State.commitMember
  with_reducible (repeat' (first
      | assumption | apply Good.ite | apply State.commitRecord_good | apply State.firstLogits_good
      | apply State.perfs_good | apply State.pfxInserts_good | apply State.queueLayers_good
      | apply State.setBalance_good | apply State.setReq_good | apply State.setSt_good | apply State.shReqDone_good
      | apply State.writeResult_good | apply State.writeStatus_good))

theorem State.firstStep_good {P : List Instr} {s : State} (h : Good P s) (i : Nat) :
    Good P (State.firstStep s i) := by
  unfold State.firstStep
  with_reducible (repeat' (first | assumption | apply Good.ite | apply State.setReq_good))

theorem State.passCommit_good {P : List Instr} {s : State} (h : Good P s) (p : Nat) (logits : List (ReqId × List W32)) :
    Good P (State.passCommit s p logits) := by
  unfold State.passCommit
  with_reducible (repeat' (first
      | assumption | intro _ | apply Good.foldl | apply State.commitMember_good | apply State.firstStep_good
      | apply State.settleDuty_good | split | refine Good.lit rfl rfl rfl rfl rfl rfl rfl rfl rfl rfl ?_))

theorem State.preempt_good {P : List Instr} {s : State} (h : Good P s) (i : Nat) :
    Good P (State.preempt s i) := by
  unfold State.preempt
  with_reducible (repeat' (first
      | assumption | intro _ | apply Good.ite | apply Good.foldl | apply State.pausePart_good
      | apply State.setPass_good | apply State.setReq_good | apply State.shReqPause_good | split))

theorem State.refill_good {P : List Instr} {s : State} (h : Good P s) (i : Nat) :
    Good P (State.refill s i) := by
  unfold State.refill
  with_reducible (repeat' (first
      | assumption | apply State.setBalance_good | refine Good.lit rfl rfl rfl rfl rfl rfl rfl rfl rfl rfl ?_))

theorem State.moveDuty_good {P : List Instr} {s : State} (h : Good P s) (p d : Nat) :
    Good P (State.moveDuty s p d) := by
  unfold State.moveDuty
  with_reducible (repeat' (first
      | assumption | apply State.settleDuty_good | refine Good.lit rfl rfl rfl rfl rfl rfl rfl rfl rfl rfl ?_))

theorem State.evalGroup_good {P : List Instr} {s : State} (h : Good P s) (g wait : Nat) :
    Good P (State.evalGroup s g wait) := by
  unfold State.evalGroup
  with_reducible (repeat' (first
      | assumption | apply Good.ite | apply State.moveDuty_good | split
      | refine Good.lit rfl rfl rfl rfl rfl rfl rfl rfl rfl rfl ?_))

theorem State.setArg_good {P : List Instr} {s : State} (h : Good P s) (k n : Nat) :
    Good P (State.setArg s k n) := by
  unfold State.setArg
  with_reducible (repeat' (first | assumption | apply State.wr_good))

theorem State.mboxEnd_good {P : List Instr} {s : State} (h : Good P s) (err : Nat) :
    Good P (State.mboxEnd s err) := by
  unfold State.mboxEnd
  with_reducible (repeat' (first | assumption | apply State.put_good))

theorem State.mbox_good {P : List Instr} {s : State} (h : Good P s) (op : Nat) (g : State → State)
    (hg : ∀ t, Good P t → Good P (g t)) : Good P (s.mbox op g) := by
  unfold State.mbox
  split
  · exact hg _ h
  · exact h

theorem State.mboxQuery_good {P : List Instr} {s : State} (h : Good P s)  :
    Good P (State.mboxQuery s) := by
  unfold State.mboxQuery
  with_reducible (repeat' (first
      | assumption | apply Good.ite | apply State.mboxEnd_good | apply State.setArg_good | split))

theorem State.mboxVersion_good {P : List Instr} {s : State} (h : Good P s)  :
    Good P (State.mboxVersion s) := by
  unfold State.mboxVersion
  with_reducible (repeat' (first
      | assumption | apply State.fresh_good | apply State.mboxEnd_good | apply State.wr_good))

theorem State.mboxStats_good {P : List Instr} {s : State} (h : Good P s)  :
    Good P (State.mboxStats s) := by
  unfold State.mboxStats
  with_reducible (repeat' (first
      | assumption | intro _ | apply Good.ite | apply Good.foldl | apply State.mboxEnd_good
      | apply State.setArg_good))

theorem State.mboxBudget_good {P : List Instr} {s : State} (h : Good P s)  :
    Good P (State.mboxBudget s) := by
  unfold State.mboxBudget
  with_reducible (repeat' (first
      | assumption | apply Good.ite | apply State.mboxEnd_good | apply State.setArg_good
      | apply State.setBalance_good))

theorem State.mboxCancel_good {P : List Instr} {s : State} (h : Good P s)  :
    Good P (State.mboxCancel s) := by
  unfold State.mboxCancel
  with_reducible (repeat' (first
      | assumption | intro _ | apply Good.ite | apply Good.foldl | apply State.cancelReq_good
      | apply State.mboxEnd_good | apply State.setArg_good))

theorem State.batch_good {P : List Instr} {s : State} (h : Good P s) (p : Nat) (drafts : List (ReqId × List (List W32)))
    (l : List Nat) (n k : Nat) : Good P (s.batch p drafts l n k) := by
  induction l generalizing s n k with
  | nil => exact h
  | cons i is ih =>
    unfold State.batch
    dsimp only
    split
    · exact ih (State.setReq_good h ..) _ _
    · exact h

theorem State.tailStart_good {P : List Instr} {s : State} (h : Good P s) (p : Nat) (drafts : List (ReqId × List (List W32))) :
    Good P (State.tailStart s p drafts) := by
  unfold State.tailStart
  with_reducible (repeat' (first | assumption | apply Good.ite | apply State.batch_good | split))

theorem State.writeIds_good {P : List Instr} {s : State} (h : Good P s) (i : Nat) (ids : List Nat) :
    Good P (State.writeIds s i ids) := by
  unfold State.writeIds
  with_reducible (repeat' (first | assumption | apply State.writeResult_good))

theorem State.tokenSelect_good {P : List Instr} {s : State} (h : Good P s) (i : Nat) (zs : List (List W32)) :
    Good P (State.tokenSelect s i zs) := by
  unfold State.tokenSelect
  with_reducible (repeat' (first
      | assumption | apply Good.ite | apply State.reqFail_good | apply State.setReq_good | apply State.writeIds_good
      | split | refine Good.lit rfl rfl rfl rfl rfl rfl rfl rfl rfl rfl ?_))

theorem State.showLayer_good {P : List Instr} {s : State} (h : Good P s) (i : Nat) :
    Good P (State.showLayer s i) := by
  unfold State.showLayer
  with_reducible (repeat' (first
      | assumption | apply Good.ite | apply State.setReq_good | apply State.writeStatus_good))

theorem State.shOwnChunks_good {P : List Instr} {s : State} (h : Good P s) (i l : Nat) :
    Good P (State.shOwnChunks s i l) := by
  unfold State.shOwnChunks
  with_reducible (repeat' (first
      | assumption | intro _ | apply Good.ite | apply Good.foldl | apply State.freshBytes_good
      | apply State.shChunk_good | split))

theorem State.passLayer_good {P : List Instr} {s : State} (h : Good P s) (q : Pass) :
    Good P (State.passLayer s q) := by
  unfold State.passLayer
  with_reducible (repeat' (first
      | assumption | intro _ | apply Good.foldl | apply State.queueLayers_good | apply State.setPass_good
      | apply State.setReq_good | apply State.shOwnChunks_good))

theorem State.stepLayer_good {P : List Instr} {s : State} (h : Good P s) (i : Nat) :
    Good P (State.stepLayer s i) := by
  unfold State.stepLayer
  with_reducible (repeat' (first
      | assumption | apply Good.ite | apply State.setReq_good | split
      | refine Good.lit rfl rfl rfl rfl rfl rfl rfl rfl rfl rfl ?_))

theorem State.coin_good {P : List Instr} {s : State} (h : Good P s)  :
    Good P (State.coin s).2 := by
  unfold State.coin
  with_reducible (repeat' (first
      | assumption | dsimp only | refine Good.lit rfl rfl rfl rfl rfl rfl rfl rfl rfl rfl ?_))

theorem State.layerTick_good {P : List Instr} {s : State} (h : Good P s)  :
    Good P (State.layerTick s) := by
  unfold State.layerTick
  with_reducible (repeat' (first
      | assumption | intro _ | apply Good.ite | apply Good.foldl | apply State.coin_good
      | apply State.passLayer_good | apply State.showLayer_good | apply State.stepLayer_good))

theorem State.commitStep_good {P : List Instr} {s : State} (h : Good P s) (i : Nat) :
    Good P (State.commitStep s i) := by
  unfold State.commitStep
  with_reducible (repeat' (first
      | assumption | apply Good.ite | apply State.commitRecord_good | apply State.queueFull_good
      | apply State.setReq_good | apply State.writeIds_good | apply State.writeResult_good
      | apply State.writeStatus_good | split | refine Good.lit rfl rfl rfl rfl rfl rfl rfl rfl rfl rfl ?_))

theorem State.tailCommit_good {P : List Instr} {s : State} (h : Good P s) (p : Nat) :
    Good P (State.tailCommit s p) := by
  unfold State.tailCommit
  with_reducible (repeat' (first
      | assumption | intro _ | apply Good.foldl | apply State.commitStep_good | apply State.settleDuty_good))

theorem State.setPhase_good {P : List Instr} {s : State} (h : Good P s) (n : Nat) :
    Good P (State.setPhase s n) := by
  unfold State.setPhase
  with_reducible (repeat' (first
      | assumption | apply State.put_good | refine Good.lit rfl rfl rfl rfl rfl rfl rfl rfl rfl rfl ?_))

theorem State.degrade_good {P : List Instr} {s : State} (h : Good P s) (g : W64 → W64) :
    Good P (State.degrade s g) := by
  unfold State.degrade
  with_reducible (repeat' (first
      | assumption | apply Good.ite | apply State.put_good | apply State.raiseMsi_good | apply State.wr_good))

theorem State.enterP1_good {P : List Instr} {s : State} (h : Good P s)  :
    Good P (State.enterP1 s) := by
  unfold State.enterP1
  with_reducible (repeat' (first
      | assumption | apply Good.ite | apply State.electMaster_good | apply State.put_good
      | apply State.setPhase_good | refine Good.lit rfl rfl rfl rfl rfl rfl rfl rfl rfl rfl ?_))

theorem State.restartP1_good {P : List Instr} {s : State} (h : Good P s)  :
    Good P (State.restartP1 s) := by
  unfold State.restartP1
  with_reducible (repeat' (first
      | assumption | apply State.enterP1_good | apply State.put_good | apply State.setPhase_good))

theorem State.bare_good {P : List Instr} {s : State} (h : Good P s) : Good P s.bare :=
  ⟨h.pend, rfl, rfl, rfl, rfl, h.host, h.flash, rfl, rfl, rfl⟩

theorem State.recordReset_good {P : List Instr} {s : State} (h : Good P s) (cause level detail : Nat) (at_ : W64) :
    Good P (State.recordReset s cause level detail at_) := by
  unfold State.recordReset
  with_reducible (repeat' (first | assumption | apply State.put_good | apply State.wr_good))

theorem State.powerOnReset_good {P : List Instr} {s : State} (h : Good P s)  :
    Good P (State.powerOnReset s) := by
  unfold State.powerOnReset
  with_reducible (repeat' (first | assumption | apply State.bare_good))

theorem State.systemReset_good {P : List Instr} {s : State} (h : Good P s) (cause detail : Nat) :
    Good P (State.systemReset s cause detail) := by
  unfold State.systemReset
  with_reducible (repeat' (first
      | assumption | apply State.bare_good | apply State.enterP1_good | apply State.put_good
      | apply State.recordReset_good | apply State.wr_good
      | refine Good.lit rfl rfl rfl rfl rfl rfl rfl rfl rfl rfl ?_))

theorem State.enterP2_good {P : List Instr} {s : State} (h : Good P s)  :
    Good P (State.enterP2 s) := by
  unfold State.enterP2
  with_reducible (repeat' (first
      | assumption | apply State.setPhase_good | apply State.wr_good
      | refine Good.lit rfl rfl rfl rfl rfl rfl rfl rfl rfl rfl ?_))

theorem State.coreReset_good {P : List Instr} {s : State} (h : Good P s) (cause detail : Nat) :
    Good P (State.coreReset s cause detail) := by
  unfold State.coreReset
  with_reducible (repeat' (first
      | assumption | intro _ | apply Good.foldl | apply State.closeWindow_good | apply State.enterP2_good
      | apply State.put_good | apply State.recordReset_good | apply State.resetRegs_good | apply Good.pend
      | apply Good.regs (P := P) | apply Good.live (P := P) | apply Good.mem (P := P) | apply Good.poison (P := P)
      | apply Good.host (P := P) | apply Good.flash (P := P) | apply Tab.wf_clear | exact Tab.wf_nil _ | split
      | ((refine ⟨?_, ?_, ?_, ?_, ?_, ?_, ?_, ?_, ?_, ?_⟩) <;> dsimp only)))

theorem State.resetReq_good {P : List Instr} {s : State} (h : Good P s) (cause level detail : Nat) (forced : Bool) :
    Good P (State.resetReq s cause level detail forced) := by
  unfold State.resetReq
  with_reducible (repeat' (first
      | assumption | apply Good.ite | apply State.coreReset_good | apply State.restartP1_good
      | apply State.systemReset_good))

theorem State.powerGood_good {P : List Instr} {s : State} (h : Good P s) (slot bpos : Nat) :
    Good P (State.powerGood s slot bpos) := by
  unfold State.powerGood
  with_reducible (repeat' (first
      | assumption | apply Good.ite | apply State.enterP1_good | apply State.switchOn_good
      | refine Good.lit rfl rfl rfl rfl rfl rfl rfl rfl rfl rfl ?_))

theorem State.mirror_good {P : List Instr} {s : State} (h : Good P s) (f : Fuses) :
    Good P (State.mirror s f) := by
  unfold State.mirror
  with_reducible (repeat' (first
      | assumption | intro _ | apply Good.foldl | apply State.put_good | apply State.wr_good
      | refine Good.lit rfl rfl rfl rfl rfl rfl rfl rfl rfl rfl ?_))

theorem State.fuseRead_good {P : List Instr} {s : State} (h : Good P s) (a b : Fuses) :
    Good P (State.fuseRead s a b) := by
  unfold State.fuseRead
  with_reducible (repeat' (first
      | assumption | apply Good.ite | apply State.enterP2_good | apply State.mirror_good | apply State.put_good
      | apply State.resetReq_good | refine Good.lit rfl rfl rfl rfl rfl rfl rfl rfl rfl rfl ?_))

theorem State.endSequence_good {P : List Instr} {s : State} (h : Good P s)  :
    Good P (State.endSequence s) := by
  unfold State.endSequence
  with_reducible (repeat' (first
      | assumption | apply State.put_good | split | refine Good.lit rfl rfl rfl rfl rfl rfl rfl rfl rfl rfl ?_))

theorem State.recover_good {P : List Instr} {s : State} (h : Good P s)  :
    Good P (State.recover s) := by
  unfold State.recover
  with_reducible (repeat' (first
      | assumption | apply State.endSequence_good | apply State.put_good | apply State.setPhase_good
      | apply State.wr_good))

theorem State.layoutFail_good {P : List Instr} {s : State} (h : Good P s)  :
    Good P (State.layoutFail s) := by
  unfold State.layoutFail
  with_reducible (repeat' (first
      | assumption | apply Good.ite | apply State.put_good | apply State.recover_good | apply State.systemReset_good))

theorem State.slotBad_good {P : List Instr} {s : State} (h : Good P s) (code : Nat) :
    Good P (State.slotBad s code) := by
  unfold State.slotBad
  with_reducible (repeat' (first
      | assumption | apply Good.ite | apply State.layoutFail_good | apply State.put_good | apply State.setPhase_good
      | refine Good.lit rfl rfl rfl rfl rfl rfl rfl rfl rfl rfl ?_))

theorem State.accept_good {P : List Instr} {s : State} (h : Good P s) (img : List Byte) :
    Good P (State.accept s img) := by
  unfold State.accept
  with_reducible (repeat' (first
      | assumption | apply State.fresh_good | apply State.put_good | apply State.setPhase_good
      | apply State.switchOn_good | apply Good.pend | apply Good.regs (P := P) | apply Good.live (P := P)
      | apply Good.mem (P := P) | apply Good.poison (P := P) | apply Good.host (P := P) | apply Good.flash (P := P)
      | apply Good.prog (P := P) | apply Good.curd (P := P) | apply Tab.wf_setAll | exact Tab.wf_nil _ | split
      | refine Good.lit rfl rfl rfl rfl rfl rfl rfl rfl rfl rfl ?_
      | ((refine ⟨?_, ?_, ?_, ?_, ?_, ?_, ?_, ?_, ?_, ?_⟩) <;> dsimp only)))

theorem State.imageCheck_good {P : List Instr} {s : State} (h : Good P s) (probe octal : Bool) :
    Good P (State.imageCheck s probe octal) := by
  unfold State.imageCheck
  with_reducible (repeat' (first
      | assumption | apply Good.ite | apply State.accept_good | apply State.put_good | apply State.slotBad_good))

theorem State.setMark_good {P : List Instr} {s : State} (h : Good P s) (k : Nat) (x : W64) :
    Good P (State.setMark s k x) := by
  unfold State.setMark
  with_reducible (repeat' (first | assumption | refine Good.lit rfl rfl rfl rfl rfl rfl rfl rfl rfl rfl ?_))

theorem State.writeRecord_good {P : List Instr} {s : State} (h : Good P s) : Good P s.writeRecord := by
  have g : ∀ (f : Tab Byte) (x : Sec), Tab.wf flashByte f = true → Good P { s with flash := f, sec := x } := fun f x hf =>
    ⟨h.pend, h.regs, h.live, h.mem, h.poison, h.host, hf, h.sram, h.prog, h.curd⟩
  unfold State.writeRecord
  with_reducible exact g _ _ (Tab.wf_setAll _ _ _ _ h.flash)

theorem State.leap_good {P : List Instr} {s : State} (h : Good P s)  :
    Good P (State.leap s) := by
  unfold State.leap
  with_reducible (repeat' (first
      | assumption | intro _ | apply Good.foldl | apply State.setMark_good | apply State.wr_good
      | apply State.writeRecord_good | refine Good.lit rfl rfl rfl rfl rfl rfl rfl rfl rfl rfl ?_))

theorem State.loadMaps_good {P : List Instr} {s : State} (h : Good P s) (v p : Nat) :
    Good P (State.loadMaps s v p) := by
  unfold State.loadMaps
  with_reducible (repeat' (first
      | assumption | apply State.wr_good | refine Good.lit rfl rfl rfl rfl rfl rfl rfl rfl rfl rfl ?_))

theorem State.setMap_good {P : List Instr} {s : State} (h : Good P s) (v p : Nat) (valid : Bool) :
    Good P (State.setMap s v p valid) := by
  unfold State.setMap
  with_reducible (repeat' (first
      | assumption | apply Good.ite | apply State.put_good | apply State.switchOff_good | apply State.switchOn_good))

theorem State.applyMap_good {P : List Instr} {s : State} (h : Good P s) (skimOk : Bool) :
    Good P (State.applyMap s skimOk) := by
  unfold State.applyMap
  with_reducible (repeat' (first
      | assumption | intro _ | apply Good.ite | apply Good.foldl | apply State.loadMaps_good | apply State.put_good
      | apply State.setMap_good | apply State.setVst_good))

theorem State.applyPorts_good {P : List Instr} {s : State} (h : Good P s)  :
    Good P (State.applyPorts s) := by
  unfold State.applyPorts
  with_reducible (repeat' (first
      | assumption | intro _ | apply Good.ite | apply Good.foldl | apply State.apply_good | apply State.load_good
      | apply State.put_good))

theorem State.applyModel_good {P : List Instr} {s : State} (h : Good P s)  :
    Good P (State.applyModel s) := by
  unfold State.applyModel
  with_reducible (repeat' (first
      | assumption | intro _ | apply Good.foldl | apply State.load_good | apply State.put_good))

theorem State.applySheafs_good {P : List Instr} {s : State} (h : Good P s)  :
    Good P (State.applySheafs s) := by
  unfold State.applySheafs
  with_reducible (repeat' (first
      | assumption | intro _ | apply Good.ite | apply Good.foldl | apply State.load_good | apply State.put_good))

theorem State.applyGroupSec_good {P : List Instr} {s : State} (h : Good P s) (g : Nat) (x : GroupSec) :
    Good P (State.applyGroupSec s g x) := by
  unfold State.applyGroupSec
  with_reducible (repeat' (first | assumption | apply State.wr_good))

theorem State.setPartRun_good {P : List Instr} {s : State} (h : Good P s) (p st serial : Nat) :
    Good P (State.setPartRun s p st serial) := by
  unfold State.setPartRun
  with_reducible (repeat' (first | assumption | apply State.wr_good))

theorem State.applyLayout_good {P : List Instr} {s : State} (h : Good P s) (skimOk : Bool) :
    Good P (State.applyLayout s skimOk) := by
  unfold State.applyLayout
  with_reducible (repeat' (first
      | assumption | intro _ | apply Good.foldl | apply State.applyGroupSec_good | apply State.applyMap_good
      | apply State.applyModel_good | apply State.applyPart_good | apply State.applyPorts_good
      | apply State.applySheafs_good | apply State.put_good | apply State.setPartRun_good | apply State.wr_good
      | refine Good.lit rfl rfl rfl rfl rfl rfl rfl rfl rfl rfl ?_))

theorem State.recoverJournal_good {P : List Instr} {s : State} (h : Good P s)  :
    Good P (State.recoverJournal s) := by
  unfold State.recoverJournal
  with_reducible (repeat' (first
      | assumption | intro _ | apply Good.foldl | apply State.kvxPurge_good | apply State.setDest_good
      | apply State.setSt_good | apply State.wr_good | refine Good.lit rfl rfl rfl rfl rfl rfl rfl rfl rfl rfl ?_))

theorem State.layoutApply_good {P : List Instr} {s : State} (h : Good P s) (bad : List Nat) (skimOk : Bool) :
    Good P (State.layoutApply s bad skimOk) := by
  unfold State.layoutApply
  with_reducible (repeat' (first
      | assumption | intro _ | apply Good.ite | apply Good.foldl | apply State.applyLayout_good
      | apply State.leap_good | apply State.recoverJournal_good | apply State.retire_good
      | apply State.setPhase_good | apply State.setPortSt_good | apply State.slotBad_good))

theorem State.trainStacks_good {P : List Instr} {s : State} (h : Good P s) (bad : List Nat) :
    Good P (State.trainStacks s bad) := by
  unfold State.trainStacks
  with_reducible (repeat' (first | assumption | intro _ | apply Good.foldl | apply State.put_good))

theorem State.release4_good {P : List Instr} {s : State} (h : Good P s) (bad : List Nat) :
    Good P (State.release4 s bad) := by
  unfold State.release4
  with_reducible (repeat' (first
      | assumption | intro _ | apply Good.ite | apply Good.foldl | apply State.degrade_good
      | apply State.endSequence_good | apply State.put_good | apply State.recover_good | apply State.setPhase_good
      | apply State.trainStacks_good))

theorem State.reeveReset_good {P : List Instr} {s : State} (h : Good P s) (detail : Nat) :
    Good P (State.reeveReset s detail) := by
  unfold State.reeveReset
  with_reducible (repeat' (first | assumption | apply Good.ite | apply State.resetReq_good))

theorem State.wdtExpiry_good {P : List Instr} {s : State} (h : Good P s)  :
    Good P (State.wdtExpiry s) := by
  unfold State.wdtExpiry
  with_reducible (repeat' (first | assumption | apply Good.ite | apply State.reeveReset_good))

theorem State.vatHandled_good {P : List Instr} {s : State} (h : Good P s) (ph : Nat) :
    Good P (State.vatHandled s ph) := by
  unfold State.vatHandled
  with_reducible (repeat' (first | assumption | intro _ | apply Good.foldl | apply State.logDone_good))

theorem State.freshVat_good {P : List Instr} {s : State} (h : Good P s) (v : Nat) :
    Good P (State.freshVat s v) := by
  unfold State.freshVat
  with_reducible (repeat' (first
      | assumption | apply State.clearCurd_good | apply State.clearGens_good | apply State.dirtyGroups_good
      | apply State.killWagon_good | apply State.put_good | apply State.setVat_good | apply State.setVst_good
      | apply State.wr_good | apply State.zeroCtxs_good | refine Good.lit rfl rfl rfl rfl rfl rfl rfl rfl rfl rfl ?_))

theorem State.noteMap_good {P : List Instr} {s : State} (h : Good P s) (v e : Nat) :
    Good P (State.noteMap s v e) := by
  unfold State.noteMap
  with_reducible (repeat' (first | assumption | refine Good.lit rfl rfl rfl rfl rfl rfl rfl rfl rfl rfl ?_))

theorem State.shrink_good {P : List Instr} {s : State} (h : Good P s) (p : Nat) :
    Good P (State.shrink s p) := by
  unfold State.shrink
  with_reducible (repeat' (first
      | assumption | intro _ | apply Good.ite | apply Good.foldl | apply State.put_good | apply State.setReq_good
      | refine Good.lit rfl rfl rfl rfl rfl rfl rfl rfl rfl rfl ?_))

theorem State.loseVat_good {P : List Instr} {s : State} (h : Good P s) (v : Nat) :
    Good P (State.loseVat s v) := by
  unfold State.loseVat
  with_reducible (repeat' (first
      | assumption | intro _ | apply Good.ite | apply Good.foldl | apply State.degrade_good
      | apply State.killWagon_good | apply State.log_good | apply State.noteMap_good | apply State.reqFail_good
      | apply State.rerunPart_good | apply State.retire_good | apply State.setMap_good | apply State.shrink_good
      | apply State.vatHandled_good | refine Good.lit rfl rfl rfl rfl rfl rfl rfl rfl rfl rfl ?_))

theorem State.substitute_good {P : List Instr} {s : State} (h : Good P s) (v : Nat) :
    Good P (State.substitute s v) := by
  unfold State.substitute
  with_reducible (repeat' (first
      | assumption | apply Good.ite | apply State.abortPart_good | apply State.freshVat_good
      | apply State.loadMaps_good | apply State.loseVat_good | apply State.noteMap_good | apply State.put_good
      | apply State.rerunPart_good | apply State.retire_good | apply State.setMap_good | apply State.vatHandled_good
      | split | refine Good.lit rfl rfl rfl rfl rfl rfl rfl rfl rfl rfl ?_))

theorem State.logPwr_good {P : List Instr} {s : State} (h : Good P s) (unit : Nat) :
    Good P (State.logPwr s unit) := by
  unfold State.logPwr
  with_reducible (repeat' (first | assumption | apply State.log_good))

theorem State.excursion_good {P : List Instr} {s : State} (h : Good P s) (mv : Nat) (long : Bool) :
    Good P (State.excursion s mv long) := by
  unfold State.excursion
  with_reducible (repeat' (first
      | assumption | apply Good.ite | apply State.logPwr_good | apply State.powerOnReset_good | apply State.put_good))

theorem State.setFT_good {P : List Instr} {s : State} (h : Good P s) (f : Nat) :
    Good P (State.setFT s f) := by
  unfold State.setFT
  with_reducible (repeat' (first | assumption | apply State.put_good))

theorem State.setFF_good {P : List Instr} {s : State} (h : Good P s) (f : Nat) :
    Good P (State.setFF s f) := by
  unfold State.setFF
  with_reducible (repeat' (first
      | assumption | apply Good.ite | apply State.bump_good | apply State.logPwr_good | apply State.put_good))

theorem State.toInt_good {P : List Instr} {s : State} (h : Good P s) (x : Rat) :
    Good P (State.toInt s x).2 := by
  unfold State.toInt
  with_reducible (repeat' (first | assumption | apply State.fresh_good | split))

theorem State.putRat_good {P : List Instr} {s : State} (h : Good P s) (r : Reg) (f : Fld) (x : Rat) (signed : Bool) :
    Good P (State.putRat s r f x signed) := by
  unfold State.putRat
  with_reducible (repeat' (first | assumption | apply Good.ite | apply State.put_good | apply State.toInt_good))

theorem State.measured_good {P : List Instr} {s : State} (h : Good P s) (mv ci : Nat) (valid : Bool) :
    Good P (State.measured s mv ci valid) := by
  unfold State.measured
  with_reducible (repeat' (first | assumption | apply Good.ite | apply State.put_good | apply State.putRat_good))

theorem State.evaluate_good {P : List Instr} {s : State} (h : Good P s) (raw : List Nat) (pt pf mv ci : Nat) (valid : Bool) :
    Good P (State.evaluate s raw pt pf mv ci valid) := by
  unfold State.evaluate
  with_reducible (repeat' (first
      | assumption | intro _ | apply Good.ite | apply Good.foldl | apply State.bump_good | apply State.put_good
      | apply State.putRat_good | apply State.measured_good | apply State.setFF_good | apply State.setFT_good
      | refine Good.lit rfl rfl rfl rfl rfl rfl rfl rfl rfl rfl ?_))

theorem State.freeCal_good {P : List Instr} {s : State} (h : Good P s)  :
    Good P (State.freeCal s).2.2 := by
  unfold State.freeCal
  with_reducible (repeat' (first | assumption | apply State.fresh_good))

theorem State.calGroup_good {P : List Instr} {s : State} (h : Good P s) (a : List Nat) (e : Rat) (q sa : Nat) (g : Nat) :
    Good P (State.calGroup s a e q sa g) := by
  unfold State.calGroup
  with_reducible (repeat' (first
      | assumption | apply State.freeCal_good | apply State.putRat_good | split
      | refine Good.lit rfl rfl rfl rfl rfl rfl rfl rfl rfl rfl ?_))

theorem State.calibrate_good {P : List Instr} {s : State} (h : Good P s) (a : List Nat) (p : Nat) (valid : Bool) :
    Good P (State.calibrate s a p valid) := by
  unfold State.calibrate
  with_reducible (repeat' (first
      | assumption | intro _ | apply Good.ite | apply Good.foldl | apply State.calGroup_good
      | apply State.logPwr_good | apply State.put_good))

theorem State.trip_good {P : List Instr} {s : State} (h : Good P s)  :
    Good P (State.trip s) := by
  unfold State.trip
  with_reducible (repeat' (first
      | assumption | apply State.resetReq_good | refine Good.lit rfl rfl rfl rfl rfl rfl rfl rfl rfl rfl ?_))

theorem State.alertTherm_good {P : List Instr} {s : State} (h : Good P s) (f : Fld) :
    Good P (State.alertTherm s f) := by
  unfold State.alertTherm
  with_reducible (repeat' (first | assumption | apply Good.ite | apply State.put_good))

theorem State.coolDown_good {P : List Instr} {s : State} (h : Good P s) (cold : Bool) :
    Good P (State.coolDown s cold) := by
  unfold State.coolDown
  with_reducible (repeat' (first
      | assumption | apply Good.ite | apply State.enterP1_good
      | refine Good.lit rfl rfl rfl rfl rfl rfl rfl rfl rfl rfl ?_))

theorem State.thermal_good {P : List Instr} {s : State} (h : Good P s) (t : List W16) :
    Good P (State.thermal s t) := by
  unfold State.thermal
  with_reducible (repeat' (first
      | assumption | intro _ | apply Good.ite | apply Good.foldl | apply State.alertTherm_good
      | apply State.coolDown_good | apply State.put_good | apply State.setFF_good | apply State.setFT_good
      | apply State.trip_good))

theorem State.thermStep_good {P : List Instr} {s : State} (h : Good P s)  :
    Good P (State.thermStep s) := by
  unfold State.thermStep
  with_reducible (repeat' (first
      | assumption | apply Good.ite | apply State.put_good | apply State.setFT_good
      | refine Good.lit rfl rfl rfl rfl rfl rfl rfl rfl rfl rfl ?_))

theorem State.authFailed_good {P : List Instr} {s : State} (h : Good P s) (k : Nat) :
    Good P (State.authFailed s k) := by
  unfold State.authFailed
  with_reducible (repeat' (first
      | assumption | apply Good.ite | apply State.put_good
      | refine Good.lit rfl rfl rfl rfl rfl rfl rfl rfl rfl rfl ?_))

theorem State.secEnd_good {P : List Instr} {s : State} (h : Good P s) (k op code : Nat) :
    Good P (State.secEnd s k op code) := by
  unfold State.secEnd
  with_reducible (repeat' (first
      | assumption | apply State.authFailed_good | apply State.put_good | apply State.wr_good | split
      | refine Good.lit rfl rfl rfl rfl rfl rfl rfl rfl rfl rfl ?_))

theorem State.secRun_good {P : List Instr} {s : State} (h : Good P s) (k : Nat) (fits : List Byte → Bool)
    (f : State → List Byte → State × Option Nat) (hf : ∀ t b, Good P t → Good P (f t b).1) : Good P (s.secRun k fits f) := by
  unfold State.secRun
  dsimp only
  have h1 := State.wr_good h (.SEC_SLOT_LAST (cbTakes (s.secBlock k))) (BitVec.ofNat 64 (cbCounter (s.secBlock k)))
  have h2 := hf _ (s.secBlock k) h1
  split
  · exact h
  · split
    · exact State.secEnd_good h ..
    · split
      · exact State.secEnd_good h ..
      · split
        · exact h
        · split
          · exact State.secEnd_good h1 ..
          · split
            · next e => rw [e] at h2; exact State.secEnd_good h2 ..
            · next e => rw [e] at h2; exact h2

theorem State.secDrain_good {P : List Instr} {s : State} (h : Good P s) (n : Nat) : Good P (State.secDrain n s) := by
  induction n generalizing s with
  | zero => exact h
  | succ n ih =>
    unfold State.secDrain
    split
    · split
      · exact h
      · exact ih (State.secRun_good h _ _ _ fun t b h => h)
    · exact h

theorem State.secRow_good {P : List Instr} {s : State} (h : Good P s) (k op : Nat) (arg : Nat → Bool)
    (f : State → List Byte → State × Option Nat) (hf : ∀ t b, Good P t → Good P (f t b).1) : Good P (s.secRow k op arg f) :=
  State.secDrain_good (State.secRun_good h _ _ _ hf) _

theorem State.secGo_good {P : List Instr} {s : State} (h : Good P s) (k : Nat) :
    Good P (State.secGo s k) := by
  unfold State.secGo
  with_reducible (repeat' (first
      | assumption | apply State.put_good | apply State.secDrain_good
      | refine Good.lit rfl rfl rfl rfl rfl rfl rfl rfl rfl rfl ?_))

theorem State.cmdReset_good {P : List Instr} {s : State} (h : Good P s) (k level : Nat) :
    Good P (State.cmdReset s k level) := by
  unfold State.cmdReset
  with_reducible (repeat' (first
      | assumption | intro _ | apply State.resetReq_good | apply State.secEnd_good | apply State.secRow_good))

theorem State.cmdPartReset_good {P : List Instr} {s : State} (h : Good P s) (k : Nat) :
    Good P (State.cmdPartReset s k) := by
  unfold State.cmdPartReset
  with_reducible (repeat' (first
      | assumption | intro _ | apply State.partReset_good | apply State.secRow_good | split | dsimp only))

theorem State.layoutErr_good {P : List Instr} {s : State} (h : Good P s) (code : Nat) :
    Good P (State.layoutErr s code) := by
  unfold State.layoutErr
  with_reducible (repeat' (first | assumption | apply State.put_good))

theorem State.shutWindows_good {P : List Instr} {s : State} (h : Good P s) (v : Nat) :
    Good P (State.shutWindows s v) := by
  unfold State.shutWindows
  with_reducible (repeat' (first | assumption | intro _ | apply Good.ite | apply Good.foldl | apply State.put_good))

theorem State.quiesce_good {P : List Instr} {s : State} (h : Good P s) (p : Nat) :
    Good P (State.quiesce s p) := by
  unfold State.quiesce
  with_reducible (repeat' (first
      | assumption | intro _ | apply Good.foldl | apply State.pausePart_good | apply State.put_good
      | apply State.setPass_good | apply State.setReq_good | apply State.shReqPause_good
      | apply State.shutWindows_good | split | refine Good.lit rfl rfl rfl rfl rfl rfl rfl rfl rfl rfl ?_))

theorem State.relayoutCmd_good {P : List Instr} {s : State} (h : Good P s) (k : Nat) (b : List Byte) :
    Good P (State.relayoutCmd s k b).1 := by
  unfold State.relayoutCmd
  with_reducible (repeat' (first
      | assumption | apply State.hostIn_good | apply State.layoutErr_good | apply State.put_good
      | apply State.quiesce_good | split | dsimp only | refine Good.lit rfl rfl rfl rfl rfl rfl rfl rfl rfl rfl ?_))

theorem State.clearPerf_good {P : List Instr} {s : State} (h : Good P s) (v : Nat) :
    Good P (State.clearPerf s v) := by
  unfold State.clearPerf
  with_reducible (repeat' (first | assumption | apply State.resetRegs_good | apply State.setVat_good))

theorem State.zeroMem_good {P : List Instr} {s : State} (h : Good P s) (keep : Nat → Bool) (a n : Nat) :
    Good P (State.zeroMem s keep a n) := by
  unfold State.zeroMem
  with_reducible (repeat' (first
      | assumption | apply Good.pend | apply Good.regs (P := P) | apply Good.live (P := P) | apply Good.mem (P := P)
      | apply Good.poison (P := P) | apply Good.host (P := P) | apply Good.flash (P := P) | apply Good.sram (P := P)
      | apply Good.prog (P := P) | apply Good.curd (P := P) | apply Tab.wf_filter
      | ((refine ⟨?_, ?_, ?_, ?_, ?_, ?_, ?_, ?_, ?_, ?_⟩) <;> dsimp only)))

theorem State.leaveVat_good {P : List Instr} {s : State} (h : Good P s) (v : Nat) :
    Good P (State.leaveVat s v) := by
  unfold State.leaveVat
  with_reducible (repeat' (first
      | assumption | intro _ | apply Good.foldl | apply State.applyGroup_good | apply State.clearPerf_good
      | apply State.killVats_good | apply State.setMap_good | apply State.setVat_good | apply State.setVst_good
      | apply State.zeroCtxs_good))

theorem State.joinVat_good {P : List Instr} {s : State} (h : Good P s) (v ph : Nat) :
    Good P (State.joinVat s v ph) := by
  unfold State.joinVat
  with_reducible (repeat' (first
      | assumption | apply State.clearPerf_good | apply State.loadMaps_good | apply State.setMap_good
      | apply State.setVst_good))

theorem State.relayApply_good {P : List Instr} {s : State} (h : Good P s) (img : List Byte) :
    Good P (State.relayApply s img) := by
  unfold State.relayApply
  with_reducible (repeat' (first
      | assumption | intro _ | apply Good.foldl | apply State.applyPart_good | apply State.joinVat_good
      | apply State.leaveVat_good | apply State.zeroMem_good
      | refine Good.lit rfl rfl rfl rfl rfl rfl rfl rfl rfl rfl ?_))

theorem State.refitPasses_good {P : List Instr} {s : State} (h : Good P s) (p : Nat) :
    Good P (State.refitPasses s p) := by
  unfold State.refitPasses
  with_reducible (repeat' (first
      | assumption | apply Good.ite | apply State.shrink_good
      | refine Good.lit rfl rfl rfl rfl rfl rfl rfl rfl rfl rfl ?_))

theorem State.relayEnd_good {P : List Instr} {s : State} (h : Good P s) (r : Relay) (code : Nat) :
    Good P (State.relayEnd s r code) := by
  unfold State.relayEnd
  with_reducible (repeat' (first
      | assumption | apply Good.ite | apply State.layoutErr_good | apply State.put_good | apply State.secDrain_good
      | apply State.secEnd_good | refine Good.lit rfl rfl rfl rfl rfl rfl rfl rfl rfl rfl ?_))

theorem State.relayoutApply_good {P : List Instr} {s : State} (h : Good P s) (selfTest : Bool) :
    Good P (State.relayoutApply s selfTest) := by
  unfold State.relayoutApply
  with_reducible (repeat' (first
      | assumption | intro _ | apply Good.ite | apply Good.foldl | apply State.closeWindows_good
      | apply State.put_good | apply State.refitPasses_good | apply State.relayApply_good
      | apply State.relayEnd_good | split))

theorem State.setKey_good {P : List Instr} {s : State} (h : Good P s) (slot : Nat) (key : Option (List Byte)) (perm masters : Nat) :
    Good P (State.setKey s slot key perm masters) := by
  unfold State.setKey
  with_reducible (repeat' (first
      | assumption | apply Good.ite | apply State.put_good | apply State.wr_good
      | refine Good.lit rfl rfl rfl rfl rfl rfl rfl rfl rfl rfl ?_))

theorem State.keySlot_good {P : List Instr} {s : State} (h : Good P s) (b : List Byte) :
    Good P (State.keySlot s b).1 := by
  unfold State.keySlot
  with_reducible (repeat' (first | assumption | apply State.setKey_good | split | dsimp only))

theorem State.tenantKeyed_good {P : List Instr} {s : State} (h : Good P s) (t : Nat) (key : List Byte) :
    Good P (State.tenantKeyed s t key) := by
  unfold State.tenantKeyed
  with_reducible (repeat' (first
      | assumption | apply State.pfxRekey_good | apply State.put_good
      | refine Good.lit rfl rfl rfl rfl rfl rfl rfl rfl rfl rfl ?_))

theorem State.keyTenant_good {P : List Instr} {s : State} (h : Good P s) (b : List Byte) :
    Good P (State.keyTenant s b).1 := by
  unfold State.keyTenant
  with_reducible (repeat' (first | assumption | apply State.tenantKeyed_good | split))

theorem State.powerCap_good {P : List Instr} {s : State} (h : Good P s) (b : List Byte) :
    Good P (State.powerCap s b).1 := by
  unfold State.powerCap
  with_reducible (repeat' (first | assumption | apply State.put_good | split | dsimp only))

theorem State.fwUpdate_good {P : List Instr} {s : State} (h : Good P s) (b : List Byte) :
    Good P (State.fwUpdate s b).1 := by
  unfold State.fwUpdate
  with_reducible (repeat' (first
      | assumption | apply State.hostIn_good | apply Good.pend | apply Good.regs (P := P) | apply Good.live (P := P)
      | apply Good.mem (P := P) | apply Good.poison (P := P) | apply Good.host (P := P) | apply Good.flash (P := P)
      | apply Good.sram (P := P) | apply Good.prog (P := P) | apply Good.curd (P := P) | apply Tab.wf_setAll | split
      | dsimp only | ((refine ⟨?_, ?_, ?_, ?_, ?_, ?_, ?_, ?_, ?_, ?_⟩) <;> dsimp only)))

theorem State.windowOpen_good {P : List Instr} {s : State} (h : Good P s) (b : List Byte) :
    Good P (State.windowOpen s b).1 := by
  unfold State.windowOpen
  with_reducible (repeat' (first | assumption | apply State.claim_good | apply State.wr_good | split | dsimp only))

theorem State.windowShut_good {P : List Instr} {s : State} (h : Good P s) (b : List Byte) :
    Good P (State.windowShut s b).1 := by
  unfold State.windowShut
  with_reducible (repeat' (first | assumption | apply Good.ite | apply State.put_good | split | dsimp only))

theorem State.killPart_good {P : List Instr} {s : State} (h : Good P s) (p : Nat) :
    Good P (State.killPart s p) := by
  unfold State.killPart
  with_reducible (repeat' (first
      | assumption | intro _ | apply Good.ite | apply Good.foldl | apply State.cancelPart_good
      | apply State.clearPerf_good | apply State.killVats_good | apply State.pfxKill_good | apply State.setReq_good
      | apply State.shKill_good | apply State.zeroMem_good
      | refine Good.lit rfl rfl rfl rfl rfl rfl rfl rfl rfl rfl ?_))

theorem State.partKillCmd_good {P : List Instr} {s : State} (h : Good P s) (b : List Byte) :
    Good P (State.partKillCmd s b).1 := by
  unfold State.partKillCmd
  with_reducible (repeat' (first | assumption | apply State.killPart_good | split | dsimp only))

theorem State.readmit_good {P : List Instr} {s : State} (h : Good P s) (p : Nat) :
    Good P (State.readmit s p) := by
  unfold State.readmit
  with_reducible (repeat' (first
      | assumption | apply Good.ite | refine Good.lit rfl rfl rfl rfl rfl rfl rfl rfl rfl rfl ?_))

theorem State.recordWrite_good {P : List Instr} {s : State} (h : Good P s)  :
    Good P (State.recordWrite s) := by
  unfold State.recordWrite
  with_reducible (repeat' (first
      | assumption | intro _ | apply Good.ite | apply Good.foldl | apply State.secDrain_good
      | apply State.setMark_good | apply State.writeRecord_good))

theorem State.throttleEnd_good {P : List Instr} {s : State} (h : Good P s) (k : Nat) :
    Good P (State.throttleEnd s k) := by
  unfold State.throttleEnd
  with_reducible (repeat' (first
      | assumption | apply Good.ite | apply State.put_good
      | refine Good.lit rfl rfl rfl rfl rfl rfl rfl rfl rfl rfl ?_))

theorem State.hostAcc_good {P : List Instr} {s : State} (h : Good P s) (f code off : Nat) (bar2 : Bool) :
    Good P (State.hostAcc s f code off bar2) := by
  unfold State.hostAcc
  with_reducible (repeat' (first | assumption | apply State.bump_good | apply State.wr_good))

theorem State.linkUp_good {P : List Instr} {s : State} (h : Good P s) (speed width flit : Nat) :
    Good P (State.linkUp s speed width flit) := by
  unfold State.linkUp
  with_reducible (repeat' (first | assumption | apply State.wr_good))

theorem State.config_good {P : List Instr} {s : State} (h : Good P s) (f : Nat) (q : CfgReq) :
    Good P (State.config s f q) := by
  unfold State.config
  with_reducible (repeat' (first
      | assumption | apply Good.ite | apply State.emit_good | apply State.put_good | split
      | refine Good.lit rfl rfl rfl rfl rfl rfl rfl rfl rfl rfl ?_))

theorem State.msiDue_good {P : List Instr} {s : State} (h : Good P s) (f vec : Nat) :
    Good P (State.msiDue s f vec) := by
  unfold State.msiDue
  with_reducible (repeat' (first
      | assumption | apply Good.ite | apply State.emit_good | split
      | refine Good.lit rfl rfl rfl rfl rfl rfl rfl rfl rfl rfl ?_))

theorem State.flrOne_good {P : List Instr} {s : State} (h : Good P s) (f : Nat) :
    Good P (State.flrOne s f) := by
  unfold State.flrOne
  with_reducible (repeat' (first
      | assumption | intro _ | apply Good.foldl | apply State.cancelReq_good | apply State.put_good
      | apply State.ringRestart_good | apply State.setReq_good | apply State.shReset_good))

theorem State.flr_good {P : List Instr} {s : State} (h : Good P s) (f : Nat) :
    Good P (State.flr s f) := by
  unfold State.flr
  with_reducible (repeat' (first
      | assumption | intro _ | apply Good.ite | apply Good.foldl | apply State.flrOne_good
      | refine Good.lit rfl rfl rfl rfl rfl rfl rfl rfl rfl rfl ?_))

theorem State.hotReset_good {P : List Instr} {s : State} (h : Good P s)  :
    Good P (State.hotReset s) := by
  unfold State.hotReset
  with_reducible (repeat' (first | assumption | apply Good.ite | apply State.flr_good | apply State.wr_good))

theorem State.bar2Refuse_good {P : List Instr} {s : State} (h : Good P s) (f x code : Nat) :
    Good P (State.bar2Refuse s f x code) := by
  unfold State.bar2Refuse
  with_reducible (repeat' (first | assumption | apply Good.ite | apply State.hostAcc_good | apply State.perf_good))

theorem State.bar2Write_good {P : List Instr} {s : State} (h : Good P s) (f x : Nat) (data : List Byte) :
    Good P (State.bar2Write s f x data) := by
  unfold State.bar2Write
  with_reducible (repeat' (first
      | assumption | apply Good.ite | apply State.bar2Refuse_good | apply State.emit_good
      | apply State.lateDrop_good | apply State.log_good | apply State.perf_good | apply State.perfs_good
      | apply State.setRow_good | apply State.store_good | split))

theorem State.bar2Read_good {P : List Instr} {s : State} (h : Good P s) (f x n : Nat) :
    Good P (State.bar2Read s f x n) := by
  unfold State.bar2Read
  with_reducible (repeat' (first
      | assumption | apply Good.ite | apply State.bar2Refuse_good | apply State.emit_good | apply State.perf_good
      | apply State.perfs_good | split))

theorem State.unitOut_good {P : List Instr} {s : State} (h : Good P s) (u : OutUnit) :
    Good P (State.unitOut s u) := by
  unfold State.unitOut
  with_reducible (repeat' (first
      | assumption | intro _ | apply Good.ite | apply Good.foldl | apply State.degrade_good | apply State.log_good
      | apply State.reqFail_good))

theorem State.hbmBreak_good {P : List Instr} {s : State} (h : Good P s) (h pc : Nat) :
    Good P (State.hbmBreak s h pc) := by
  unfold State.hbmBreak
  with_reducible (repeat' (first
      | assumption | intro _ | apply Good.foldl | apply State.bump_good | apply State.degrade_good
      | apply State.log_good | apply State.reqFail_good | apply State.retire_good))

theorem State.hbmRetire_good {P : List Instr} {s : State} (h : Good P s) (h pc : Nat) :
    Good P (State.hbmRetire s h pc) := by
  unfold State.hbmRetire
  with_reducible (repeat' (first
      | assumption | intro _ | apply Good.ite | apply Good.foldl | apply State.bump_good | apply State.hbmBreak_good
      | apply State.log_good | apply State.put_good | apply State.retire_good | apply State.tagReissue_good))

theorem State.hbmPoison_good {P : List Instr} {s : State} (h : Good P s) (h a : Nat) :
    Good P (State.hbmPoison s h a) := by
  unfold State.hbmPoison
  with_reducible (repeat' (first | assumption | apply State.bump_good | apply State.setPoison_good))

theorem State.hbmError_good {P : List Instr} {s : State} (h : Good P s) (k pc : Nat) (g : State → State)
    (hg : ∀ t, Good P t → Good P (g t)) : Good P (s.hbmError k pc g) := by
  unfold State.hbmError
  split
  · exact hg _ h
  · exact State.hbmBreak_good h ..

theorem State.noteFailure_good {P : List Instr} {s : State} (h : Good P s) (h pc : Nat) :
    Good P (State.noteFailure s h pc) := by
  unfold State.noteFailure
  with_reducible (repeat' (first | assumption | refine Good.lit rfl rfl rfl rfl rfl rfl rfl rfl rfl rfl ?_))

theorem State.patrol_good {P : List Instr} {s : State} (h : Good P s) (h pc off : Nat) (r : Patrol) :
    Good P (State.patrol s h pc off r) := by
  unfold State.patrol
  with_reducible (repeat' (first
      | assumption | intro _ | apply Good.ite | apply State.bump_good | apply State.hbmError_good
      | apply State.hbmPoison_good | apply State.hbmRetire_good | apply State.log_good
      | apply State.noteFailure_good | apply State.perfs_good | split))

theorem State.takeSample_good {P : List Instr} {s : State} (h : Good P s) (u i : Nat) :
    Good P (State.takeSample s u i) := by
  unfold State.takeSample
  with_reducible (repeat' (first
      | assumption | apply Good.ite | apply State.emit_good | refine Good.snd ‹_› (State.fresh_good ?_ ..)
      | apply State.setVat_good | apply State.traceRec_good | apply State.wr_good | split
      | refine Good.lit rfl rfl rfl rfl rfl rfl rfl rfl rfl rfl ?_))

theorem State.snapshot_good {P : List Instr} {s : State} (h : Good P s) (busy : Bool) :
    Good P (State.snapshot s busy) := by
  unfold State.snapshot
  with_reducible (repeat' (first
      | assumption | apply Good.ite | apply State.apply_good | apply State.bump_good | apply State.hbmCount_good
      | apply State.put_good | apply State.store_good | split
      | refine Good.lit rfl rfl rfl rfl rfl rfl rfl rfl rfl rfl ?_))

theorem State.bwEnd_good {P : List Instr} {s : State} (h : Good P s) (r : Reg) (p rx us : Nat) :
    Good P (State.bwEnd s r p rx us) := by
  unfold State.bwEnd
  with_reducible (repeat' (first | assumption | apply State.fresh_good | apply State.wr_good | split))

theorem State.windowEnd_good {P : List Instr} {s : State} (h : Good P s)  :
    Good P (State.windowEnd s) := by
  unfold State.windowEnd
  with_reducible (repeat' (first
      | assumption | intro _ | apply Good.ite | apply Good.foldl | apply State.apply_good | apply State.bwEnd_good
      | refine Good.lit rfl rfl rfl rfl rfl rfl rfl rfl rfl rfl ?_))

theorem State.clearStat_good {P : List Instr} {s : State} (h : Good P s) (r : Reg) :
    Good P (State.clearStat s r) := by
  unfold State.clearStat
  with_reducible (repeat' (first | assumption | intro _ | apply Good.ite | apply Good.foldl | apply State.wr_good))

theorem State.setProg_good {P : List Instr} {s : State} (h : Good P s) (v a h : Nat) (x : W64) :
    Good P (State.setProg s v a h x) := by
  unfold State.setProg
  with_reducible (repeat' (first
      | assumption | apply Good.pend | apply Good.regs (P := P) | apply Good.live (P := P) | apply Good.mem (P := P)
      | apply Good.poison (P := P) | apply Good.host (P := P) | apply Good.flash (P := P) | apply Good.sram (P := P)
      | apply Good.prog (P := P) | apply Good.curd (P := P) | apply Tab.wf_set | split
      | ((refine ⟨?_, ?_, ?_, ?_, ?_, ?_, ?_, ?_, ?_, ?_⟩) <;> dsimp only)))

theorem State.setPwr_good {P : List Instr} {s : State} (h : Good P s) (v : Nat) (w : W64) :
    Good P (State.setPwr s v w) := by
  unfold State.setPwr
  with_reducible (repeat' (first
      | assumption | intro _ | apply Good.ite | apply Good.foldl | apply State.pwrBit_good))

theorem State.effect_good {P : List Instr} {s : State} (h : Good P s) (m : Master) (r : Reg) (val w : W64) :
    Good P (State.effect s m r val w).1 := by
  unfold State.effect
  with_reducible (repeat' (first
      | assumption | intro _ | apply Good.ite | apply Good.foldl | apply State.apply_good
      | apply State.clearStat_good | apply State.creditSet_good | apply State.ctxCtrl_good
      | apply State.destStart_good | apply State.mboxEnd_good | apply State.put_good | apply State.ringRestart_good
      | apply State.secGo_good | apply State.setProg_good | apply State.setPwr_good | apply State.streamReset_good
      | apply State.wr_good | split | dsimp only | refine Good.lit rfl rfl rfl rfl rfl rfl rfl rfl rfl rfl ?_))

theorem State.busDo_good {P : List Instr} {s : State} (h : Good P s) (m : Master) (off size : Nat) (val : W64) (hw : List HwUpdate) :
    Good P (State.busDo s m off size val hw).1 := by
  unfold State.busDo
  with_reducible (repeat' (first | assumption | apply State.effect_good | split | dsimp only))

theorem State.accResult_good {P : List Instr} {s : State} (h : Good P s) (m : Master) (off code : Nat) :
    Good P (State.accResult s m off code) := by
  unfold State.accResult
  with_reducible (repeat' (first
      | assumption | apply Good.ite | apply State.hostAcc_good | split
      | refine Good.lit rfl rfl rfl rfl rfl rfl rfl rfl rfl rfl ?_))

theorem State.busCode_good {P : List Instr} {s : State} (h : Good P s) (m : Master) (off size : Nat) (val : W64) (hw : List HwUpdate) :
    Good P (State.busCode s m off size val hw).1 := by
  unfold State.busCode
  with_reducible (repeat' (first | assumption | apply State.busDo_good | split))

theorem State.busWrite_good {P : List Instr} {s : State} (h : Good P s) (m : Master) (off size : Nat) (val : W64) (hw : List HwUpdate) :
    Good P (State.busWrite s m off size val hw) := by
  unfold State.busWrite
  with_reducible (repeat' (first
      | assumption | apply Good.ite | apply State.accResult_good | apply State.busCode_good | apply State.emit_good))

theorem State.hwFirst_good {P : List Instr} {s : State} (h : Good P s) (u : HwUpdate) : Good P (s.hwFirst u) := by
  unfold State.hwFirst
  cases u with
  | boundary o =>
    dsimp only
    cases Reg.ofOff o.toNat with
    | none => exact h
    | some r => exact State.apply_good h r
  | snapshot => exact State.snapshot_good h false
  | _ => exact h

theorem State.hwCount_good {P : List Instr} {s : State} (h : Good P s) (r : Reg) (bits : W64) (written : Bool) :
    Good P (State.hwCount s r bits written) := by
  unfold State.hwCount
  with_reducible (repeat' (first
      | assumption | intro _ | apply Good.ite | apply Good.foldl | apply State.bump_good | apply State.perfChain_good
      | apply State.put_good | split))

theorem State.hwLast_good {P : List Instr} {s : State} (h : Good P s) (ws : List RegWrite) (u : HwUpdate) :
    Good P (s.hwLast ws u) := by
  unfold State.hwLast
  cases u with
  | sets o bits =>
    dsimp only
    cases Reg.ofOff o.toNat with
    | none => exact h
    | some r => exact State.wr_good h ..
  | counts o bits =>
    dsimp only
    cases Reg.ofOff o.toNat with
    | none => exact h
    | some r => exact State.hwCount_good h ..
  | unitLost u => exact State.unitOut_good h u
  | _ => exact h

theorem State.busCycle_good {P : List Instr} {s : State} (h : Good P s) (ws : List RegWrite) (hw : List HwUpdate) :
    Good P (State.busCycle s ws hw) := by
  unfold State.busCycle
  with_reducible (repeat' (first
      | assumption | intro _ | apply Good.ite | apply Good.foldl | apply State.accResult_good
      | apply State.busWrite_good | apply State.hwFirst_good | apply State.hwLast_good))

theorem State.write_good {P : List Instr} {s : State} (h : Good P s) (m : Master) (r : Reg) (val : W64) :
    Good P (State.write s m r val) := by
  unfold State.write
  with_reducible (repeat' (first | assumption | apply State.busWrite_good))

theorem State.creditFabric_good {P : List Instr} {s : State} (h : Good P s) (module d n : Nat) :
    Good P (State.creditFabric s module d n) := by
  unfold State.creditFabric
  with_reducible (repeat' (first
      | assumption | apply Good.ite | apply State.creditSet_good | apply State.log_good | apply State.send_good))

theorem State.regAct_good {P : List Instr} {s : State} (h : Good P s) (m : Master) (write : Bool) (off : Nat) (val : W64) :
    Good P (State.regAct s m write off val).1 := by
  unfold State.regAct
  with_reducible (repeat' (first | assumption | apply State.busCode_good | split))

theorem State.regPacket_good {P : List Instr} {s : State} (h : Good P s) (k : Pkt) (write : Bool) (off : Nat) (val : W64) :
    Good P (State.regPacket s k write off val) := by
  unfold State.regPacket
  with_reducible (repeat' (first
      | assumption | apply Good.ite | apply State.answer_good | apply State.regAct_good | split
      | refine Good.lit rfl rfl rfl rfl rfl rfl rfl rfl rfl rfl ?_))

theorem State.smbus_good {P : List Instr} {s : State} (h : Good P s) (pec : Bool) (g : State → State)
    (hg : ∀ t, Good P t → Good P (g t)) : Good P (s.smbus pec g) := by
  unfold State.smbus
  split
  · exact h
  · split
    · exact hg _ h
    · exact State.bump_good h ..

theorem State.smbusRead_good {P : List Instr} {s : State} (h : Good P s) (bytes : List Byte) :
    Good P (State.smbusRead s bytes) := by
  unfold State.smbusRead
  with_reducible (repeat' (first | assumption | apply State.emit_good))

theorem State.smbusWrite_good {P : List Instr} {s : State} (h : Good P s) (bytes : List Byte) :
    Good P (State.smbusWrite s bytes) := by
  unfold State.smbusWrite
  with_reducible (repeat' (first
      | assumption | apply State.busWrite_good | split | refine Good.lit rfl rfl rfl rfl rfl rfl rfl rfl rfl rfl ?_))

theorem State.regacc_good {P : List Instr} {s : State} (h : Good P s) (write : Bool) (off : Nat) (val : W64) :
    Good P (State.regacc s write off val) := by
  unfold State.regacc
  with_reducible (repeat' (first
      | assumption | apply Good.ite | apply State.busWrite_good | split
      | refine Good.lit rfl rfl rfl rfl rfl rfl rfl rfl rfl rfl ?_))

theorem State.takeCounter_good {P : List Instr} {s : State} (h : Good P s) (slot n : Nat) :
    Good P (State.takeCounter s slot n) := by
  unfold State.takeCounter
  with_reducible (repeat' (first
      | assumption | apply Good.ite | apply State.setMark_good | apply State.wr_good | apply State.writeRecord_good))

theorem State.unlock_good {P : List Instr} {s : State} (h : Good P s) (b : List Byte) :
    Good P (State.unlock s b) := by
  unfold State.unlock
  with_reducible (repeat' (first
      | assumption | apply Good.ite | apply State.authFailed_good | apply State.takeCounter_good
      | refine Good.lit rfl rfl rfl rfl rfl rfl rfl rfl rfl rfl ?_))

end Sys2Proof.Machine
end

