-- ==== Sys2Proof/Laws/PerInstr.lean ====
section
/-! SUPPORT. Statements made constructor by constructor. -/

namespace Sys2Proof.Laws.Payload

/-- The commands whose payload has a shape that can be wrong. -/
def shaped : Instr → Bool
  | .powerEvaluation _ _ _ _ _ _ => true
  | .calibration _ _ _ => true
  | .thermalSample _ => true
  | .bar2Read _ _ _ => true
  | .bar2Write _ _ _ => true
  | .tapUnlock _ => true
  | .memWrite _ => true
  | .winWrite _ => true
  | .getReq _ => true
  | .getData _ => true
  | .fabricAck _ => true
  | .fabricNak _ => true
  | .regPacket _ _ _ _ => true
  | .frameReceive _ _ => true
  | .registerWrite _ => true
  | _ => false

/-- Only a command with a shaped payload can be ill-formed. -/
def Statement (i : Instr) : Prop := i.wf = false → shaped i = true

theorem tile (v : VatId) (c : CtxId) (run : Run) : Statement (.tile v c run) := fun h => Bool.noConfusion h
theorem segmentVerdict (v : VatId) (seg : Segment) : Statement (.segmentVerdict v seg) := fun h => Bool.noConfusion h
theorem mould (v : VatId) (c : CtxId) (run : Run) : Statement (.mould v c run) := fun h => Bool.noConfusion h
theorem press (v : VatId) (c : CtxId) (run : Run) : Statement (.press v c run) := fun h => Bool.noConfusion h
theorem drain (v : VatId) (c : CtxId) (run : Run) : Statement (.drain v c run) := fun h => Bool.noConfusion h
theorem drainFill (v : VatId) (c : CtxId) (run : Run) : Statement (.drainFill v c run) := fun h => Bool.noConfusion h
theorem attn (v : VatId) (c : CtxId) (run : Run) : Statement (.attn v c run) := fun h => Bool.noConfusion h
theorem rind (v : VatId) (c : CtxId) (run : Run) : Statement (.rind v c run) := fun h => Bool.noConfusion h
theorem skim (v : VatId) (c : CtxId) (run : Run) : Statement (.skim v c run) := fun h => Bool.noConfusion h
theorem wagon (v : VatId) (c : CtxId) : Statement (.wagon v c) := fun h => Bool.noConfusion h
theorem semw (v : VatId) (c : CtxId) : Statement (.semw v c) := fun h => Bool.noConfusion h
theorem semp (v : VatId) (c : CtxId) : Statement (.semp v c) := fun h => Bool.noConfusion h
theorem fence (v : VatId) (c : CtxId) : Statement (.fence v c) := fun h => Bool.noConfusion h
theorem loop (v : VatId) (c : CtxId) : Statement (.loop v c) := fun h => Bool.noConfusion h
theorem endl (v : VatId) (c : CtxId) : Statement (.endl v c) := fun h => Bool.noConfusion h
theorem brc (v : VatId) (c : CtxId) : Statement (.brc v c) := fun h => Bool.noConfusion h
theorem tick (v : VatId) (c : CtxId) : Statement (.tick v c) := fun h => Bool.noConfusion h
theorem halt (v : VatId) (c : CtxId) : Statement (.halt v c) := fun h => Bool.noConfusion h
theorem flags (v : VatId) (c : CtxId) : Statement (.flags v c) := fun h => Bool.noConfusion h
theorem seed (v : VatId) (c : CtxId) : Statement (.seed v c) := fun h => Bool.noConfusion h
theorem contextSwitch (v : VatId) : Statement (.contextSwitch v) := fun h => Bool.noConfusion h
theorem ctxStart (m : Master) (v : VatId) (c : CtxId) (val : W64) : Statement (.ctxStart m v c val) := fun h => Bool.noConfusion h
theorem ctxPause (m : Master) (v : VatId) (c : CtxId) (val : W64) : Statement (.ctxPause m v c val) := fun h => Bool.noConfusion h
theorem ctxPauseEffect (v : VatId) (c : CtxId) : Statement (.ctxPauseEffect v c) := fun h => Bool.noConfusion h
theorem ctxResume (m : Master) (v : VatId) (c : CtxId) (val : W64) : Statement (.ctxResume m v c val) := fun h => Bool.noConfusion h
theorem ctxAbort (m : Master) (v : VatId) (c : CtxId) (val : W64) : Statement (.ctxAbort m v c val) := fun h => Bool.noConfusion h
theorem ctxAbortEffect (v : VatId) (c : CtxId) : Statement (.ctxAbortEffect v c) := fun h => Bool.noConfusion h
theorem semaphoreCycle (v : VatId) : Statement (.semaphoreCycle v) := fun h => Bool.noConfusion h
theorem remotePost (n : Nat) : Statement (.remotePost n) := fun h => Bool.noConfusion h
theorem semWrite (m : Master) (v : VatId) (empty : Bool) (i : Fin 64) (val : W64) : Statement (.semWrite m v empty i val) := fun h => Bool.noConfusion h
theorem arrivalWrite (m : Master) (v : VatId) (i : Fin 256) (val : W64) : Statement (.arrivalWrite m v i val) := fun h => Bool.noConfusion h
theorem vatZeroingDone (v : VatId) : Statement (.vatZeroingDone v) := fun h => Bool.noConfusion h
theorem batchHeaderFetch (v : VatId) (sid : StreamId) : Statement (.batchHeaderFetch v sid) := fun h => Bool.noConfusion h
theorem descriptorHead (v : VatId) (sid : StreamId) : Statement (.descriptorHead v sid) := fun h => Bool.noConfusion h
theorem descriptorStart (v : VatId) (sid : StreamId) : Statement (.descriptorStart v sid) := fun h => Bool.noConfusion h
theorem descriptorComplete (v : VatId) (sid : StreamId) : Statement (.descriptorComplete v sid) := fun h => Bool.noConfusion h
theorem chunkGrant (v : VatId) : Statement (.chunkGrant v) := fun h => Bool.noConfusion h
theorem tagTimeout (n : Nat) : Statement (.tagTimeout n) := fun h => Bool.noConfusion h
theorem streamReset (m : Master) (v : VatId) (sid : StreamId) (val : W64) : Statement (.streamReset m v sid val) := fun h => Bool.noConfusion h
theorem streamWaitLate (v : VatId) (c : CtxId) : Statement (.streamWaitLate v c) := fun h => Bool.noConfusion h
theorem deadlineMiss (v : VatId) (c : CtxId) : Statement (.deadlineMiss v c) := fun h => Bool.noConfusion h
theorem dnetPacketArrival (n : Nat) (e : FlitErr) : Statement (.dnetPacketArrival n e) := fun h => Bool.noConfusion h
theorem bankCopyDone (v : VatId) (i : Fin 4) : Statement (.bankCopyDone v i) := fun h => Bool.noConfusion h
theorem dirtyScrubDone (v : VatId) : Statement (.dirtyScrubDone v) := fun h => Bool.noConfusion h
theorem backgroundScrub (v : VatId) (r : BitVec 17) (e : Ecc) : Statement (.backgroundScrub v r e) := fun h => Bool.noConfusion h
theorem groupPowerOn (v : VatId) (g : Fin 4) : Statement (.groupPowerOn v g) := fun h => Bool.noConfusion h
theorem groupPowerOff (v : VatId) (g : Fin 4) : Statement (.groupPowerOff v g) := fun h => Bool.noConfusion h
theorem groupClockStart (v : VatId) (g : Fin 4) : Statement (.groupClockStart v g) := fun h => Bool.noConfusion h
theorem groupCloseDone (v : VatId) (g : Fin 4) (late : Bool) : Statement (.groupCloseDone v g late) := fun h => Bool.noConfusion h
theorem doorbell (f : FuncId) (off : BitVec 12) (size : Nat) (val : W32) : Statement (.doorbell f off size val) := fun h => Bool.noConfusion h
theorem ringEnable (m : Master) (f : FuncId) (val : W64) : Statement (.ringEnable m f val) := fun h => Bool.noConfusion h
theorem ringDisable (m : Master) (f : FuncId) (val : W64) : Statement (.ringDisable m f val) := fun h => Bool.noConfusion h
theorem ringNop (f : FuncId) : Statement (.ringNop f) := fun h => Bool.noConfusion h
theorem ringEntrySkipped (f : FuncId) : Statement (.ringEntrySkipped f) := fun h => Bool.noConfusion h
theorem submit (f : FuncId) : Statement (.submit f) := fun h => Bool.noConfusion h
theorem cancel (f : FuncId) : Statement (.cancel f) := fun h => Bool.noConfusion h
theorem pause (f : FuncId) : Statement (.pause f) := fun h => Bool.noConfusion h
theorem pauseEffect (r : ReqId) : Statement (.pauseEffect r) := fun h => Bool.noConfusion h
theorem resume (f : FuncId) : Statement (.resume f) := fun h => Bool.noConfusion h
theorem restoreDone (r : ReqId) (ok : Bool) : Statement (.restoreDone r ok) := fun h => Bool.noConfusion h
theorem packWaitExpiry (p : PartId) : Statement (.packWaitExpiry p) := fun h => Bool.noConfusion h
theorem passStart (p : PartId) : Statement (.passStart p) := fun h => Bool.noConfusion h
theorem passCommit (p : PartId) (logits : List (ReqId × List W32)) : Statement (.passCommit p logits) := fun h => Bool.noConfusion h
theorem pfxInsertDone (g : Fin 16) (i : Nat) (cache : List Byte) : Statement (.pfxInsertDone g i cache) := fun h => Bool.noConfusion h
theorem preemption (r : ReqId) : Statement (.preemption r) := fun h => Bool.noConfusion h
theorem spill (r : ReqId) : Statement (.spill r) := fun h => Bool.noConfusion h
theorem spillWriteDone (r : ReqId) (ok : Bool) : Statement (.spillWriteDone r ok) := fun h => Bool.noConfusion h
theorem spillExpiry (r : ReqId) : Statement (.spillExpiry r) := fun h => Bool.noConfusion h
theorem budgetRefill : Statement (.budgetRefill) := fun h => Bool.noConfusion h
theorem dutyEvaluation (waits : List Nat) : Statement (.dutyEvaluation waits) := fun h => Bool.noConfusion h
theorem heartbeat : Statement (.heartbeat) := fun h => Bool.noConfusion h
theorem requestRerun (p : PartId) (code : Byte) : Statement (.requestRerun p code) := fun h => Bool.noConfusion h
theorem vatSubstitution (v : VatId) : Statement (.vatSubstitution v) := fun h => Bool.noConfusion h
theorem tailStepStart (p : PartId) (drafts : List (ReqId × List (List W32))) : Statement (.tailStepStart p drafts) := fun h => Bool.noConfusion h
theorem tokenSelect (r : ReqId) (zs : List (List W32)) : Statement (.tokenSelect r zs) := fun h => Bool.noConfusion h
theorem specCompactionDone (r : ReqId) : Statement (.specCompactionDone r) := fun h => Bool.noConfusion h
theorem tailStepCommit (p : PartId) : Statement (.tailStepCommit p) := fun h => Bool.noConfusion h
theorem mboxQuery : Statement (.mboxQuery) := fun h => Bool.noConfusion h
theorem mboxVersion : Statement (.mboxVersion) := fun h => Bool.noConfusion h
theorem mboxStats : Statement (.mboxStats) := fun h => Bool.noConfusion h
theorem mboxBudgetAdjust : Statement (.mboxBudgetAdjust) := fun h => Bool.noConfusion h
theorem mboxCancelFunction : Statement (.mboxCancelFunction) := fun h => Bool.noConfusion h
theorem gramEnable (m : Master) (g : Fin 256) (val : W64) : Statement (.gramEnable m g val) := fun h => Bool.noConfusion h
theorem gramDisable (m : Master) (g : Fin 256) (val : W64) : Statement (.gramDisable m g val) := fun h => Bool.noConfusion h
theorem kvxRecordSend (d : DestId) (krows : List (List W16)) (vrows : List (List W16)) (poison : Bool) : Statement (.kvxRecordSend d krows vrows poison) := fun h => Bool.noConfusion h
theorem creditWrite (src : CreditSrc) (d : DestId) (val : W64) : Statement (.creditWrite src d val) := fun h => Bool.noConfusion h
theorem creditTimeout (d : DestId) : Statement (.creditTimeout d) := fun h => Bool.noConfusion h
theorem destEnable (m : Master) (d : DestId) (val : W64) : Statement (.destEnable m d val) := fun h => Bool.noConfusion h
theorem destDisable (m : Master) (d : DestId) (val : W64) : Statement (.destDisable m d val) := fun h => Bool.noConfusion h
theorem roceAck (d : DestId) (psn : BitVec 24) : Statement (.roceAck d psn) := fun h => Bool.noConfusion h
theorem roceNak (d : DestId) (k : RoceNak) (psn : BitVec 24) : Statement (.roceNak d k psn) := fun h => Bool.noConfusion h
theorem roceAckTimeout (d : DestId) : Statement (.roceAckTimeout d) := fun h => Bool.noConfusion h
theorem cnpReceive (d : DestId) : Statement (.cnpReceive d) := fun h => Bool.noConfusion h
theorem rateStep (d : DestId) : Statement (.rateStep d) := fun h => Bool.noConfusion h
theorem roceRequestIn (x : Fin 2) : Statement (.roceRequestIn x) := fun h => Bool.noConfusion h
theorem ctrlRingBreak (dim : Fin 4) (pos : Fin 32) (withdraw : Bool) : Statement (.ctrlRingBreak dim pos withdraw) := fun h => Bool.noConfusion h
theorem memWrite (pkt : Pkt) : Statement (.memWrite pkt) := fun _ => rfl
theorem winWrite (pkt : Pkt) : Statement (.winWrite pkt) := fun _ => rfl
theorem getReq (pkt : Pkt) : Statement (.getReq pkt) := fun _ => rfl
theorem getData (pkt : Pkt) : Statement (.getData pkt) := fun _ => rfl
theorem fabricAck (pkt : Pkt) : Statement (.fabricAck pkt) := fun _ => rfl
theorem fabricNak (pkt : Pkt) : Statement (.fabricNak pkt) := fun _ => rfl
theorem getReissue (v : VatId) : Statement (.getReissue v) := fun h => Bool.noConfusion h
theorem regPacket (pkt : Pkt) (write : Bool) (off : BitVec 26) (val : W64) : Statement (.regPacket pkt write off val) := fun _ => rfl
theorem regRsp : Statement (.regRsp) := fun h => Bool.noConfusion h
theorem tsync (t1 : W64) (t2 : W64) (t3 : W64) (t4 : W64) : Statement (.tsync t1 t2 t3 t4) := fun h => Bool.noConfusion h
theorem tsyncExchange : Statement (.tsyncExchange) := fun h => Bool.noConfusion h
theorem timeHoldover : Statement (.timeHoldover) := fun h => Bool.noConfusion h
theorem frameReceive (p : PortId) (f : Frame) : Statement (.frameReceive p f) := fun _ => rfl
theorem portRetrain (p : PortId) (ok : Bool) (far : W16 × BitVec 5) : Statement (.portRetrain p ok far) := fun h => Bool.noConfusion h
theorem linkTrainingDone (p : PortId) (ok : Bool) (partner : W16) (pport : BitVec 5) : Statement (.linkTrainingDone p ok partner pport) := fun h => Bool.noConfusion h
theorem spareTakeover (p : PortId) (partnerOk : Bool) : Statement (.spareTakeover p partnerOk) := fun h => Bool.noConfusion h
theorem portRetryTrain (p : PortId) : Statement (.portRetryTrain p) := fun h => Bool.noConfusion h
theorem rampStep (p : PortId) : Statement (.rampStep p) := fun h => Bool.noConfusion h
theorem spareChannelReturn (vc : Fin 8) : Statement (.spareChannelReturn vc) := fun h => Bool.noConfusion h
theorem windowCloseDone (v : VatId) (w : Fin 256) : Statement (.windowCloseDone v w) := fun h => Bool.noConfusion h
theorem bseqGrant : Statement (.bseqGrant) := fun h => Bool.noConfusion h
theorem bseqTimeout : Statement (.bseqTimeout) := fun h => Bool.noConfusion h
theorem bpresLoss (slot : Fin 8) : Statement (.bpresLoss slot) := fun h => Bool.noConfusion h
theorem sheafLaunch (f : FuncId) (val : W64) : Statement (.sheafLaunch f val) := fun h => Bool.noConfusion h
theorem sheafOpStart (d : SheafId) : Statement (.sheafOpStart d) := fun h => Bool.noConfusion h
theorem hello (h : ShHead) (hash : BitVec 128) (mismatched : Bool) : Statement (.hello h hash mismatched) := fun h => Bool.noConfusion h
theorem go (h : ShHead) : Statement (.go h) := fun h => Bool.noConfusion h
theorem mismatch (h : ShHead) : Statement (.mismatch h) := fun h => Bool.noConfusion h
theorem sheafData (k : ShChunk) : Statement (.sheafData k) := fun h => Bool.noConfusion h
theorem chunkAck (h : ShHead) (step : W16) (chunk : W16) : Statement (.chunkAck h step chunk) := fun h => Bool.noConfusion h
theorem chunkNak (h : ShHead) (step : W16) (chunk : W16) : Statement (.chunkNak h step chunk) := fun h => Bool.noConfusion h
theorem sheafDone (h : ShHead) (flags : BitVec 4) (members : Nat) : Statement (.sheafDone h flags members) := fun h => Bool.noConfusion h
theorem sheafCommit (h : ShHead) (flags : BitVec 4) : Statement (.sheafCommit h flags) := fun h => Bool.noConfusion h
theorem sheafAbort (h : ShHead) (code : Byte) (reason : Byte) : Statement (.sheafAbort h code reason) := fun h => Bool.noConfusion h
theorem stepDeadline (d : SheafId) : Statement (.stepDeadline d) := fun h => Bool.noConfusion h
theorem doneTimeout (d : SheafId) : Statement (.doneTimeout d) := fun h => Bool.noConfusion h
theorem pauseReq (h : ShHead) : Statement (.pauseReq h) := fun h => Bool.noConfusion h
theorem sheafPause (h : ShHead) : Statement (.sheafPause h) := fun h => Bool.noConfusion h
theorem resumeReq (h : ShHead) : Statement (.resumeReq h) := fun h => Bool.noConfusion h
theorem sheafResume (h : ShHead) : Statement (.sheafResume h) := fun h => Bool.noConfusion h
theorem inputPowerUp : Statement (.inputPowerUp) := fun h => Bool.noConfusion h
theorem powerGood (slot : BitVec 3) (bpos : BitVec 13) : Statement (.powerGood slot bpos) := fun h => Bool.noConfusion h
theorem fuseReadDone (a : Fuses) (b : Fuses) : Statement (.fuseReadDone a b) := fun h => Bool.noConfusion h
theorem imageCheckDone (probe : Bool) (octal : Bool) : Statement (.imageCheckDone probe octal) := fun h => Bool.noConfusion h
theorem layoutApply (bad : List PhysId) (skimOk : Bool) : Statement (.layoutApply bad skimOk) := fun h => Bool.noConfusion h
theorem release (bad : List StackId) : Statement (.release bad) := fun h => Bool.noConfusion h
theorem phaseLimitExpiry : Statement (.phaseLimitExpiry) := fun h => Bool.noConfusion h
theorem mrstNAssert : Statement (.mrstNAssert) := fun h => Bool.noConfusion h
theorem mrstNRelease : Statement (.mrstNRelease) := fun h => Bool.noConfusion h
theorem wdtKick (m : Master) (val : W64) : Statement (.wdtKick m val) := fun h => Bool.noConfusion h
theorem wdtExpiry : Statement (.wdtExpiry) := fun h => Bool.noConfusion h
theorem lockstepMismatch : Statement (.lockstepMismatch) := fun h => Bool.noConfusion h
theorem secViolation : Statement (.secViolation) := fun h => Bool.noConfusion h
theorem inputExcursion (mv : Nat) (long : Bool) : Statement (.inputExcursion mv long) := fun h => Bool.noConfusion h
theorem powerEvaluation (raw : List Nat) (pt : Nat) (pf : Nat) (mv : Nat) (ci : Nat) (valid : Bool) : Statement (.powerEvaluation raw pt pf mv ci valid) := fun _ => rfl
theorem calibration (a : List Nat) (p : Nat) (valid : Bool) : Statement (.calibration a p valid) := fun _ => rfl
theorem fixedFloorUpdate (w : W16) : Statement (.fixedFloorUpdate w) := fun h => Bool.noConfusion h
theorem thermalSample (t : List W16) : Statement (.thermalSample t) := fun _ => rfl
theorem thermalStep : Statement (.thermalStep) := fun h => Bool.noConfusion h
theorem thermTrip (sensor : Fin 46) : Statement (.thermTrip sensor) := fun h => Bool.noConfusion h
theorem droopStretch (i : Fin 65) : Statement (.droopStretch i) := fun h => Bool.noConfusion h
theorem droopEnd (i : Fin 65) : Statement (.droopEnd i) := fun h => Bool.noConfusion h
theorem cmdResetSystem (k : SecClass) : Statement (.cmdResetSystem k) := fun h => Bool.noConfusion h
theorem cmdResetCore (k : SecClass) : Statement (.cmdResetCore k) := fun h => Bool.noConfusion h
theorem cmdResetPartition (k : SecClass) : Statement (.cmdResetPartition k) := fun h => Bool.noConfusion h
theorem relayout (k : SecClass) : Statement (.relayout k) := fun h => Bool.noConfusion h
theorem relayoutApply (selfTest : Bool) : Statement (.relayoutApply selfTest) := fun h => Bool.noConfusion h
theorem keyChangeSlot (k : SecClass) : Statement (.keyChangeSlot k) := fun h => Bool.noConfusion h
theorem keyChangeTenant (k : SecClass) : Statement (.keyChangeTenant k) := fun h => Bool.noConfusion h
theorem enrolment : Statement (.enrolment) := fun h => Bool.noConfusion h
theorem powerCap (k : SecClass) : Statement (.powerCap k) := fun h => Bool.noConfusion h
theorem fwUpdate (k : SecClass) : Statement (.fwUpdate k) := fun h => Bool.noConfusion h
theorem windowOpen (k : SecClass) : Statement (.windowOpen k) := fun h => Bool.noConfusion h
theorem windowClose (k : SecClass) : Statement (.windowClose k) := fun h => Bool.noConfusion h
theorem partKill (k : SecClass) : Statement (.partKill k) := fun h => Bool.noConfusion h
theorem partReadmit (p : PartId) : Statement (.partReadmit p) := fun h => Bool.noConfusion h
theorem counterRecordWrite : Statement (.counterRecordWrite) := fun h => Bool.noConfusion h
theorem authThrottleEnd (k : SecClass) : Statement (.authThrottleEnd k) := fun h => Bool.noConfusion h
theorem hbmPatrolScrub (h : StackId) (pc : Fin 64) (off : BitVec 35) (r : Patrol) : Statement (.hbmPatrolScrub h pc off r) := fun h => Bool.noConfusion h
theorem hbmPcCopyDone (h : StackId) : Statement (.hbmPcCopyDone h) := fun h => Bool.noConfusion h
theorem flr (f : FuncId) : Statement (.flr f) := fun h => Bool.noConfusion h
theorem hotReset : Statement (.hotReset) := fun h => Bool.noConfusion h
theorem bar2Read (f : FuncId) (off : BitVec 38) (len : Nat) : Statement (.bar2Read f off len) := fun _ => rfl
theorem bar2Write (f : FuncId) (off : BitVec 38) (data : List Byte) : Statement (.bar2Write f off data) := fun _ => rfl
theorem smbusRegRead (bytes : List Byte) (pec : Bool) : Statement (.smbusRegRead bytes pec) := fun h => Bool.noConfusion h
theorem smbusRegWrite (bytes : List Byte) (pec : Bool) : Statement (.smbusRegWrite bytes pec) := fun h => Bool.noConfusion h
theorem smbusStatus (pec : Bool) : Statement (.smbusStatus pec) := fun h => Bool.noConfusion h
theorem smbusIdent (pec : Bool) : Statement (.smbusIdent pec) := fun h => Bool.noConfusion h
theorem alertResponse (pec : Bool) : Statement (.alertResponse pec) := fun h => Bool.noConfusion h
theorem tapRegacc (dr : BitVec 91) : Statement (.tapRegacc dr) := fun h => Bool.noConfusion h
theorem tapUnlock (block : List Byte) : Statement (.tapUnlock block) := fun _ => rfl
theorem tapRelock : Statement (.tapRelock) := fun h => Bool.noConfusion h
theorem dumpEnable (m : Master) (val : W64) : Statement (.dumpEnable m val) := fun h => Bool.noConfusion h
theorem dumpSnapshot (busy : Bool) : Statement (.dumpSnapshot busy) := fun h => Bool.noConfusion h
theorem traceEnable (m : Master) (val : W64) : Statement (.traceEnable m val) := fun h => Bool.noConfusion h
theorem perfSample (u : Fin 16) (i : Fin 16) : Statement (.perfSample u i) := fun h => Bool.noConfusion h
theorem bwWindowEnd : Statement (.bwWindowEnd) := fun h => Bool.noConfusion h
theorem dnetErrClear (m : Master) : Statement (.dnetErrClear m) := fun h => Bool.noConfusion h
theorem chkStatClear (m : Master) (v : VatId) : Statement (.chkStatClear m v) := fun h => Bool.noConfusion h
theorem eccStatClear (m : Master) (v : VatId) : Statement (.eccStatClear m v) := fun h => Bool.noConfusion h
theorem cellarErrClear (m : Master) (v : VatId) : Statement (.cellarErrClear m v) := fun h => Bool.noConfusion h
theorem skimStatClear (m : Master) (v : VatId) : Statement (.skimStatClear m v) := fun h => Bool.noConfusion h
theorem kvxStatClear (m : Master) : Statement (.kvxStatClear m) := fun h => Bool.noConfusion h
theorem pfxStatClear (m : Master) (spillStat : Bool) : Statement (.pfxStatClear m spillStat) := fun h => Bool.noConfusion h
theorem thrPortErrClear (m : Master) (p : PortId) : Statement (.thrPortErrClear m p) := fun h => Bool.noConfusion h
theorem sheafStatClear (m : Master) : Statement (.sheafStatClear m) := fun h => Bool.noConfusion h
theorem pwrStatClear (m : Master) : Statement (.pwrStatClear m) := fun h => Bool.noConfusion h
theorem hbmEccClear (m : Master) (h : StackId) : Statement (.hbmEccClear m h) := fun h => Bool.noConfusion h
theorem hostAccClear (m : Master) (f : FuncId) : Statement (.hostAccClear m f) := fun h => Bool.noConfusion h
theorem registerWrite (ws : BusCycle) : Statement (.registerWrite ws) := fun _ => rfl
theorem illegalOpcode (v : VatId) (c : CtxId) (ecc : Bool) : Statement (.illegalOpcode v c ecc) := fun h => Bool.noConfusion h
theorem smbusTimeout : Statement (.smbusTimeout) := fun h => Bool.noConfusion h
theorem pcieLinkUp (speed : BitVec 3) (width : BitVec 5) (flit : Bool) : Statement (.pcieLinkUp speed width flit) := fun h => Bool.noConfusion h
theorem configurationRequest (f : FuncId) (q : CfgReq) : Statement (.configurationRequest f q) := fun h => Bool.noConfusion h
theorem rnrTimerExpiry (d : DestId) : Statement (.rnrTimerExpiry d) := fun h => Bool.noConfusion h
theorem pfcPauseFrame (x : Fin 2) (prio : BitVec 3) (pause : Bool) : Statement (.pfcPauseFrame x prio pause) := fun h => Bool.noConfusion h
theorem coalescedInterruptDue (f : FuncId) (vec : Fin 2) : Statement (.coalescedInterruptDue f vec) := fun h => Bool.noConfusion h

end Sys2Proof.Laws.Payload
end

