-- ==== Sys2Proof/Laws/Regs.lean ====
section
/-! SUPPORT. Reading registers and fields after writing them, and how the words of Safety.lean on what is left alone compose. -/

namespace Sys2Proof.Machine

/-! Fields. -/

theorem Fld.testBit_get (f : Fld) (w : W64) (i : Nat) :
    (f.get w).testBit i = (decide (i < f.width) && w.getLsbD (f.lo + i)) := by
  simp only [Fld.get, Nat.testBit_mod_two_pow, Nat.testBit_div_two_pow, BitVec.getLsbD]
  rw [Nat.add_comm]

theorem Fld.getLsbD_mask (f : Fld) (i : Nat) (hi : i < 64) :
    f.mask.getLsbD i = decide (f.lo ≤ i ∧ i < f.lo + f.width) := by
  simp only [Fld.mask, BitVec.getLsbD_ofNat, Nat.testBit_mul_two_pow, Nat.testBit_two_pow_sub_one, hi, decide_true, Bool.true_and]
  by_cases h : f.lo ≤ i
  · simp [h]; omega
  · simp [h]

theorem Fld.getLsbD_put (f : Fld) (w : W64) (n i : Nat) (hi : i < 64) :
    (f.put w n).getLsbD i = if f.lo ≤ i ∧ i < f.lo + f.width then n.testBit (i - f.lo) else w.getLsbD i := by
  simp only [Fld.put, BitVec.getLsbD_or, BitVec.getLsbD_and, BitVec.getLsbD_not, hi, decide_true, Bool.true_and,
    Fld.getLsbD_mask f i hi, BitVec.getLsbD_ofNat, Nat.testBit_mul_two_pow, Nat.testBit_mod_two_pow]
  by_cases h : f.lo ≤ i
  · by_cases h2 : i < f.lo + f.width
    · have : i - f.lo < f.width := by omega
      simp [h, h2, this]
    · have : ¬ i - f.lo < f.width := by omega
      simp [h, h2, this]
  · simp [h]

/-- A field reads back what was put into it, as far as it holds it. -/
theorem Fld.get_put (f : Fld) (w : W64) (n : Nat) (hf : f.hi < 64) :
    f.get (f.put w n) = n % 2 ^ f.width := by
  apply Nat.eq_of_testBit_eq
  intro i
  rw [Fld.testBit_get, Nat.testBit_mod_two_pow]
  by_cases h : i < f.width
  · have h2 : f.lo + i < 64 := by simp only [Fld.width] at h; omega
    rw [Fld.getLsbD_put f w n _ h2]
    simp [h]
  · simp [h]

/-- A field that shares no bit with the one put reads as before. -/
theorem Fld.get_put_other (f g : Fld) (w : W64) (n : Nat) (hf : f.hi < 64)
    (h : f.hi < g.lo ∨ g.lo + g.width ≤ f.lo) : f.get (g.put w n) = f.get w := by
  apply Nat.eq_of_testBit_eq
  intro i
  rw [Fld.testBit_get, Fld.testBit_get]
  by_cases hi : i < f.width
  · have h2 : f.lo + i < 64 := by simp only [Fld.width] at hi; omega
    rw [Fld.getLsbD_put g w n _ h2, if_neg]
    simp only [Fld.width] at hi h ⊢
    omega
  · simp [hi]

/-! Registers. -/

theorem State.rdOff_wr (s : State) (r : Reg) (x : W64) (o : Nat) :
    (s.wr r x).rdOff o = if o = r.off then x else s.rdOff o := Tab.get_set ..

theorem State.rd_wr_same (s : State) (r : Reg) (x : W64) : (s.wr r x).rd r = x := Tab.get_set_same ..

theorem State.rd_wr_other (s : State) (r q : Reg) (x : W64) (h : q.off ≠ r.off) : (s.wr r x).rd q = s.rd q :=
  Tab.get_set_other _ _ _ _ _ h

theorem State.rd_put_other (s : State) (r q : Reg) (f : Fld) (n : Nat) (h : q.off ≠ r.off) : (s.put r f n).rd q = s.rd q :=
  State.rd_wr_other s r q _ h

theorem State.rd_put_same (s : State) (r : Reg) (f : Fld) (n : Nat) : (s.put r f n).rd r = f.put (s.rd r) n :=
  State.rd_wr_same ..

theorem State.get_wr_same (s : State) (r : Reg) (x : W64) (f : Fld) : (s.wr r x).get r f = f.get x := by
  rw [State.get, State.rd_wr_same]

theorem State.get_wr_other (s : State) (r q : Reg) (x : W64) (f : Fld) (h : q.off ≠ r.off) : (s.wr r x).get q f = s.get q f := by
  rw [State.get, State.rd_wr_other _ _ _ _ h, State.get]

theorem State.get_put_same (s : State) (r : Reg) (f : Fld) (n : Nat) (hf : f.hi < 64) :
    (s.put r f n).get r f = n % 2 ^ f.width := by
  rw [State.get, State.rd_put_same, Fld.get_put f _ _ hf]

theorem State.get_put_reg (s : State) (r q : Reg) (f g : Fld) (n : Nat) (h : q.off ≠ r.off) :
    (s.put r f n).get q g = s.get q g := State.get_wr_other _ _ _ _ _ h

theorem State.get_put_fld (s : State) (r : Reg) (f g : Fld) (n : Nat) (hg : g.hi < 64)
    (h : g.hi < f.lo ∨ f.lo + f.width ≤ g.lo) : (s.put r f n).get r g = s.get r g := by
  rw [State.get, State.rd_put_same, Fld.get_put_other g f _ _ hg h, State.get]

/-! What is left alone. -/

variable {P Q : Nat → Prop} {s t u : State}

theorem RegsKept.refl : RegsKept P s s := fun _ _ => ⟨rfl, rfl⟩

theorem RegsKept.trans (h : RegsKept P s t) (h' : RegsKept P t u) : RegsKept P s u :=
  fun o ho => ⟨(h' o ho).1.trans (h o ho).1, (h' o ho).2.trans (h o ho).2⟩

theorem RegsKept.mono (h : RegsKept P s t) (hp : ∀ o, P o → Q o) : RegsKept Q s t := fun o ho => h o fun hP => ho (hp o hP)

theorem RegsKept.rd (h : RegsKept P s t) (r : Reg) (hr : ¬ P r.off) : t.rd r = s.rd r := (h _ hr).1

theorem RegsKept.get (h : RegsKept P s t) (r : Reg) (f : Fld) (hr : ¬ P r.off) : t.get r f = s.get r f := by
  rw [State.get, h.rd r hr, State.get]

theorem OnlyRegs.refl : OnlyRegs P s s := ⟨rfl, .refl⟩

theorem OnlyRegs.trans (h : OnlyRegs P s t) (h' : OnlyRegs P t u) : OnlyRegs P s u :=
  ⟨by rw [h'.rest, h.rest], h.kept.trans h'.kept⟩

theorem OnlyRegs.mono (h : OnlyRegs P s t) (hp : ∀ o, P o → Q o) : OnlyRegs Q s t := ⟨h.rest, h.kept.mono hp⟩

theorem OnlyRegs.wr (h : OnlyRegs P s t) (r : Reg) (x : W64) (hr : P r.off) : OnlyRegs P s (t.wr r x) :=
  h.trans ⟨rfl, fun _ ho => ⟨Tab.get_set_other _ _ _ _ _ fun e => ho (e ▸ hr), rfl⟩⟩

theorem OnlyRegs.put (h : OnlyRegs P s t) (r : Reg) (f : Fld) (n : Nat) (hr : P r.off) : OnlyRegs P s (t.put r f n) := h.wr r _ hr

theorem OnlyRegs.resetRegs (h : OnlyRegs P s t) (lo hi : Nat) (hr : ∀ o, lo ≤ o → o < hi → P o) :
    OnlyRegs P s (t.resetRegs lo hi) := by
  refine h.trans ⟨rfl, fun o ho => ?_⟩
  have : o < lo ∨ hi ≤ o := by
    rcases Nat.lt_or_ge o lo with h | h
    · exact .inl h
    · rcases Nat.lt_or_ge o hi with h2 | h2
      · exact absurd (hr o h h2) ho
      · exact .inr h2
  exact ⟨Tab.get_clear_out _ _ _ _ _ this, Tab.get_clear_out _ _ _ _ _ this⟩

theorem VatsKept.refl : VatsKept s s := fun _ => rfl

theorem VatsKept.trans (h : VatsKept s t) (h' : VatsKept t u) : VatsKept s u := fun v => by rw [h' v, h v]

theorem OnlyInstr.refl : OnlyInstr P s s := ⟨rfl, .refl, .refl⟩

theorem OnlyInstr.trans (h : OnlyInstr P s t) (h' : OnlyInstr P t u) : OnlyInstr P s u :=
  ⟨by rw [h'.rest, h.rest], h.vats.trans h'.vats, h.kept.trans h'.kept⟩

theorem OnlyInstr.mono (h : OnlyInstr P s t) (hp : ∀ o, P o → Q o) : OnlyInstr Q s t :=
  ⟨h.rest, h.vats, h.kept.mono fun o ho => ho.imp_left (hp o)⟩

theorem OnlyRegs.instr (h : OnlyRegs P s t) : OnlyInstr P s t :=
  ⟨by rw [h.rest], fun u => by rw [h.rest]; rfl, h.kept.mono fun _ => Or.inl⟩

theorem OnlyInstr.wr (h : OnlyInstr P s t) (r : Reg) (x : W64) (hr : P r.off) : OnlyInstr P s (t.wr r x) :=
  h.trans (OnlyRegs.refl.wr r x hr).instr

theorem OnlyInstr.put (h : OnlyInstr P s t) (r : Reg) (f : Fld) (n : Nat) (hr : P r.off) : OnlyInstr P s (t.put r f n) :=
  h.wr r _ hr

end Sys2Proof.Machine
end

