-- ==== Sys2Proof/Laws/Perf.lean ====
section
/-! SUPPORT. Everything a performance event can do: registers of its unit's counters, and the issue record. -/

namespace Sys2Proof.Machine

variable {P : Nat → Prop} {s t : State}

theorem State.vat_setVat (s : State) (v w : Nat) (x : VatX) : (s.setVat v x).vat w = if w = v then x else s.vat w :=
  Tab.get_set ..

theorem perfOff_cfg {u i : Nat} (hu : u < 38) (hi : i < 16) : perfOff (Reg.PERF_CFG u i).off := by
  simp only [perfOff, Reg.off]; omega

theorem perfOff_value {u i : Nat} (hu : u < 38) (hi : i < 16) : perfOff (Reg.PERF_VALUE u i).off := by
  simp only [perfOff, Reg.off]; omega

theorem OnlyInstr.perfReg (h : OnlyInstr P s t) (r : Reg) (f : Fld) (n : Nat) (hr : perfOff r.off) :
    OnlyInstr P s (t.put r f n) :=
  h.trans ⟨rfl, .refl, fun _ ho => ⟨Tab.get_set_other _ _ _ _ _ fun e => ho (.inr (e ▸ hr)), rfl⟩⟩

theorem OnlyInstr.issueRecord (h : OnlyInstr P s t) (v : Nat) (x : Option (Nat × Nat))
    (y : List (Nat × Nat × List (Nat × Nat))) : OnlyInstr P s (t.setVat v { t.vat v with last := x, samples := y }) :=
  h.trans ⟨rfl, fun u => by
    rw [State.vat_setVat]
    split
    · next e => subst e; rfl
    · rfl, .refl⟩

theorem OnlyInstr.sampleDue (h : OnlyInstr P s t) (u i : Nat) : OnlyInstr P s (t.sampleDue u i) := by
  unfold State.sampleDue
  split
  · exact h.issueRecord u (t.vat u).last _
  · exact h

theorem OnlyInstr.perfAdd (h : OnlyInstr P s t) {u i : Nat} (n : Nat) (hu : u < 38) (hi : i < 16) :
    OnlyInstr P s (t.perfAdd u i n).1 := by
  have h1 := fun k => h.perfReg (.PERF_VALUE u i) PERF_VALUE.COUNT k (perfOff_value hu hi)
  unfold State.perfAdd
  dsimp only
  split
  · exact h1 _
  · have h2 := (h1 ((t.get (.PERF_VALUE u i) PERF_VALUE.COUNT + n) % 2 ^ 48)).perfReg (.PERF_CFG u i) PERF_CFG.OVF 1
      (perfOff_cfg hu hi)
    split
    · exact h2.sampleDue u i
    · exact h2

theorem OnlyInstr.perfOne (h : OnlyInstr P s t) {u i : Nat} (ev : Nat) (sels : List Nat) (n : Nat) (hu : u < 38) (hi : i < 16) :
    OnlyInstr P s (t.perfOne u ev sels n i) := by
  have h1 := h.perfAdd n hu hi
  unfold State.perfOne State.perfChain
  split
  · dsimp only
    split
    · next e =>
      have : i + 1 < 16 := by
        simp only [Bool.and_eq_true, decide_eq_true_eq] at e
        omega
      exact h1.perfAdd 1 hu this
    · exact h1
  · exact h

/-- A performance event touches counter registers and the issue record only. -/
theorem OnlyInstr.perf (h : OnlyInstr P s t) {u : Nat} (ev : Nat) (sels : List Nat) (n : Nat) (hu : u < 38) :
    OnlyInstr P s (t.perf u ev sels n) := by
  unfold State.perf
  split
  · exact h
  · suffices ∀ (l : List Nat) (t : State), (∀ i ∈ l, i < 16) → OnlyInstr P s t →
        OnlyInstr P s (l.foldl (fun s i => s.perfOne u ev sels n i) t) from
      this _ _ (fun i hi => List.mem_range.mp hi) h
    intro l
    induction l with
    | nil => exact fun t _ h => h
    | cons i l ih =>
      intro t hl h
      exact ih _ (fun j hj => hl j (List.mem_cons_of_mem _ hj)) (h.perfOne ev sels n hu (hl i List.mem_cons_self))

theorem OnlyInstr.perfs (h : OnlyInstr P s t) (us : List Nat) (ev : Nat) (sels : List Nat) (n : Nat)
    (hu : ∀ u ∈ us, u < 38) : OnlyInstr P s (t.perfs us ev sels n) := by
  unfold State.perfs
  induction us generalizing t with
  | nil => exact h
  | cons u us ih =>
    exact ih (h.perf ev sels n (hu u List.mem_cons_self)) fun w hw => hu w (List.mem_cons_of_mem _ hw)

/-- An instruction's issue counts, and is recorded. -/
theorem OnlyInstr.noteIssue (h : OnlyInstr P s t) (v : VatId) (c pc opc : Nat) :
    OnlyInstr P s (t.noteIssue v c pc opc) :=
  (h.issueRecord v _ _).perf _ _ _ (by have := v.isLt; simp only [puVat]; omega)

theorem OnlyInstr.issued (v : VatId) (c op : Nat) : OnlyInstr P s (s.issued v c op) := by
  unfold State.issued
  split
  · exact .refl
  · exact OnlyInstr.refl.noteIssue v c _ _

/-- An instruction that may issue runs, on a state that differs in counters and the issue record only. -/
theorem Issues.run {v : VatId} {c op w : Nat} (h : Issues s v c op w) (f : Nat → State → State) :
    s.issue v c op f = (f w (s.issued v c op)).atBoundary v c := by
  unfold State.issue
  rw [h.fetch]
  simp [h.can, h.opc, h.header]

end Sys2Proof.Machine
end

