-- ==== Sys2Proof/Laws/State.lean ====
section
/-! SUPPORT. What each primitive update of the state leaves alone: one lemma for each field it does not touch. -/

namespace Sys2Proof.Machine

@[simp] theorem State.wr_pending (s : State) (r : Reg) (x : W64) : (s.wr r x).pending = s.pending := rfl
@[simp] theorem State.wr_live (s : State) (r : Reg) (x : W64) : (s.wr r x).live = s.live := rfl
@[simp] theorem State.wr_mem (s : State) (r : Reg) (x : W64) : (s.wr r x).mem = s.mem := rfl
@[simp] theorem State.wr_poison (s : State) (r : Reg) (x : W64) : (s.wr r x).poison = s.poison := rfl
@[simp] theorem State.wr_host (s : State) (r : Reg) (x : W64) : (s.wr r x).host = s.host := rfl
@[simp] theorem State.wr_flash (s : State) (r : Reg) (x : W64) : (s.wr r x).flash = s.flash := rfl
@[simp] theorem State.wr_sram (s : State) (r : Reg) (x : W64) : (s.wr r x).sram = s.sram := rfl
@[simp] theorem State.wr_prog (s : State) (r : Reg) (x : W64) : (s.wr r x).prog = s.prog := rfl
@[simp] theorem State.wr_curd (s : State) (r : Reg) (x : W64) : (s.wr r x).curd = s.curd := rfl
@[simp] theorem State.wr_vats (s : State) (r : Reg) (x : W64) : (s.wr r x).vats = s.vats := rfl
@[simp] theorem State.wr_dirty (s : State) (r : Reg) (x : W64) : (s.wr r x).dirty = s.dirty := rfl
@[simp] theorem State.wr_withdrawn (s : State) (r : Reg) (x : W64) : (s.wr r x).withdrawn = s.withdrawn := rfl
@[simp] theorem State.wr_claims (s : State) (r : Reg) (x : W64) : (s.wr r x).claims = s.claims := rfl
@[simp] theorem State.wr_streams (s : State) (r : Reg) (x : W64) : (s.wr r x).streams = s.streams := rfl
@[simp] theorem State.wr_tags (s : State) (r : Reg) (x : W64) : (s.wr r x).tags = s.tags := rfl
@[simp] theorem State.wr_tagWait (s : State) (r : Reg) (x : W64) : (s.wr r x).tagWait = s.tagWait := rfl
@[simp] theorem State.wr_tagTurn (s : State) (r : Reg) (x : W64) : (s.wr r x).tagTurn = s.tagTurn := rfl
@[simp] theorem State.wr_dnet (s : State) (r : Reg) (x : W64) : (s.wr r x).dnet = s.dnet := rfl
@[simp] theorem State.wr_gets (s : State) (r : Reg) (x : W64) : (s.wr r x).gets = s.gets := rfl
@[simp] theorem State.wr_layout (s : State) (r : Reg) (x : W64) : (s.wr r x).layout = s.layout := rfl
@[simp] theorem State.wr_msi (s : State) (r : Reg) (x : W64) : (s.wr r x).msi = s.msi := rfl
@[simp] theorem State.wr_ports (s : State) (r : Reg) (x : W64) : (s.wr r x).ports = s.ports := rfl
@[simp] theorem State.wr_breaks (s : State) (r : Reg) (x : W64) : (s.wr r x).breaks = s.breaks := rfl
@[simp] theorem State.wr_sent (s : State) (r : Reg) (x : W64) : (s.wr r x).sent = s.sent := rfl
@[simp] theorem State.wr_retired (s : State) (r : Reg) (x : W64) : (s.wr r x).retired = s.retired := rfl
@[simp] theorem State.wr_geom (s : State) (r : Reg) (x : W64) : (s.wr r x).geom = s.geom := rfl
@[simp] theorem State.wr_reqs (s : State) (r : Reg) (x : W64) : (s.wr r x).reqs = s.reqs := rfl
@[simp] theorem State.wr_passes (s : State) (r : Reg) (x : W64) : (s.wr r x).passes = s.passes := rfl
@[simp] theorem State.wr_packDue (s : State) (r : Reg) (x : W64) : (s.wr r x).packDue = s.packDue := rfl
@[simp] theorem State.wr_closed (s : State) (r : Reg) (x : W64) : (s.wr r x).closed = s.closed := rfl
@[simp] theorem State.wr_order (s : State) (r : Reg) (x : W64) : (s.wr r x).order = s.order := rfl
@[simp] theorem State.wr_dests (s : State) (r : Reg) (x : W64) : (s.wr r x).dests = s.dests := rfl
@[simp] theorem State.wr_pfcPaused (s : State) (r : Reg) (x : W64) : (s.wr r x).pfcPaused = s.pfcPaused := rfl
@[simp] theorem State.wr_tenant (s : State) (r : Reg) (x : W64) : (s.wr r x).tenant = s.tenant := rfl
@[simp] theorem State.wr_fills (s : State) (r : Reg) (x : W64) : (s.wr r x).fills = s.fills := rfl
@[simp] theorem State.wr_budgetRem (s : State) (r : Reg) (x : W64) : (s.wr r x).budgetRem = s.budgetRem := rfl
@[simp] theorem State.wr_duty (s : State) (r : Reg) (x : W64) : (s.wr r x).duty = s.duty := rfl
@[simp] theorem State.wr_dutyWant (s : State) (r : Reg) (x : W64) : (s.wr r x).dutyWant = s.dutyWant := rfl
@[simp] theorem State.wr_mboxFunc (s : State) (r : Reg) (x : W64) : (s.wr r x).mboxFunc = s.mboxFunc := rfl
@[simp] theorem State.wr_getRetry (s : State) (r : Reg) (x : W64) : (s.wr r x).getRetry = s.getRetry := rfl
@[simp] theorem State.wr_bpresLost (s : State) (r : Reg) (x : W64) : (s.wr r x).bpresLost = s.bpresLost := rfl
@[simp] theorem State.wr_slowBy (s : State) (r : Reg) (x : W64) : (s.wr r x).slowBy = s.slowBy := rfl
@[simp] theorem State.wr_numVfs (s : State) (r : Reg) (x : W64) : (s.wr r x).numVfs = s.numVfs := rfl
@[simp] theorem State.wr_vfEnable (s : State) (r : Reg) (x : W64) : (s.wr r x).vfEnable = s.vfEnable := rfl
@[simp] theorem State.wr_rings (s : State) (r : Reg) (x : W64) : (s.wr r x).rings = s.rings := rfl
@[simp] theorem State.wr_ringTurn (s : State) (r : Reg) (x : W64) : (s.wr r x).ringTurn = s.ringTurn := rfl
@[simp] theorem State.wr_shWin (s : State) (r : Reg) (x : W64) : (s.wr r x).shWin = s.shWin := rfl
@[simp] theorem State.wr_launches (s : State) (r : Reg) (x : W64) : (s.wr r x).launches = s.launches := rfl
@[simp] theorem State.wr_ops (s : State) (r : Reg) (x : W64) : (s.wr r x).ops = s.ops := rfl
@[simp] theorem State.wr_msixTab (s : State) (r : Reg) (x : W64) : (s.wr r x).msixTab = s.msixTab := rfl
@[simp] theorem State.wr_boot (s : State) (r : Reg) (x : W64) : (s.wr r x).boot = s.boot := rfl
@[simp] theorem State.wr_doms (s : State) (r : Reg) (x : W64) : (s.wr r x).doms = s.doms := rfl
@[simp] theorem State.wr_relaying (s : State) (r : Reg) (x : W64) : (s.wr r x).relaying = s.relaying := rfl
@[simp] theorem State.wr_sec (s : State) (r : Reg) (x : W64) : (s.wr r x).sec = s.sec := rfl
@[simp] theorem State.wr_pwr (s : State) (r : Reg) (x : W64) : (s.wr r x).pwr = s.pwr := rfl
@[simp] theorem State.wr_pcFailed (s : State) (r : Reg) (x : W64) : (s.wr r x).pcFailed = s.pcFailed := rfl
@[simp] theorem State.wr_lastSync (s : State) (r : Reg) (x : W64) : (s.wr r x).lastSync = s.lastSync := rfl
@[simp] theorem State.wr_stepped (s : State) (r : Reg) (x : W64) : (s.wr r x).stepped = s.stepped := rfl
@[simp] theorem State.wr_mgmtStatus (s : State) (r : Reg) (x : W64) : (s.wr r x).mgmtStatus = s.mgmtStatus := rfl
@[simp] theorem State.wr_tapStatus (s : State) (r : Reg) (x : W64) : (s.wr r x).tapStatus = s.tapStatus := rfl
@[simp] theorem State.wr_tapData (s : State) (r : Reg) (x : W64) : (s.wr r x).tapData = s.tapData := rfl
@[simp] theorem State.wr_tapUnlocked (s : State) (r : Reg) (x : W64) : (s.wr r x).tapUnlocked = s.tapUnlocked := rfl
@[simp] theorem State.wr_regOut (s : State) (r : Reg) (x : W64) : (s.wr r x).regOut = s.regOut := rfl
@[simp] theorem State.wr_bw (s : State) (r : Reg) (x : W64) : (s.wr r x).bw = s.bw := rfl
@[simp] theorem State.wr_dumpSeq (s : State) (r : Reg) (x : W64) : (s.wr r x).dumpSeq = s.dumpSeq := rfl
@[simp] theorem State.wr_free (s : State) (r : Reg) (x : W64) : (s.wr r x).free = s.free := rfl

@[simp] theorem State.put_pending (s : State) (r : Reg) (f : Fld) (n : Nat) : (s.put r f n).pending = s.pending := rfl
@[simp] theorem State.put_live (s : State) (r : Reg) (f : Fld) (n : Nat) : (s.put r f n).live = s.live := rfl
@[simp] theorem State.put_mem (s : State) (r : Reg) (f : Fld) (n : Nat) : (s.put r f n).mem = s.mem := rfl
@[simp] theorem State.put_poison (s : State) (r : Reg) (f : Fld) (n : Nat) : (s.put r f n).poison = s.poison := rfl
@[simp] theorem State.put_host (s : State) (r : Reg) (f : Fld) (n : Nat) : (s.put r f n).host = s.host := rfl
@[simp] theorem State.put_flash (s : State) (r : Reg) (f : Fld) (n : Nat) : (s.put r f n).flash = s.flash := rfl
@[simp] theorem State.put_sram (s : State) (r : Reg) (f : Fld) (n : Nat) : (s.put r f n).sram = s.sram := rfl
@[simp] theorem State.put_prog (s : State) (r : Reg) (f : Fld) (n : Nat) : (s.put r f n).prog = s.prog := rfl
@[simp] theorem State.put_curd (s : State) (r : Reg) (f : Fld) (n : Nat) : (s.put r f n).curd = s.curd := rfl
@[simp] theorem State.put_vats (s : State) (r : Reg) (f : Fld) (n : Nat) : (s.put r f n).vats = s.vats := rfl
@[simp] theorem State.put_dirty (s : State) (r : Reg) (f : Fld) (n : Nat) : (s.put r f n).dirty = s.dirty := rfl
@[simp] theorem State.put_withdrawn (s : State) (r : Reg) (f : Fld) (n : Nat) : (s.put r f n).withdrawn = s.withdrawn := rfl
@[simp] theorem State.put_claims (s : State) (r : Reg) (f : Fld) (n : Nat) : (s.put r f n).claims = s.claims := rfl
@[simp] theorem State.put_streams (s : State) (r : Reg) (f : Fld) (n : Nat) : (s.put r f n).streams = s.streams := rfl
@[simp] theorem State.put_tags (s : State) (r : Reg) (f : Fld) (n : Nat) : (s.put r f n).tags = s.tags := rfl
@[simp] theorem State.put_tagWait (s : State) (r : Reg) (f : Fld) (n : Nat) : (s.put r f n).tagWait = s.tagWait := rfl
@[simp] theorem State.put_tagTurn (s : State) (r : Reg) (f : Fld) (n : Nat) : (s.put r f n).tagTurn = s.tagTurn := rfl
@[simp] theorem State.put_dnet (s : State) (r : Reg) (f : Fld) (n : Nat) : (s.put r f n).dnet = s.dnet := rfl
@[simp] theorem State.put_gets (s : State) (r : Reg) (f : Fld) (n : Nat) : (s.put r f n).gets = s.gets := rfl
@[simp] theorem State.put_layout (s : State) (r : Reg) (f : Fld) (n : Nat) : (s.put r f n).layout = s.layout := rfl
@[simp] theorem State.put_msi (s : State) (r : Reg) (f : Fld) (n : Nat) : (s.put r f n).msi = s.msi := rfl
@[simp] theorem State.put_ports (s : State) (r : Reg) (f : Fld) (n : Nat) : (s.put r f n).ports = s.ports := rfl
@[simp] theorem State.put_breaks (s : State) (r : Reg) (f : Fld) (n : Nat) : (s.put r f n).breaks = s.breaks := rfl
@[simp] theorem State.put_sent (s : State) (r : Reg) (f : Fld) (n : Nat) : (s.put r f n).sent = s.sent := rfl
@[simp] theorem State.put_retired (s : State) (r : Reg) (f : Fld) (n : Nat) : (s.put r f n).retired = s.retired := rfl
@[simp] theorem State.put_geom (s : State) (r : Reg) (f : Fld) (n : Nat) : (s.put r f n).geom = s.geom := rfl
@[simp] theorem State.put_reqs (s : State) (r : Reg) (f : Fld) (n : Nat) : (s.put r f n).reqs = s.reqs := rfl
@[simp] theorem State.put_passes (s : State) (r : Reg) (f : Fld) (n : Nat) : (s.put r f n).passes = s.passes := rfl
@[simp] theorem State.put_packDue (s : State) (r : Reg) (f : Fld) (n : Nat) : (s.put r f n).packDue = s.packDue := rfl
@[simp] theorem State.put_closed (s : State) (r : Reg) (f : Fld) (n : Nat) : (s.put r f n).closed = s.closed := rfl
@[simp] theorem State.put_order (s : State) (r : Reg) (f : Fld) (n : Nat) : (s.put r f n).order = s.order := rfl
@[simp] theorem State.put_dests (s : State) (r : Reg) (f : Fld) (n : Nat) : (s.put r f n).dests = s.dests := rfl
@[simp] theorem State.put_pfcPaused (s : State) (r : Reg) (f : Fld) (n : Nat) : (s.put r f n).pfcPaused = s.pfcPaused := rfl
@[simp] theorem State.put_tenant (s : State) (r : Reg) (f : Fld) (n : Nat) : (s.put r f n).tenant = s.tenant := rfl
@[simp] theorem State.put_fills (s : State) (r : Reg) (f : Fld) (n : Nat) : (s.put r f n).fills = s.fills := rfl
@[simp] theorem State.put_budgetRem (s : State) (r : Reg) (f : Fld) (n : Nat) : (s.put r f n).budgetRem = s.budgetRem := rfl
@[simp] theorem State.put_duty (s : State) (r : Reg) (f : Fld) (n : Nat) : (s.put r f n).duty = s.duty := rfl
@[simp] theorem State.put_dutyWant (s : State) (r : Reg) (f : Fld) (n : Nat) : (s.put r f n).dutyWant = s.dutyWant := rfl
@[simp] theorem State.put_mboxFunc (s : State) (r : Reg) (f : Fld) (n : Nat) : (s.put r f n).mboxFunc = s.mboxFunc := rfl
@[simp] theorem State.put_getRetry (s : State) (r : Reg) (f : Fld) (n : Nat) : (s.put r f n).getRetry = s.getRetry := rfl
@[simp] theorem State.put_bpresLost (s : State) (r : Reg) (f : Fld) (n : Nat) : (s.put r f n).bpresLost = s.bpresLost := rfl
@[simp] theorem State.put_slowBy (s : State) (r : Reg) (f : Fld) (n : Nat) : (s.put r f n).slowBy = s.slowBy := rfl
@[simp] theorem State.put_numVfs (s : State) (r : Reg) (f : Fld) (n : Nat) : (s.put r f n).numVfs = s.numVfs := rfl
@[simp] theorem State.put_vfEnable (s : State) (r : Reg) (f : Fld) (n : Nat) : (s.put r f n).vfEnable = s.vfEnable := rfl
@[simp] theorem State.put_rings (s : State) (r : Reg) (f : Fld) (n : Nat) : (s.put r f n).rings = s.rings := rfl
@[simp] theorem State.put_ringTurn (s : State) (r : Reg) (f : Fld) (n : Nat) : (s.put r f n).ringTurn = s.ringTurn := rfl
@[simp] theorem State.put_shWin (s : State) (r : Reg) (f : Fld) (n : Nat) : (s.put r f n).shWin = s.shWin := rfl
@[simp] theorem State.put_launches (s : State) (r : Reg) (f : Fld) (n : Nat) : (s.put r f n).launches = s.launches := rfl
@[simp] theorem State.put_ops (s : State) (r : Reg) (f : Fld) (n : Nat) : (s.put r f n).ops = s.ops := rfl
@[simp] theorem State.put_msixTab (s : State) (r : Reg) (f : Fld) (n : Nat) : (s.put r f n).msixTab = s.msixTab := rfl
@[simp] theorem State.put_boot (s : State) (r : Reg) (f : Fld) (n : Nat) : (s.put r f n).boot = s.boot := rfl
@[simp] theorem State.put_doms (s : State) (r : Reg) (f : Fld) (n : Nat) : (s.put r f n).doms = s.doms := rfl
@[simp] theorem State.put_relaying (s : State) (r : Reg) (f : Fld) (n : Nat) : (s.put r f n).relaying = s.relaying := rfl
@[simp] theorem State.put_sec (s : State) (r : Reg) (f : Fld) (n : Nat) : (s.put r f n).sec = s.sec := rfl
@[simp] theorem State.put_pwr (s : State) (r : Reg) (f : Fld) (n : Nat) : (s.put r f n).pwr = s.pwr := rfl
@[simp] theorem State.put_pcFailed (s : State) (r : Reg) (f : Fld) (n : Nat) : (s.put r f n).pcFailed = s.pcFailed := rfl
@[simp] theorem State.put_lastSync (s : State) (r : Reg) (f : Fld) (n : Nat) : (s.put r f n).lastSync = s.lastSync := rfl
@[simp] theorem State.put_stepped (s : State) (r : Reg) (f : Fld) (n : Nat) : (s.put r f n).stepped = s.stepped := rfl
@[simp] theorem State.put_mgmtStatus (s : State) (r : Reg) (f : Fld) (n : Nat) : (s.put r f n).mgmtStatus = s.mgmtStatus := rfl
@[simp] theorem State.put_tapStatus (s : State) (r : Reg) (f : Fld) (n : Nat) : (s.put r f n).tapStatus = s.tapStatus := rfl
@[simp] theorem State.put_tapData (s : State) (r : Reg) (f : Fld) (n : Nat) : (s.put r f n).tapData = s.tapData := rfl
@[simp] theorem State.put_tapUnlocked (s : State) (r : Reg) (f : Fld) (n : Nat) : (s.put r f n).tapUnlocked = s.tapUnlocked := rfl
@[simp] theorem State.put_regOut (s : State) (r : Reg) (f : Fld) (n : Nat) : (s.put r f n).regOut = s.regOut := rfl
@[simp] theorem State.put_bw (s : State) (r : Reg) (f : Fld) (n : Nat) : (s.put r f n).bw = s.bw := rfl
@[simp] theorem State.put_dumpSeq (s : State) (r : Reg) (f : Fld) (n : Nat) : (s.put r f n).dumpSeq = s.dumpSeq := rfl
@[simp] theorem State.put_free (s : State) (r : Reg) (f : Fld) (n : Nat) : (s.put r f n).free = s.free := rfl

@[simp] theorem State.bump_pending (s : State) (r : Reg) (f : Fld) (n : Nat) : (s.bump r f n).pending = s.pending := rfl
@[simp] theorem State.bump_live (s : State) (r : Reg) (f : Fld) (n : Nat) : (s.bump r f n).live = s.live := rfl
@[simp] theorem State.bump_mem (s : State) (r : Reg) (f : Fld) (n : Nat) : (s.bump r f n).mem = s.mem := rfl
@[simp] theorem State.bump_poison (s : State) (r : Reg) (f : Fld) (n : Nat) : (s.bump r f n).poison = s.poison := rfl
@[simp] theorem State.bump_host (s : State) (r : Reg) (f : Fld) (n : Nat) : (s.bump r f n).host = s.host := rfl
@[simp] theorem State.bump_flash (s : State) (r : Reg) (f : Fld) (n : Nat) : (s.bump r f n).flash = s.flash := rfl
@[simp] theorem State.bump_sram (s : State) (r : Reg) (f : Fld) (n : Nat) : (s.bump r f n).sram = s.sram := rfl
@[simp] theorem State.bump_prog (s : State) (r : Reg) (f : Fld) (n : Nat) : (s.bump r f n).prog = s.prog := rfl
@[simp] theorem State.bump_curd (s : State) (r : Reg) (f : Fld) (n : Nat) : (s.bump r f n).curd = s.curd := rfl
@[simp] theorem State.bump_vats (s : State) (r : Reg) (f : Fld) (n : Nat) : (s.bump r f n).vats = s.vats := rfl
@[simp] theorem State.bump_dirty (s : State) (r : Reg) (f : Fld) (n : Nat) : (s.bump r f n).dirty = s.dirty := rfl
@[simp] theorem State.bump_withdrawn (s : State) (r : Reg) (f : Fld) (n : Nat) : (s.bump r f n).withdrawn = s.withdrawn := rfl
@[simp] theorem State.bump_claims (s : State) (r : Reg) (f : Fld) (n : Nat) : (s.bump r f n).claims = s.claims := rfl
@[simp] theorem State.bump_streams (s : State) (r : Reg) (f : Fld) (n : Nat) : (s.bump r f n).streams = s.streams := rfl
@[simp] theorem State.bump_tags (s : State) (r : Reg) (f : Fld) (n : Nat) : (s.bump r f n).tags = s.tags := rfl
@[simp] theorem State.bump_tagWait (s : State) (r : Reg) (f : Fld) (n : Nat) : (s.bump r f n).tagWait = s.tagWait := rfl
@[simp] theorem State.bump_tagTurn (s : State) (r : Reg) (f : Fld) (n : Nat) : (s.bump r f n).tagTurn = s.tagTurn := rfl
@[simp] theorem State.bump_dnet (s : State) (r : Reg) (f : Fld) (n : Nat) : (s.bump r f n).dnet = s.dnet := rfl
@[simp] theorem State.bump_gets (s : State) (r : Reg) (f : Fld) (n : Nat) : (s.bump r f n).gets = s.gets := rfl
@[simp] theorem State.bump_layout (s : State) (r : Reg) (f : Fld) (n : Nat) : (s.bump r f n).layout = s.layout := rfl
@[simp] theorem State.bump_msi (s : State) (r : Reg) (f : Fld) (n : Nat) : (s.bump r f n).msi = s.msi := rfl
@[simp] theorem State.bump_ports (s : State) (r : Reg) (f : Fld) (n : Nat) : (s.bump r f n).ports = s.ports := rfl
@[simp] theorem State.bump_breaks (s : State) (r : Reg) (f : Fld) (n : Nat) : (s.bump r f n).breaks = s.breaks := rfl
@[simp] theorem State.bump_sent (s : State) (r : Reg) (f : Fld) (n : Nat) : (s.bump r f n).sent = s.sent := rfl
@[simp] theorem State.bump_retired (s : State) (r : Reg) (f : Fld) (n : Nat) : (s.bump r f n).retired = s.retired := rfl
@[simp] theorem State.bump_geom (s : State) (r : Reg) (f : Fld) (n : Nat) : (s.bump r f n).geom = s.geom := rfl
@[simp] theorem State.bump_reqs (s : State) (r : Reg) (f : Fld) (n : Nat) : (s.bump r f n).reqs = s.reqs := rfl
@[simp] theorem State.bump_passes (s : State) (r : Reg) (f : Fld) (n : Nat) : (s.bump r f n).passes = s.passes := rfl
@[simp] theorem State.bump_packDue (s : State) (r : Reg) (f : Fld) (n : Nat) : (s.bump r f n).packDue = s.packDue := rfl
@[simp] theorem State.bump_closed (s : State) (r : Reg) (f : Fld) (n : Nat) : (s.bump r f n).closed = s.closed := rfl
@[simp] theorem State.bump_order (s : State) (r : Reg) (f : Fld) (n : Nat) : (s.bump r f n).order = s.order := rfl
@[simp] theorem State.bump_dests (s : State) (r : Reg) (f : Fld) (n : Nat) : (s.bump r f n).dests = s.dests := rfl
@[simp] theorem State.bump_pfcPaused (s : State) (r : Reg) (f : Fld) (n : Nat) : (s.bump r f n).pfcPaused = s.pfcPaused := rfl
@[simp] theorem State.bump_tenant (s : State) (r : Reg) (f : Fld) (n : Nat) : (s.bump r f n).tenant = s.tenant := rfl
@[simp] theorem State.bump_fills (s : State) (r : Reg) (f : Fld) (n : Nat) : (s.bump r f n).fills = s.fills := rfl
@[simp] theorem State.bump_budgetRem (s : State) (r : Reg) (f : Fld) (n : Nat) : (s.bump r f n).budgetRem = s.budgetRem := rfl
@[simp] theorem State.bump_duty (s : State) (r : Reg) (f : Fld) (n : Nat) : (s.bump r f n).duty = s.duty := rfl
@[simp] theorem State.bump_dutyWant (s : State) (r : Reg) (f : Fld) (n : Nat) : (s.bump r f n).dutyWant = s.dutyWant := rfl
@[simp] theorem State.bump_mboxFunc (s : State) (r : Reg) (f : Fld) (n : Nat) : (s.bump r f n).mboxFunc = s.mboxFunc := rfl
@[simp] theorem State.bump_getRetry (s : State) (r : Reg) (f : Fld) (n : Nat) : (s.bump r f n).getRetry = s.getRetry := rfl
@[simp] theorem State.bump_bpresLost (s : State) (r : Reg) (f : Fld) (n : Nat) : (s.bump r f n).bpresLost = s.bpresLost := rfl
@[simp] theorem State.bump_slowBy (s : State) (r : Reg) (f : Fld) (n : Nat) : (s.bump r f n).slowBy = s.slowBy := rfl
@[simp] theorem State.bump_numVfs (s : State) (r : Reg) (f : Fld) (n : Nat) : (s.bump r f n).numVfs = s.numVfs := rfl
@[simp] theorem State.bump_vfEnable (s : State) (r : Reg) (f : Fld) (n : Nat) : (s.bump r f n).vfEnable = s.vfEnable := rfl
@[simp] theorem State.bump_rings (s : State) (r : Reg) (f : Fld) (n : Nat) : (s.bump r f n).rings = s.rings := rfl
@[simp] theorem State.bump_ringTurn (s : State) (r : Reg) (f : Fld) (n : Nat) : (s.bump r f n).ringTurn = s.ringTurn := rfl
@[simp] theorem State.bump_shWin (s : State) (r : Reg) (f : Fld) (n : Nat) : (s.bump r f n).shWin = s.shWin := rfl
@[simp] theorem State.bump_launches (s : State) (r : Reg) (f : Fld) (n : Nat) : (s.bump r f n).launches = s.launches := rfl
@[simp] theorem State.bump_ops (s : State) (r : Reg) (f : Fld) (n : Nat) : (s.bump r f n).ops = s.ops := rfl
@[simp] theorem State.bump_msixTab (s : State) (r : Reg) (f : Fld) (n : Nat) : (s.bump r f n).msixTab = s.msixTab := rfl
@[simp] theorem State.bump_boot (s : State) (r : Reg) (f : Fld) (n : Nat) : (s.bump r f n).boot = s.boot := rfl
@[simp] theorem State.bump_doms (s : State) (r : Reg) (f : Fld) (n : Nat) : (s.bump r f n).doms = s.doms := rfl
@[simp] theorem State.bump_relaying (s : State) (r : Reg) (f : Fld) (n : Nat) : (s.bump r f n).relaying = s.relaying := rfl
@[simp] theorem State.bump_sec (s : State) (r : Reg) (f : Fld) (n : Nat) : (s.bump r f n).sec = s.sec := rfl
@[simp] theorem State.bump_pwr (s : State) (r : Reg) (f : Fld) (n : Nat) : (s.bump r f n).pwr = s.pwr := rfl
@[simp] theorem State.bump_pcFailed (s : State) (r : Reg) (f : Fld) (n : Nat) : (s.bump r f n).pcFailed = s.pcFailed := rfl
@[simp] theorem State.bump_lastSync (s : State) (r : Reg) (f : Fld) (n : Nat) : (s.bump r f n).lastSync = s.lastSync := rfl
@[simp] theorem State.bump_stepped (s : State) (r : Reg) (f : Fld) (n : Nat) : (s.bump r f n).stepped = s.stepped := rfl
@[simp] theorem State.bump_mgmtStatus (s : State) (r : Reg) (f : Fld) (n : Nat) : (s.bump r f n).mgmtStatus = s.mgmtStatus := rfl
@[simp] theorem State.bump_tapStatus (s : State) (r : Reg) (f : Fld) (n : Nat) : (s.bump r f n).tapStatus = s.tapStatus := rfl
@[simp] theorem State.bump_tapData (s : State) (r : Reg) (f : Fld) (n : Nat) : (s.bump r f n).tapData = s.tapData := rfl
@[simp] theorem State.bump_tapUnlocked (s : State) (r : Reg) (f : Fld) (n : Nat) : (s.bump r f n).tapUnlocked = s.tapUnlocked := rfl
@[simp] theorem State.bump_regOut (s : State) (r : Reg) (f : Fld) (n : Nat) : (s.bump r f n).regOut = s.regOut := rfl
@[simp] theorem State.bump_bw (s : State) (r : Reg) (f : Fld) (n : Nat) : (s.bump r f n).bw = s.bw := rfl
@[simp] theorem State.bump_dumpSeq (s : State) (r : Reg) (f : Fld) (n : Nat) : (s.bump r f n).dumpSeq = s.dumpSeq := rfl
@[simp] theorem State.bump_free (s : State) (r : Reg) (f : Fld) (n : Nat) : (s.bump r f n).free = s.free := rfl

@[simp] theorem State.apply_pending (s : State) (r : Reg) : (s.apply r).pending = s.pending := rfl
@[simp] theorem State.apply_regs (s : State) (r : Reg) : (s.apply r).regs = s.regs := rfl
@[simp] theorem State.apply_mem (s : State) (r : Reg) : (s.apply r).mem = s.mem := rfl
@[simp] theorem State.apply_poison (s : State) (r : Reg) : (s.apply r).poison = s.poison := rfl
@[simp] theorem State.apply_host (s : State) (r : Reg) : (s.apply r).host = s.host := rfl
@[simp] theorem State.apply_flash (s : State) (r : Reg) : (s.apply r).flash = s.flash := rfl
@[simp] theorem State.apply_sram (s : State) (r : Reg) : (s.apply r).sram = s.sram := rfl
@[simp] theorem State.apply_prog (s : State) (r : Reg) : (s.apply r).prog = s.prog := rfl
@[simp] theorem State.apply_curd (s : State) (r : Reg) : (s.apply r).curd = s.curd := rfl
@[simp] theorem State.apply_vats (s : State) (r : Reg) : (s.apply r).vats = s.vats := rfl
@[simp] theorem State.apply_dirty (s : State) (r : Reg) : (s.apply r).dirty = s.dirty := rfl
@[simp] theorem State.apply_withdrawn (s : State) (r : Reg) : (s.apply r).withdrawn = s.withdrawn := rfl
@[simp] theorem State.apply_claims (s : State) (r : Reg) : (s.apply r).claims = s.claims := rfl
@[simp] theorem State.apply_streams (s : State) (r : Reg) : (s.apply r).streams = s.streams := rfl
@[simp] theorem State.apply_tags (s : State) (r : Reg) : (s.apply r).tags = s.tags := rfl
@[simp] theorem State.apply_tagWait (s : State) (r : Reg) : (s.apply r).tagWait = s.tagWait := rfl
@[simp] theorem State.apply_tagTurn (s : State) (r : Reg) : (s.apply r).tagTurn = s.tagTurn := rfl
@[simp] theorem State.apply_dnet (s : State) (r : Reg) : (s.apply r).dnet = s.dnet := rfl
@[simp] theorem State.apply_gets (s : State) (r : Reg) : (s.apply r).gets = s.gets := rfl
@[simp] theorem State.apply_layout (s : State) (r : Reg) : (s.apply r).layout = s.layout := rfl
@[simp] theorem State.apply_msi (s : State) (r : Reg) : (s.apply r).msi = s.msi := rfl
@[simp] theorem State.apply_ports (s : State) (r : Reg) : (s.apply r).ports = s.ports := rfl
@[simp] theorem State.apply_breaks (s : State) (r : Reg) : (s.apply r).breaks = s.breaks := rfl
@[simp] theorem State.apply_sent (s : State) (r : Reg) : (s.apply r).sent = s.sent := rfl
@[simp] theorem State.apply_retired (s : State) (r : Reg) : (s.apply r).retired = s.retired := rfl
@[simp] theorem State.apply_geom (s : State) (r : Reg) : (s.apply r).geom = s.geom := rfl
@[simp] theorem State.apply_reqs (s : State) (r : Reg) : (s.apply r).reqs = s.reqs := rfl
@[simp] theorem State.apply_passes (s : State) (r : Reg) : (s.apply r).passes = s.passes := rfl
@[simp] theorem State.apply_packDue (s : State) (r : Reg) : (s.apply r).packDue = s.packDue := rfl
@[simp] theorem State.apply_closed (s : State) (r : Reg) : (s.apply r).closed = s.closed := rfl
@[simp] theorem State.apply_order (s : State) (r : Reg) : (s.apply r).order = s.order := rfl
@[simp] theorem State.apply_dests (s : State) (r : Reg) : (s.apply r).dests = s.dests := rfl
@[simp] theorem State.apply_pfcPaused (s : State) (r : Reg) : (s.apply r).pfcPaused = s.pfcPaused := rfl
@[simp] theorem State.apply_tenant (s : State) (r : Reg) : (s.apply r).tenant = s.tenant := rfl
@[simp] theorem State.apply_fills (s : State) (r : Reg) : (s.apply r).fills = s.fills := rfl
@[simp] theorem State.apply_budgetRem (s : State) (r : Reg) : (s.apply r).budgetRem = s.budgetRem := rfl
@[simp] theorem State.apply_duty (s : State) (r : Reg) : (s.apply r).duty = s.duty := rfl
@[simp] theorem State.apply_dutyWant (s : State) (r : Reg) : (s.apply r).dutyWant = s.dutyWant := rfl
@[simp] theorem State.apply_mboxFunc (s : State) (r : Reg) : (s.apply r).mboxFunc = s.mboxFunc := rfl
@[simp] theorem State.apply_getRetry (s : State) (r : Reg) : (s.apply r).getRetry = s.getRetry := rfl
@[simp] theorem State.apply_bpresLost (s : State) (r : Reg) : (s.apply r).bpresLost = s.bpresLost := rfl
@[simp] theorem State.apply_slowBy (s : State) (r : Reg) : (s.apply r).slowBy = s.slowBy := rfl
@[simp] theorem State.apply_numVfs (s : State) (r : Reg) : (s.apply r).numVfs = s.numVfs := rfl
@[simp] theorem State.apply_vfEnable (s : State) (r : Reg) : (s.apply r).vfEnable = s.vfEnable := rfl
@[simp] theorem State.apply_rings (s : State) (r : Reg) : (s.apply r).rings = s.rings := rfl
@[simp] theorem State.apply_ringTurn (s : State) (r : Reg) : (s.apply r).ringTurn = s.ringTurn := rfl
@[simp] theorem State.apply_shWin (s : State) (r : Reg) : (s.apply r).shWin = s.shWin := rfl
@[simp] theorem State.apply_launches (s : State) (r : Reg) : (s.apply r).launches = s.launches := rfl
@[simp] theorem State.apply_ops (s : State) (r : Reg) : (s.apply r).ops = s.ops := rfl
@[simp] theorem State.apply_msixTab (s : State) (r : Reg) : (s.apply r).msixTab = s.msixTab := rfl
@[simp] theorem State.apply_boot (s : State) (r : Reg) : (s.apply r).boot = s.boot := rfl
@[simp] theorem State.apply_doms (s : State) (r : Reg) : (s.apply r).doms = s.doms := rfl
@[simp] theorem State.apply_relaying (s : State) (r : Reg) : (s.apply r).relaying = s.relaying := rfl
@[simp] theorem State.apply_sec (s : State) (r : Reg) : (s.apply r).sec = s.sec := rfl
@[simp] theorem State.apply_pwr (s : State) (r : Reg) : (s.apply r).pwr = s.pwr := rfl
@[simp] theorem State.apply_pcFailed (s : State) (r : Reg) : (s.apply r).pcFailed = s.pcFailed := rfl
@[simp] theorem State.apply_lastSync (s : State) (r : Reg) : (s.apply r).lastSync = s.lastSync := rfl
@[simp] theorem State.apply_stepped (s : State) (r : Reg) : (s.apply r).stepped = s.stepped := rfl
@[simp] theorem State.apply_mgmtStatus (s : State) (r : Reg) : (s.apply r).mgmtStatus = s.mgmtStatus := rfl
@[simp] theorem State.apply_tapStatus (s : State) (r : Reg) : (s.apply r).tapStatus = s.tapStatus := rfl
@[simp] theorem State.apply_tapData (s : State) (r : Reg) : (s.apply r).tapData = s.tapData := rfl
@[simp] theorem State.apply_tapUnlocked (s : State) (r : Reg) : (s.apply r).tapUnlocked = s.tapUnlocked := rfl
@[simp] theorem State.apply_regOut (s : State) (r : Reg) : (s.apply r).regOut = s.regOut := rfl
@[simp] theorem State.apply_bw (s : State) (r : Reg) : (s.apply r).bw = s.bw := rfl
@[simp] theorem State.apply_dumpSeq (s : State) (r : Reg) : (s.apply r).dumpSeq = s.dumpSeq := rfl
@[simp] theorem State.apply_free (s : State) (r : Reg) : (s.apply r).free = s.free := rfl

@[simp] theorem State.setVat_pending (s : State) (v : Nat) (x : VatX) : (s.setVat v x).pending = s.pending := rfl
@[simp] theorem State.setVat_regs (s : State) (v : Nat) (x : VatX) : (s.setVat v x).regs = s.regs := rfl
@[simp] theorem State.setVat_live (s : State) (v : Nat) (x : VatX) : (s.setVat v x).live = s.live := rfl
@[simp] theorem State.setVat_mem (s : State) (v : Nat) (x : VatX) : (s.setVat v x).mem = s.mem := rfl
@[simp] theorem State.setVat_poison (s : State) (v : Nat) (x : VatX) : (s.setVat v x).poison = s.poison := rfl
@[simp] theorem State.setVat_host (s : State) (v : Nat) (x : VatX) : (s.setVat v x).host = s.host := rfl
@[simp] theorem State.setVat_flash (s : State) (v : Nat) (x : VatX) : (s.setVat v x).flash = s.flash := rfl
@[simp] theorem State.setVat_sram (s : State) (v : Nat) (x : VatX) : (s.setVat v x).sram = s.sram := rfl
@[simp] theorem State.setVat_prog (s : State) (v : Nat) (x : VatX) : (s.setVat v x).prog = s.prog := rfl
@[simp] theorem State.setVat_curd (s : State) (v : Nat) (x : VatX) : (s.setVat v x).curd = s.curd := rfl
@[simp] theorem State.setVat_dirty (s : State) (v : Nat) (x : VatX) : (s.setVat v x).dirty = s.dirty := rfl
@[simp] theorem State.setVat_withdrawn (s : State) (v : Nat) (x : VatX) : (s.setVat v x).withdrawn = s.withdrawn := rfl
@[simp] theorem State.setVat_claims (s : State) (v : Nat) (x : VatX) : (s.setVat v x).claims = s.claims := rfl
@[simp] theorem State.setVat_streams (s : State) (v : Nat) (x : VatX) : (s.setVat v x).streams = s.streams := rfl
@[simp] theorem State.setVat_tags (s : State) (v : Nat) (x : VatX) : (s.setVat v x).tags = s.tags := rfl
@[simp] theorem State.setVat_tagWait (s : State) (v : Nat) (x : VatX) : (s.setVat v x).tagWait = s.tagWait := rfl
@[simp] theorem State.setVat_tagTurn (s : State) (v : Nat) (x : VatX) : (s.setVat v x).tagTurn = s.tagTurn := rfl
@[simp] theorem State.setVat_dnet (s : State) (v : Nat) (x : VatX) : (s.setVat v x).dnet = s.dnet := rfl
@[simp] theorem State.setVat_gets (s : State) (v : Nat) (x : VatX) : (s.setVat v x).gets = s.gets := rfl
@[simp] theorem State.setVat_layout (s : State) (v : Nat) (x : VatX) : (s.setVat v x).layout = s.layout := rfl
@[simp] theorem State.setVat_msi (s : State) (v : Nat) (x : VatX) : (s.setVat v x).msi = s.msi := rfl
@[simp] theorem State.setVat_ports (s : State) (v : Nat) (x : VatX) : (s.setVat v x).ports = s.ports := rfl
@[simp] theorem State.setVat_breaks (s : State) (v : Nat) (x : VatX) : (s.setVat v x).breaks = s.breaks := rfl
@[simp] theorem State.setVat_sent (s : State) (v : Nat) (x : VatX) : (s.setVat v x).sent = s.sent := rfl
@[simp] theorem State.setVat_retired (s : State) (v : Nat) (x : VatX) : (s.setVat v x).retired = s.retired := rfl
@[simp] theorem State.setVat_geom (s : State) (v : Nat) (x : VatX) : (s.setVat v x).geom = s.geom := rfl
@[simp] theorem State.setVat_reqs (s : State) (v : Nat) (x : VatX) : (s.setVat v x).reqs = s.reqs := rfl
@[simp] theorem State.setVat_passes (s : State) (v : Nat) (x : VatX) : (s.setVat v x).passes = s.passes := rfl
@[simp] theorem State.setVat_packDue (s : State) (v : Nat) (x : VatX) : (s.setVat v x).packDue = s.packDue := rfl
@[simp] theorem State.setVat_closed (s : State) (v : Nat) (x : VatX) : (s.setVat v x).closed = s.closed := rfl
@[simp] theorem State.setVat_order (s : State) (v : Nat) (x : VatX) : (s.setVat v x).order = s.order := rfl
@[simp] theorem State.setVat_dests (s : State) (v : Nat) (x : VatX) : (s.setVat v x).dests = s.dests := rfl
@[simp] theorem State.setVat_pfcPaused (s : State) (v : Nat) (x : VatX) : (s.setVat v x).pfcPaused = s.pfcPaused := rfl
@[simp] theorem State.setVat_tenant (s : State) (v : Nat) (x : VatX) : (s.setVat v x).tenant = s.tenant := rfl
@[simp] theorem State.setVat_fills (s : State) (v : Nat) (x : VatX) : (s.setVat v x).fills = s.fills := rfl
@[simp] theorem State.setVat_budgetRem (s : State) (v : Nat) (x : VatX) : (s.setVat v x).budgetRem = s.budgetRem := rfl
@[simp] theorem State.setVat_duty (s : State) (v : Nat) (x : VatX) : (s.setVat v x).duty = s.duty := rfl
@[simp] theorem State.setVat_dutyWant (s : State) (v : Nat) (x : VatX) : (s.setVat v x).dutyWant = s.dutyWant := rfl
@[simp] theorem State.setVat_mboxFunc (s : State) (v : Nat) (x : VatX) : (s.setVat v x).mboxFunc = s.mboxFunc := rfl
@[simp] theorem State.setVat_getRetry (s : State) (v : Nat) (x : VatX) : (s.setVat v x).getRetry = s.getRetry := rfl
@[simp] theorem State.setVat_bpresLost (s : State) (v : Nat) (x : VatX) : (s.setVat v x).bpresLost = s.bpresLost := rfl
@[simp] theorem State.setVat_slowBy (s : State) (v : Nat) (x : VatX) : (s.setVat v x).slowBy = s.slowBy := rfl
@[simp] theorem State.setVat_numVfs (s : State) (v : Nat) (x : VatX) : (s.setVat v x).numVfs = s.numVfs := rfl
@[simp] theorem State.setVat_vfEnable (s : State) (v : Nat) (x : VatX) : (s.setVat v x).vfEnable = s.vfEnable := rfl
@[simp] theorem State.setVat_rings (s : State) (v : Nat) (x : VatX) : (s.setVat v x).rings = s.rings := rfl
@[simp] theorem State.setVat_ringTurn (s : State) (v : Nat) (x : VatX) : (s.setVat v x).ringTurn = s.ringTurn := rfl
@[simp] theorem State.setVat_shWin (s : State) (v : Nat) (x : VatX) : (s.setVat v x).shWin = s.shWin := rfl
@[simp] theorem State.setVat_launches (s : State) (v : Nat) (x : VatX) : (s.setVat v x).launches = s.launches := rfl
@[simp] theorem State.setVat_ops (s : State) (v : Nat) (x : VatX) : (s.setVat v x).ops = s.ops := rfl
@[simp] theorem State.setVat_msixTab (s : State) (v : Nat) (x : VatX) : (s.setVat v x).msixTab = s.msixTab := rfl
@[simp] theorem State.setVat_boot (s : State) (v : Nat) (x : VatX) : (s.setVat v x).boot = s.boot := rfl
@[simp] theorem State.setVat_doms (s : State) (v : Nat) (x : VatX) : (s.setVat v x).doms = s.doms := rfl
@[simp] theorem State.setVat_relaying (s : State) (v : Nat) (x : VatX) : (s.setVat v x).relaying = s.relaying := rfl
@[simp] theorem State.setVat_sec (s : State) (v : Nat) (x : VatX) : (s.setVat v x).sec = s.sec := rfl
@[simp] theorem State.setVat_pwr (s : State) (v : Nat) (x : VatX) : (s.setVat v x).pwr = s.pwr := rfl
@[simp] theorem State.setVat_pcFailed (s : State) (v : Nat) (x : VatX) : (s.setVat v x).pcFailed = s.pcFailed := rfl
@[simp] theorem State.setVat_lastSync (s : State) (v : Nat) (x : VatX) : (s.setVat v x).lastSync = s.lastSync := rfl
@[simp] theorem State.setVat_stepped (s : State) (v : Nat) (x : VatX) : (s.setVat v x).stepped = s.stepped := rfl
@[simp] theorem State.setVat_mgmtStatus (s : State) (v : Nat) (x : VatX) : (s.setVat v x).mgmtStatus = s.mgmtStatus := rfl
@[simp] theorem State.setVat_tapStatus (s : State) (v : Nat) (x : VatX) : (s.setVat v x).tapStatus = s.tapStatus := rfl
@[simp] theorem State.setVat_tapData (s : State) (v : Nat) (x : VatX) : (s.setVat v x).tapData = s.tapData := rfl
@[simp] theorem State.setVat_tapUnlocked (s : State) (v : Nat) (x : VatX) : (s.setVat v x).tapUnlocked = s.tapUnlocked := rfl
@[simp] theorem State.setVat_regOut (s : State) (v : Nat) (x : VatX) : (s.setVat v x).regOut = s.regOut := rfl
@[simp] theorem State.setVat_bw (s : State) (v : Nat) (x : VatX) : (s.setVat v x).bw = s.bw := rfl
@[simp] theorem State.setVat_dumpSeq (s : State) (v : Nat) (x : VatX) : (s.setVat v x).dumpSeq = s.dumpSeq := rfl
@[simp] theorem State.setVat_free (s : State) (v : Nat) (x : VatX) : (s.setVat v x).free = s.free := rfl

@[simp] theorem State.setStream_pending (s : State) (v i : Nat) (x : Stream) : (s.setStream v i x).pending = s.pending := rfl
@[simp] theorem State.setStream_regs (s : State) (v i : Nat) (x : Stream) : (s.setStream v i x).regs = s.regs := rfl
@[simp] theorem State.setStream_live (s : State) (v i : Nat) (x : Stream) : (s.setStream v i x).live = s.live := rfl
@[simp] theorem State.setStream_mem (s : State) (v i : Nat) (x : Stream) : (s.setStream v i x).mem = s.mem := rfl
@[simp] theorem State.setStream_poison (s : State) (v i : Nat) (x : Stream) : (s.setStream v i x).poison = s.poison := rfl
@[simp] theorem State.setStream_host (s : State) (v i : Nat) (x : Stream) : (s.setStream v i x).host = s.host := rfl
@[simp] theorem State.setStream_flash (s : State) (v i : Nat) (x : Stream) : (s.setStream v i x).flash = s.flash := rfl
@[simp] theorem State.setStream_sram (s : State) (v i : Nat) (x : Stream) : (s.setStream v i x).sram = s.sram := rfl
@[simp] theorem State.setStream_prog (s : State) (v i : Nat) (x : Stream) : (s.setStream v i x).prog = s.prog := rfl
@[simp] theorem State.setStream_curd (s : State) (v i : Nat) (x : Stream) : (s.setStream v i x).curd = s.curd := rfl
@[simp] theorem State.setStream_vats (s : State) (v i : Nat) (x : Stream) : (s.setStream v i x).vats = s.vats := rfl
@[simp] theorem State.setStream_dirty (s : State) (v i : Nat) (x : Stream) : (s.setStream v i x).dirty = s.dirty := rfl
@[simp] theorem State.setStream_withdrawn (s : State) (v i : Nat) (x : Stream) : (s.setStream v i x).withdrawn = s.withdrawn := rfl
@[simp] theorem State.setStream_claims (s : State) (v i : Nat) (x : Stream) : (s.setStream v i x).claims = s.claims := rfl
@[simp] theorem State.setStream_tags (s : State) (v i : Nat) (x : Stream) : (s.setStream v i x).tags = s.tags := rfl
@[simp] theorem State.setStream_tagWait (s : State) (v i : Nat) (x : Stream) : (s.setStream v i x).tagWait = s.tagWait := rfl
@[simp] theorem State.setStream_tagTurn (s : State) (v i : Nat) (x : Stream) : (s.setStream v i x).tagTurn = s.tagTurn := rfl
@[simp] theorem State.setStream_dnet (s : State) (v i : Nat) (x : Stream) : (s.setStream v i x).dnet = s.dnet := rfl
@[simp] theorem State.setStream_gets (s : State) (v i : Nat) (x : Stream) : (s.setStream v i x).gets = s.gets := rfl
@[simp] theorem State.setStream_layout (s : State) (v i : Nat) (x : Stream) : (s.setStream v i x).layout = s.layout := rfl
@[simp] theorem State.setStream_msi (s : State) (v i : Nat) (x : Stream) : (s.setStream v i x).msi = s.msi := rfl
@[simp] theorem State.setStream_ports (s : State) (v i : Nat) (x : Stream) : (s.setStream v i x).ports = s.ports := rfl
@[simp] theorem State.setStream_breaks (s : State) (v i : Nat) (x : Stream) : (s.setStream v i x).breaks = s.breaks := rfl
@[simp] theorem State.setStream_sent (s : State) (v i : Nat) (x : Stream) : (s.setStream v i x).sent = s.sent := rfl
@[simp] theorem State.setStream_retired (s : State) (v i : Nat) (x : Stream) : (s.setStream v i x).retired = s.retired := rfl
@[simp] theorem State.setStream_geom (s : State) (v i : Nat) (x : Stream) : (s.setStream v i x).geom = s.geom := rfl
@[simp] theorem State.setStream_reqs (s : State) (v i : Nat) (x : Stream) : (s.setStream v i x).reqs = s.reqs := rfl
@[simp] theorem State.setStream_passes (s : State) (v i : Nat) (x : Stream) : (s.setStream v i x).passes = s.passes := rfl
@[simp] theorem State.setStream_packDue (s : State) (v i : Nat) (x : Stream) : (s.setStream v i x).packDue = s.packDue := rfl
@[simp] theorem State.setStream_closed (s : State) (v i : Nat) (x : Stream) : (s.setStream v i x).closed = s.closed := rfl
@[simp] theorem State.setStream_order (s : State) (v i : Nat) (x : Stream) : (s.setStream v i x).order = s.order := rfl
@[simp] theorem State.setStream_dests (s : State) (v i : Nat) (x : Stream) : (s.setStream v i x).dests = s.dests := rfl
@[simp] theorem State.setStream_pfcPaused (s : State) (v i : Nat) (x : Stream) : (s.setStream v i x).pfcPaused = s.pfcPaused := rfl
@[simp] theorem State.setStream_tenant (s : State) (v i : Nat) (x : Stream) : (s.setStream v i x).tenant = s.tenant := rfl
@[simp] theorem State.setStream_fills (s : State) (v i : Nat) (x : Stream) : (s.setStream v i x).fills = s.fills := rfl
@[simp] theorem State.setStream_budgetRem (s : State) (v i : Nat) (x : Stream) : (s.setStream v i x).budgetRem = s.budgetRem := rfl
@[simp] theorem State.setStream_duty (s : State) (v i : Nat) (x : Stream) : (s.setStream v i x).duty = s.duty := rfl
@[simp] theorem State.setStream_dutyWant (s : State) (v i : Nat) (x : Stream) : (s.setStream v i x).dutyWant = s.dutyWant := rfl
@[simp] theorem State.setStream_mboxFunc (s : State) (v i : Nat) (x : Stream) : (s.setStream v i x).mboxFunc = s.mboxFunc := rfl
@[simp] theorem State.setStream_getRetry (s : State) (v i : Nat) (x : Stream) : (s.setStream v i x).getRetry = s.getRetry := rfl
@[simp] theorem State.setStream_bpresLost (s : State) (v i : Nat) (x : Stream) : (s.setStream v i x).bpresLost = s.bpresLost := rfl
@[simp] theorem State.setStream_slowBy (s : State) (v i : Nat) (x : Stream) : (s.setStream v i x).slowBy = s.slowBy := rfl
@[simp] theorem State.setStream_numVfs (s : State) (v i : Nat) (x : Stream) : (s.setStream v i x).numVfs = s.numVfs := rfl
@[simp] theorem State.setStream_vfEnable (s : State) (v i : Nat) (x : Stream) : (s.setStream v i x).vfEnable = s.vfEnable := rfl
@[simp] theorem State.setStream_rings (s : State) (v i : Nat) (x : Stream) : (s.setStream v i x).rings = s.rings := rfl
@[simp] theorem State.setStream_ringTurn (s : State) (v i : Nat) (x : Stream) : (s.setStream v i x).ringTurn = s.ringTurn := rfl
@[simp] theorem State.setStream_shWin (s : State) (v i : Nat) (x : Stream) : (s.setStream v i x).shWin = s.shWin := rfl
@[simp] theorem State.setStream_launches (s : State) (v i : Nat) (x : Stream) : (s.setStream v i x).launches = s.launches := rfl
@[simp] theorem State.setStream_ops (s : State) (v i : Nat) (x : Stream) : (s.setStream v i x).ops = s.ops := rfl
@[simp] theorem State.setStream_msixTab (s : State) (v i : Nat) (x : Stream) : (s.setStream v i x).msixTab = s.msixTab := rfl
@[simp] theorem State.setStream_boot (s : State) (v i : Nat) (x : Stream) : (s.setStream v i x).boot = s.boot := rfl
@[simp] theorem State.setStream_doms (s : State) (v i : Nat) (x : Stream) : (s.setStream v i x).doms = s.doms := rfl
@[simp] theorem State.setStream_relaying (s : State) (v i : Nat) (x : Stream) : (s.setStream v i x).relaying = s.relaying := rfl
@[simp] theorem State.setStream_sec (s : State) (v i : Nat) (x : Stream) : (s.setStream v i x).sec = s.sec := rfl
@[simp] theorem State.setStream_pwr (s : State) (v i : Nat) (x : Stream) : (s.setStream v i x).pwr = s.pwr := rfl
@[simp] theorem State.setStream_pcFailed (s : State) (v i : Nat) (x : Stream) : (s.setStream v i x).pcFailed = s.pcFailed := rfl
@[simp] theorem State.setStream_lastSync (s : State) (v i : Nat) (x : Stream) : (s.setStream v i x).lastSync = s.lastSync := rfl
@[simp] theorem State.setStream_stepped (s : State) (v i : Nat) (x : Stream) : (s.setStream v i x).stepped = s.stepped := rfl
@[simp] theorem State.setStream_mgmtStatus (s : State) (v i : Nat) (x : Stream) : (s.setStream v i x).mgmtStatus = s.mgmtStatus := rfl
@[simp] theorem State.setStream_tapStatus (s : State) (v i : Nat) (x : Stream) : (s.setStream v i x).tapStatus = s.tapStatus := rfl
@[simp] theorem State.setStream_tapData (s : State) (v i : Nat) (x : Stream) : (s.setStream v i x).tapData = s.tapData := rfl
@[simp] theorem State.setStream_tapUnlocked (s : State) (v i : Nat) (x : Stream) : (s.setStream v i x).tapUnlocked = s.tapUnlocked := rfl
@[simp] theorem State.setStream_regOut (s : State) (v i : Nat) (x : Stream) : (s.setStream v i x).regOut = s.regOut := rfl
@[simp] theorem State.setStream_bw (s : State) (v i : Nat) (x : Stream) : (s.setStream v i x).bw = s.bw := rfl
@[simp] theorem State.setStream_dumpSeq (s : State) (v i : Nat) (x : Stream) : (s.setStream v i x).dumpSeq = s.dumpSeq := rfl
@[simp] theorem State.setStream_free (s : State) (v i : Nat) (x : Stream) : (s.setStream v i x).free = s.free := rfl

@[simp] theorem State.setBytes_pending (s : State) (a : Nat) (bs : List Byte) : (s.setBytes a bs).pending = s.pending := rfl
@[simp] theorem State.setBytes_regs (s : State) (a : Nat) (bs : List Byte) : (s.setBytes a bs).regs = s.regs := rfl
@[simp] theorem State.setBytes_live (s : State) (a : Nat) (bs : List Byte) : (s.setBytes a bs).live = s.live := rfl
@[simp] theorem State.setBytes_poison (s : State) (a : Nat) (bs : List Byte) : (s.setBytes a bs).poison = s.poison := rfl
@[simp] theorem State.setBytes_host (s : State) (a : Nat) (bs : List Byte) : (s.setBytes a bs).host = s.host := rfl
@[simp] theorem State.setBytes_flash (s : State) (a : Nat) (bs : List Byte) : (s.setBytes a bs).flash = s.flash := rfl
@[simp] theorem State.setBytes_sram (s : State) (a : Nat) (bs : List Byte) : (s.setBytes a bs).sram = s.sram := rfl
@[simp] theorem State.setBytes_prog (s : State) (a : Nat) (bs : List Byte) : (s.setBytes a bs).prog = s.prog := rfl
@[simp] theorem State.setBytes_curd (s : State) (a : Nat) (bs : List Byte) : (s.setBytes a bs).curd = s.curd := rfl
@[simp] theorem State.setBytes_vats (s : State) (a : Nat) (bs : List Byte) : (s.setBytes a bs).vats = s.vats := rfl
@[simp] theorem State.setBytes_dirty (s : State) (a : Nat) (bs : List Byte) : (s.setBytes a bs).dirty = s.dirty := rfl
@[simp] theorem State.setBytes_withdrawn (s : State) (a : Nat) (bs : List Byte) : (s.setBytes a bs).withdrawn = s.withdrawn := rfl
@[simp] theorem State.setBytes_claims (s : State) (a : Nat) (bs : List Byte) : (s.setBytes a bs).claims = s.claims := rfl
@[simp] theorem State.setBytes_streams (s : State) (a : Nat) (bs : List Byte) : (s.setBytes a bs).streams = s.streams := rfl
@[simp] theorem State.setBytes_tags (s : State) (a : Nat) (bs : List Byte) : (s.setBytes a bs).tags = s.tags := rfl
@[simp] theorem State.setBytes_tagWait (s : State) (a : Nat) (bs : List Byte) : (s.setBytes a bs).tagWait = s.tagWait := rfl
@[simp] theorem State.setBytes_tagTurn (s : State) (a : Nat) (bs : List Byte) : (s.setBytes a bs).tagTurn = s.tagTurn := rfl
@[simp] theorem State.setBytes_dnet (s : State) (a : Nat) (bs : List Byte) : (s.setBytes a bs).dnet = s.dnet := rfl
@[simp] theorem State.setBytes_gets (s : State) (a : Nat) (bs : List Byte) : (s.setBytes a bs).gets = s.gets := rfl
@[simp] theorem State.setBytes_layout (s : State) (a : Nat) (bs : List Byte) : (s.setBytes a bs).layout = s.layout := rfl
@[simp] theorem State.setBytes_msi (s : State) (a : Nat) (bs : List Byte) : (s.setBytes a bs).msi = s.msi := rfl
@[simp] theorem State.setBytes_ports (s : State) (a : Nat) (bs : List Byte) : (s.setBytes a bs).ports = s.ports := rfl
@[simp] theorem State.setBytes_breaks (s : State) (a : Nat) (bs : List Byte) : (s.setBytes a bs).breaks = s.breaks := rfl
@[simp] theorem State.setBytes_sent (s : State) (a : Nat) (bs : List Byte) : (s.setBytes a bs).sent = s.sent := rfl
@[simp] theorem State.setBytes_retired (s : State) (a : Nat) (bs : List Byte) : (s.setBytes a bs).retired = s.retired := rfl
@[simp] theorem State.setBytes_geom (s : State) (a : Nat) (bs : List Byte) : (s.setBytes a bs).geom = s.geom := rfl
@[simp] theorem State.setBytes_reqs (s : State) (a : Nat) (bs : List Byte) : (s.setBytes a bs).reqs = s.reqs := rfl
@[simp] theorem State.setBytes_passes (s : State) (a : Nat) (bs : List Byte) : (s.setBytes a bs).passes = s.passes := rfl
@[simp] theorem State.setBytes_packDue (s : State) (a : Nat) (bs : List Byte) : (s.setBytes a bs).packDue = s.packDue := rfl
@[simp] theorem State.setBytes_closed (s : State) (a : Nat) (bs : List Byte) : (s.setBytes a bs).closed = s.closed := rfl
@[simp] theorem State.setBytes_order (s : State) (a : Nat) (bs : List Byte) : (s.setBytes a bs).order = s.order := rfl
@[simp] theorem State.setBytes_dests (s : State) (a : Nat) (bs : List Byte) : (s.setBytes a bs).dests = s.dests := rfl
@[simp] theorem State.setBytes_pfcPaused (s : State) (a : Nat) (bs : List Byte) : (s.setBytes a bs).pfcPaused = s.pfcPaused := rfl
@[simp] theorem State.setBytes_tenant (s : State) (a : Nat) (bs : List Byte) : (s.setBytes a bs).tenant = s.tenant := rfl
@[simp] theorem State.setBytes_fills (s : State) (a : Nat) (bs : List Byte) : (s.setBytes a bs).fills = s.fills := rfl
@[simp] theorem State.setBytes_budgetRem (s : State) (a : Nat) (bs : List Byte) : (s.setBytes a bs).budgetRem = s.budgetRem := rfl
@[simp] theorem State.setBytes_duty (s : State) (a : Nat) (bs : List Byte) : (s.setBytes a bs).duty = s.duty := rfl
@[simp] theorem State.setBytes_dutyWant (s : State) (a : Nat) (bs : List Byte) : (s.setBytes a bs).dutyWant = s.dutyWant := rfl
@[simp] theorem State.setBytes_mboxFunc (s : State) (a : Nat) (bs : List Byte) : (s.setBytes a bs).mboxFunc = s.mboxFunc := rfl
@[simp] theorem State.setBytes_getRetry (s : State) (a : Nat) (bs : List Byte) : (s.setBytes a bs).getRetry = s.getRetry := rfl
@[simp] theorem State.setBytes_bpresLost (s : State) (a : Nat) (bs : List Byte) : (s.setBytes a bs).bpresLost = s.bpresLost := rfl
@[simp] theorem State.setBytes_slowBy (s : State) (a : Nat) (bs : List Byte) : (s.setBytes a bs).slowBy = s.slowBy := rfl
@[simp] theorem State.setBytes_numVfs (s : State) (a : Nat) (bs : List Byte) : (s.setBytes a bs).numVfs = s.numVfs := rfl
@[simp] theorem State.setBytes_vfEnable (s : State) (a : Nat) (bs : List Byte) : (s.setBytes a bs).vfEnable = s.vfEnable := rfl
@[simp] theorem State.setBytes_rings (s : State) (a : Nat) (bs : List Byte) : (s.setBytes a bs).rings = s.rings := rfl
@[simp] theorem State.setBytes_ringTurn (s : State) (a : Nat) (bs : List Byte) : (s.setBytes a bs).ringTurn = s.ringTurn := rfl
@[simp] theorem State.setBytes_shWin (s : State) (a : Nat) (bs : List Byte) : (s.setBytes a bs).shWin = s.shWin := rfl
@[simp] theorem State.setBytes_launches (s : State) (a : Nat) (bs : List Byte) : (s.setBytes a bs).launches = s.launches := rfl
@[simp] theorem State.setBytes_ops (s : State) (a : Nat) (bs : List Byte) : (s.setBytes a bs).ops = s.ops := rfl
@[simp] theorem State.setBytes_msixTab (s : State) (a : Nat) (bs : List Byte) : (s.setBytes a bs).msixTab = s.msixTab := rfl
@[simp] theorem State.setBytes_boot (s : State) (a : Nat) (bs : List Byte) : (s.setBytes a bs).boot = s.boot := rfl
@[simp] theorem State.setBytes_doms (s : State) (a : Nat) (bs : List Byte) : (s.setBytes a bs).doms = s.doms := rfl
@[simp] theorem State.setBytes_relaying (s : State) (a : Nat) (bs : List Byte) : (s.setBytes a bs).relaying = s.relaying := rfl
@[simp] theorem State.setBytes_sec (s : State) (a : Nat) (bs : List Byte) : (s.setBytes a bs).sec = s.sec := rfl
@[simp] theorem State.setBytes_pwr (s : State) (a : Nat) (bs : List Byte) : (s.setBytes a bs).pwr = s.pwr := rfl
@[simp] theorem State.setBytes_pcFailed (s : State) (a : Nat) (bs : List Byte) : (s.setBytes a bs).pcFailed = s.pcFailed := rfl
@[simp] theorem State.setBytes_lastSync (s : State) (a : Nat) (bs : List Byte) : (s.setBytes a bs).lastSync = s.lastSync := rfl
@[simp] theorem State.setBytes_stepped (s : State) (a : Nat) (bs : List Byte) : (s.setBytes a bs).stepped = s.stepped := rfl
@[simp] theorem State.setBytes_mgmtStatus (s : State) (a : Nat) (bs : List Byte) : (s.setBytes a bs).mgmtStatus = s.mgmtStatus := rfl
@[simp] theorem State.setBytes_tapStatus (s : State) (a : Nat) (bs : List Byte) : (s.setBytes a bs).tapStatus = s.tapStatus := rfl
@[simp] theorem State.setBytes_tapData (s : State) (a : Nat) (bs : List Byte) : (s.setBytes a bs).tapData = s.tapData := rfl
@[simp] theorem State.setBytes_tapUnlocked (s : State) (a : Nat) (bs : List Byte) : (s.setBytes a bs).tapUnlocked = s.tapUnlocked := rfl
@[simp] theorem State.setBytes_regOut (s : State) (a : Nat) (bs : List Byte) : (s.setBytes a bs).regOut = s.regOut := rfl
@[simp] theorem State.setBytes_bw (s : State) (a : Nat) (bs : List Byte) : (s.setBytes a bs).bw = s.bw := rfl
@[simp] theorem State.setBytes_dumpSeq (s : State) (a : Nat) (bs : List Byte) : (s.setBytes a bs).dumpSeq = s.dumpSeq := rfl
@[simp] theorem State.setBytes_free (s : State) (a : Nat) (bs : List Byte) : (s.setBytes a bs).free = s.free := rfl

@[simp] theorem State.setHost_pending (s : State) (a : Nat) (bs : List Byte) : (s.setHost a bs).pending = s.pending := rfl
@[simp] theorem State.setHost_regs (s : State) (a : Nat) (bs : List Byte) : (s.setHost a bs).regs = s.regs := rfl
@[simp] theorem State.setHost_live (s : State) (a : Nat) (bs : List Byte) : (s.setHost a bs).live = s.live := rfl
@[simp] theorem State.setHost_mem (s : State) (a : Nat) (bs : List Byte) : (s.setHost a bs).mem = s.mem := rfl
@[simp] theorem State.setHost_poison (s : State) (a : Nat) (bs : List Byte) : (s.setHost a bs).poison = s.poison := rfl
@[simp] theorem State.setHost_flash (s : State) (a : Nat) (bs : List Byte) : (s.setHost a bs).flash = s.flash := rfl
@[simp] theorem State.setHost_sram (s : State) (a : Nat) (bs : List Byte) : (s.setHost a bs).sram = s.sram := rfl
@[simp] theorem State.setHost_prog (s : State) (a : Nat) (bs : List Byte) : (s.setHost a bs).prog = s.prog := rfl
@[simp] theorem State.setHost_curd (s : State) (a : Nat) (bs : List Byte) : (s.setHost a bs).curd = s.curd := rfl
@[simp] theorem State.setHost_vats (s : State) (a : Nat) (bs : List Byte) : (s.setHost a bs).vats = s.vats := rfl
@[simp] theorem State.setHost_dirty (s : State) (a : Nat) (bs : List Byte) : (s.setHost a bs).dirty = s.dirty := rfl
@[simp] theorem State.setHost_withdrawn (s : State) (a : Nat) (bs : List Byte) : (s.setHost a bs).withdrawn = s.withdrawn := rfl
@[simp] theorem State.setHost_claims (s : State) (a : Nat) (bs : List Byte) : (s.setHost a bs).claims = s.claims := rfl
@[simp] theorem State.setHost_streams (s : State) (a : Nat) (bs : List Byte) : (s.setHost a bs).streams = s.streams := rfl
@[simp] theorem State.setHost_tags (s : State) (a : Nat) (bs : List Byte) : (s.setHost a bs).tags = s.tags := rfl
@[simp] theorem State.setHost_tagWait (s : State) (a : Nat) (bs : List Byte) : (s.setHost a bs).tagWait = s.tagWait := rfl
@[simp] theorem State.setHost_tagTurn (s : State) (a : Nat) (bs : List Byte) : (s.setHost a bs).tagTurn = s.tagTurn := rfl
@[simp] theorem State.setHost_dnet (s : State) (a : Nat) (bs : List Byte) : (s.setHost a bs).dnet = s.dnet := rfl
@[simp] theorem State.setHost_gets (s : State) (a : Nat) (bs : List Byte) : (s.setHost a bs).gets = s.gets := rfl
@[simp] theorem State.setHost_layout (s : State) (a : Nat) (bs : List Byte) : (s.setHost a bs).layout = s.layout := rfl
@[simp] theorem State.setHost_msi (s : State) (a : Nat) (bs : List Byte) : (s.setHost a bs).msi = s.msi := rfl
@[simp] theorem State.setHost_ports (s : State) (a : Nat) (bs : List Byte) : (s.setHost a bs).ports = s.ports := rfl
@[simp] theorem State.setHost_breaks (s : State) (a : Nat) (bs : List Byte) : (s.setHost a bs).breaks = s.breaks := rfl
@[simp] theorem State.setHost_sent (s : State) (a : Nat) (bs : List Byte) : (s.setHost a bs).sent = s.sent := rfl
@[simp] theorem State.setHost_retired (s : State) (a : Nat) (bs : List Byte) : (s.setHost a bs).retired = s.retired := rfl
@[simp] theorem State.setHost_geom (s : State) (a : Nat) (bs : List Byte) : (s.setHost a bs).geom = s.geom := rfl
@[simp] theorem State.setHost_reqs (s : State) (a : Nat) (bs : List Byte) : (s.setHost a bs).reqs = s.reqs := rfl
@[simp] theorem State.setHost_passes (s : State) (a : Nat) (bs : List Byte) : (s.setHost a bs).passes = s.passes := rfl
@[simp] theorem State.setHost_packDue (s : State) (a : Nat) (bs : List Byte) : (s.setHost a bs).packDue = s.packDue := rfl
@[simp] theorem State.setHost_closed (s : State) (a : Nat) (bs : List Byte) : (s.setHost a bs).closed = s.closed := rfl
@[simp] theorem State.setHost_order (s : State) (a : Nat) (bs : List Byte) : (s.setHost a bs).order = s.order := rfl
@[simp] theorem State.setHost_dests (s : State) (a : Nat) (bs : List Byte) : (s.setHost a bs).dests = s.dests := rfl
@[simp] theorem State.setHost_pfcPaused (s : State) (a : Nat) (bs : List Byte) : (s.setHost a bs).pfcPaused = s.pfcPaused := rfl
@[simp] theorem State.setHost_tenant (s : State) (a : Nat) (bs : List Byte) : (s.setHost a bs).tenant = s.tenant := rfl
@[simp] theorem State.setHost_fills (s : State) (a : Nat) (bs : List Byte) : (s.setHost a bs).fills = s.fills := rfl
@[simp] theorem State.setHost_budgetRem (s : State) (a : Nat) (bs : List Byte) : (s.setHost a bs).budgetRem = s.budgetRem := rfl
@[simp] theorem State.setHost_duty (s : State) (a : Nat) (bs : List Byte) : (s.setHost a bs).duty = s.duty := rfl
@[simp] theorem State.setHost_dutyWant (s : State) (a : Nat) (bs : List Byte) : (s.setHost a bs).dutyWant = s.dutyWant := rfl
@[simp] theorem State.setHost_mboxFunc (s : State) (a : Nat) (bs : List Byte) : (s.setHost a bs).mboxFunc = s.mboxFunc := rfl
@[simp] theorem State.setHost_getRetry (s : State) (a : Nat) (bs : List Byte) : (s.setHost a bs).getRetry = s.getRetry := rfl
@[simp] theorem State.setHost_bpresLost (s : State) (a : Nat) (bs : List Byte) : (s.setHost a bs).bpresLost = s.bpresLost := rfl
@[simp] theorem State.setHost_slowBy (s : State) (a : Nat) (bs : List Byte) : (s.setHost a bs).slowBy = s.slowBy := rfl
@[simp] theorem State.setHost_numVfs (s : State) (a : Nat) (bs : List Byte) : (s.setHost a bs).numVfs = s.numVfs := rfl
@[simp] theorem State.setHost_vfEnable (s : State) (a : Nat) (bs : List Byte) : (s.setHost a bs).vfEnable = s.vfEnable := rfl
@[simp] theorem State.setHost_rings (s : State) (a : Nat) (bs : List Byte) : (s.setHost a bs).rings = s.rings := rfl
@[simp] theorem State.setHost_ringTurn (s : State) (a : Nat) (bs : List Byte) : (s.setHost a bs).ringTurn = s.ringTurn := rfl
@[simp] theorem State.setHost_shWin (s : State) (a : Nat) (bs : List Byte) : (s.setHost a bs).shWin = s.shWin := rfl
@[simp] theorem State.setHost_launches (s : State) (a : Nat) (bs : List Byte) : (s.setHost a bs).launches = s.launches := rfl
@[simp] theorem State.setHost_ops (s : State) (a : Nat) (bs : List Byte) : (s.setHost a bs).ops = s.ops := rfl
@[simp] theorem State.setHost_msixTab (s : State) (a : Nat) (bs : List Byte) : (s.setHost a bs).msixTab = s.msixTab := rfl
@[simp] theorem State.setHost_boot (s : State) (a : Nat) (bs : List Byte) : (s.setHost a bs).boot = s.boot := rfl
@[simp] theorem State.setHost_doms (s : State) (a : Nat) (bs : List Byte) : (s.setHost a bs).doms = s.doms := rfl
@[simp] theorem State.setHost_relaying (s : State) (a : Nat) (bs : List Byte) : (s.setHost a bs).relaying = s.relaying := rfl
@[simp] theorem State.setHost_sec (s : State) (a : Nat) (bs : List Byte) : (s.setHost a bs).sec = s.sec := rfl
@[simp] theorem State.setHost_pwr (s : State) (a : Nat) (bs : List Byte) : (s.setHost a bs).pwr = s.pwr := rfl
@[simp] theorem State.setHost_pcFailed (s : State) (a : Nat) (bs : List Byte) : (s.setHost a bs).pcFailed = s.pcFailed := rfl
@[simp] theorem State.setHost_lastSync (s : State) (a : Nat) (bs : List Byte) : (s.setHost a bs).lastSync = s.lastSync := rfl
@[simp] theorem State.setHost_stepped (s : State) (a : Nat) (bs : List Byte) : (s.setHost a bs).stepped = s.stepped := rfl
@[simp] theorem State.setHost_mgmtStatus (s : State) (a : Nat) (bs : List Byte) : (s.setHost a bs).mgmtStatus = s.mgmtStatus := rfl
@[simp] theorem State.setHost_tapStatus (s : State) (a : Nat) (bs : List Byte) : (s.setHost a bs).tapStatus = s.tapStatus := rfl
@[simp] theorem State.setHost_tapData (s : State) (a : Nat) (bs : List Byte) : (s.setHost a bs).tapData = s.tapData := rfl
@[simp] theorem State.setHost_tapUnlocked (s : State) (a : Nat) (bs : List Byte) : (s.setHost a bs).tapUnlocked = s.tapUnlocked := rfl
@[simp] theorem State.setHost_regOut (s : State) (a : Nat) (bs : List Byte) : (s.setHost a bs).regOut = s.regOut := rfl
@[simp] theorem State.setHost_bw (s : State) (a : Nat) (bs : List Byte) : (s.setHost a bs).bw = s.bw := rfl
@[simp] theorem State.setHost_dumpSeq (s : State) (a : Nat) (bs : List Byte) : (s.setHost a bs).dumpSeq = s.dumpSeq := rfl
@[simp] theorem State.setHost_free (s : State) (a : Nat) (bs : List Byte) : (s.setHost a bs).free = s.free := rfl

@[simp] theorem State.setPoison_pending (s : State) (a n : Nat) (b : Bool) : (s.setPoison a n b).pending = s.pending := rfl
@[simp] theorem State.setPoison_regs (s : State) (a n : Nat) (b : Bool) : (s.setPoison a n b).regs = s.regs := rfl
@[simp] theorem State.setPoison_live (s : State) (a n : Nat) (b : Bool) : (s.setPoison a n b).live = s.live := rfl
@[simp] theorem State.setPoison_mem (s : State) (a n : Nat) (b : Bool) : (s.setPoison a n b).mem = s.mem := rfl
@[simp] theorem State.setPoison_host (s : State) (a n : Nat) (b : Bool) : (s.setPoison a n b).host = s.host := rfl
@[simp] theorem State.setPoison_flash (s : State) (a n : Nat) (b : Bool) : (s.setPoison a n b).flash = s.flash := rfl
@[simp] theorem State.setPoison_sram (s : State) (a n : Nat) (b : Bool) : (s.setPoison a n b).sram = s.sram := rfl
@[simp] theorem State.setPoison_prog (s : State) (a n : Nat) (b : Bool) : (s.setPoison a n b).prog = s.prog := rfl
@[simp] theorem State.setPoison_curd (s : State) (a n : Nat) (b : Bool) : (s.setPoison a n b).curd = s.curd := rfl
@[simp] theorem State.setPoison_vats (s : State) (a n : Nat) (b : Bool) : (s.setPoison a n b).vats = s.vats := rfl
@[simp] theorem State.setPoison_dirty (s : State) (a n : Nat) (b : Bool) : (s.setPoison a n b).dirty = s.dirty := rfl
@[simp] theorem State.setPoison_withdrawn (s : State) (a n : Nat) (b : Bool) : (s.setPoison a n b).withdrawn = s.withdrawn := rfl
@[simp] theorem State.setPoison_claims (s : State) (a n : Nat) (b : Bool) : (s.setPoison a n b).claims = s.claims := rfl
@[simp] theorem State.setPoison_streams (s : State) (a n : Nat) (b : Bool) : (s.setPoison a n b).streams = s.streams := rfl
@[simp] theorem State.setPoison_tags (s : State) (a n : Nat) (b : Bool) : (s.setPoison a n b).tags = s.tags := rfl
@[simp] theorem State.setPoison_tagWait (s : State) (a n : Nat) (b : Bool) : (s.setPoison a n b).tagWait = s.tagWait := rfl
@[simp] theorem State.setPoison_tagTurn (s : State) (a n : Nat) (b : Bool) : (s.setPoison a n b).tagTurn = s.tagTurn := rfl
@[simp] theorem State.setPoison_dnet (s : State) (a n : Nat) (b : Bool) : (s.setPoison a n b).dnet = s.dnet := rfl
@[simp] theorem State.setPoison_gets (s : State) (a n : Nat) (b : Bool) : (s.setPoison a n b).gets = s.gets := rfl
@[simp] theorem State.setPoison_layout (s : State) (a n : Nat) (b : Bool) : (s.setPoison a n b).layout = s.layout := rfl
@[simp] theorem State.setPoison_msi (s : State) (a n : Nat) (b : Bool) : (s.setPoison a n b).msi = s.msi := rfl
@[simp] theorem State.setPoison_ports (s : State) (a n : Nat) (b : Bool) : (s.setPoison a n b).ports = s.ports := rfl
@[simp] theorem State.setPoison_breaks (s : State) (a n : Nat) (b : Bool) : (s.setPoison a n b).breaks = s.breaks := rfl
@[simp] theorem State.setPoison_sent (s : State) (a n : Nat) (b : Bool) : (s.setPoison a n b).sent = s.sent := rfl
@[simp] theorem State.setPoison_retired (s : State) (a n : Nat) (b : Bool) : (s.setPoison a n b).retired = s.retired := rfl
@[simp] theorem State.setPoison_geom (s : State) (a n : Nat) (b : Bool) : (s.setPoison a n b).geom = s.geom := rfl
@[simp] theorem State.setPoison_reqs (s : State) (a n : Nat) (b : Bool) : (s.setPoison a n b).reqs = s.reqs := rfl
@[simp] theorem State.setPoison_passes (s : State) (a n : Nat) (b : Bool) : (s.setPoison a n b).passes = s.passes := rfl
@[simp] theorem State.setPoison_packDue (s : State) (a n : Nat) (b : Bool) : (s.setPoison a n b).packDue = s.packDue := rfl
@[simp] theorem State.setPoison_closed (s : State) (a n : Nat) (b : Bool) : (s.setPoison a n b).closed = s.closed := rfl
@[simp] theorem State.setPoison_order (s : State) (a n : Nat) (b : Bool) : (s.setPoison a n b).order = s.order := rfl
@[simp] theorem State.setPoison_dests (s : State) (a n : Nat) (b : Bool) : (s.setPoison a n b).dests = s.dests := rfl
@[simp] theorem State.setPoison_pfcPaused (s : State) (a n : Nat) (b : Bool) : (s.setPoison a n b).pfcPaused = s.pfcPaused := rfl
@[simp] theorem State.setPoison_tenant (s : State) (a n : Nat) (b : Bool) : (s.setPoison a n b).tenant = s.tenant := rfl
@[simp] theorem State.setPoison_fills (s : State) (a n : Nat) (b : Bool) : (s.setPoison a n b).fills = s.fills := rfl
@[simp] theorem State.setPoison_budgetRem (s : State) (a n : Nat) (b : Bool) : (s.setPoison a n b).budgetRem = s.budgetRem := rfl
@[simp] theorem State.setPoison_duty (s : State) (a n : Nat) (b : Bool) : (s.setPoison a n b).duty = s.duty := rfl
@[simp] theorem State.setPoison_dutyWant (s : State) (a n : Nat) (b : Bool) : (s.setPoison a n b).dutyWant = s.dutyWant := rfl
@[simp] theorem State.setPoison_mboxFunc (s : State) (a n : Nat) (b : Bool) : (s.setPoison a n b).mboxFunc = s.mboxFunc := rfl
@[simp] theorem State.setPoison_getRetry (s : State) (a n : Nat) (b : Bool) : (s.setPoison a n b).getRetry = s.getRetry := rfl
@[simp] theorem State.setPoison_bpresLost (s : State) (a n : Nat) (b : Bool) : (s.setPoison a n b).bpresLost = s.bpresLost := rfl
@[simp] theorem State.setPoison_slowBy (s : State) (a n : Nat) (b : Bool) : (s.setPoison a n b).slowBy = s.slowBy := rfl
@[simp] theorem State.setPoison_numVfs (s : State) (a n : Nat) (b : Bool) : (s.setPoison a n b).numVfs = s.numVfs := rfl
@[simp] theorem State.setPoison_vfEnable (s : State) (a n : Nat) (b : Bool) : (s.setPoison a n b).vfEnable = s.vfEnable := rfl
@[simp] theorem State.setPoison_rings (s : State) (a n : Nat) (b : Bool) : (s.setPoison a n b).rings = s.rings := rfl
@[simp] theorem State.setPoison_ringTurn (s : State) (a n : Nat) (b : Bool) : (s.setPoison a n b).ringTurn = s.ringTurn := rfl
@[simp] theorem State.setPoison_shWin (s : State) (a n : Nat) (b : Bool) : (s.setPoison a n b).shWin = s.shWin := rfl
@[simp] theorem State.setPoison_launches (s : State) (a n : Nat) (b : Bool) : (s.setPoison a n b).launches = s.launches := rfl
@[simp] theorem State.setPoison_ops (s : State) (a n : Nat) (b : Bool) : (s.setPoison a n b).ops = s.ops := rfl
@[simp] theorem State.setPoison_msixTab (s : State) (a n : Nat) (b : Bool) : (s.setPoison a n b).msixTab = s.msixTab := rfl
@[simp] theorem State.setPoison_boot (s : State) (a n : Nat) (b : Bool) : (s.setPoison a n b).boot = s.boot := rfl
@[simp] theorem State.setPoison_doms (s : State) (a n : Nat) (b : Bool) : (s.setPoison a n b).doms = s.doms := rfl
@[simp] theorem State.setPoison_relaying (s : State) (a n : Nat) (b : Bool) : (s.setPoison a n b).relaying = s.relaying := rfl
@[simp] theorem State.setPoison_sec (s : State) (a n : Nat) (b : Bool) : (s.setPoison a n b).sec = s.sec := rfl
@[simp] theorem State.setPoison_pwr (s : State) (a n : Nat) (b : Bool) : (s.setPoison a n b).pwr = s.pwr := rfl
@[simp] theorem State.setPoison_pcFailed (s : State) (a n : Nat) (b : Bool) : (s.setPoison a n b).pcFailed = s.pcFailed := rfl
@[simp] theorem State.setPoison_lastSync (s : State) (a n : Nat) (b : Bool) : (s.setPoison a n b).lastSync = s.lastSync := rfl
@[simp] theorem State.setPoison_stepped (s : State) (a n : Nat) (b : Bool) : (s.setPoison a n b).stepped = s.stepped := rfl
@[simp] theorem State.setPoison_mgmtStatus (s : State) (a n : Nat) (b : Bool) : (s.setPoison a n b).mgmtStatus = s.mgmtStatus := rfl
@[simp] theorem State.setPoison_tapStatus (s : State) (a n : Nat) (b : Bool) : (s.setPoison a n b).tapStatus = s.tapStatus := rfl
@[simp] theorem State.setPoison_tapData (s : State) (a n : Nat) (b : Bool) : (s.setPoison a n b).tapData = s.tapData := rfl
@[simp] theorem State.setPoison_tapUnlocked (s : State) (a n : Nat) (b : Bool) : (s.setPoison a n b).tapUnlocked = s.tapUnlocked := rfl
@[simp] theorem State.setPoison_regOut (s : State) (a n : Nat) (b : Bool) : (s.setPoison a n b).regOut = s.regOut := rfl
@[simp] theorem State.setPoison_bw (s : State) (a n : Nat) (b : Bool) : (s.setPoison a n b).bw = s.bw := rfl
@[simp] theorem State.setPoison_dumpSeq (s : State) (a n : Nat) (b : Bool) : (s.setPoison a n b).dumpSeq = s.dumpSeq := rfl
@[simp] theorem State.setPoison_free (s : State) (a n : Nat) (b : Bool) : (s.setPoison a n b).free = s.free := rfl

@[simp] theorem State.setDirty_pending (s : State) (v b : Nat) (d : Dirty) : (s.setDirty v b d).pending = s.pending := rfl
@[simp] theorem State.setDirty_regs (s : State) (v b : Nat) (d : Dirty) : (s.setDirty v b d).regs = s.regs := rfl
@[simp] theorem State.setDirty_live (s : State) (v b : Nat) (d : Dirty) : (s.setDirty v b d).live = s.live := rfl
@[simp] theorem State.setDirty_mem (s : State) (v b : Nat) (d : Dirty) : (s.setDirty v b d).mem = s.mem := rfl
@[simp] theorem State.setDirty_poison (s : State) (v b : Nat) (d : Dirty) : (s.setDirty v b d).poison = s.poison := rfl
@[simp] theorem State.setDirty_host (s : State) (v b : Nat) (d : Dirty) : (s.setDirty v b d).host = s.host := rfl
@[simp] theorem State.setDirty_flash (s : State) (v b : Nat) (d : Dirty) : (s.setDirty v b d).flash = s.flash := rfl
@[simp] theorem State.setDirty_sram (s : State) (v b : Nat) (d : Dirty) : (s.setDirty v b d).sram = s.sram := rfl
@[simp] theorem State.setDirty_prog (s : State) (v b : Nat) (d : Dirty) : (s.setDirty v b d).prog = s.prog := rfl
@[simp] theorem State.setDirty_curd (s : State) (v b : Nat) (d : Dirty) : (s.setDirty v b d).curd = s.curd := rfl
@[simp] theorem State.setDirty_vats (s : State) (v b : Nat) (d : Dirty) : (s.setDirty v b d).vats = s.vats := rfl
@[simp] theorem State.setDirty_withdrawn (s : State) (v b : Nat) (d : Dirty) : (s.setDirty v b d).withdrawn = s.withdrawn := rfl
@[simp] theorem State.setDirty_claims (s : State) (v b : Nat) (d : Dirty) : (s.setDirty v b d).claims = s.claims := rfl
@[simp] theorem State.setDirty_streams (s : State) (v b : Nat) (d : Dirty) : (s.setDirty v b d).streams = s.streams := rfl
@[simp] theorem State.setDirty_tags (s : State) (v b : Nat) (d : Dirty) : (s.setDirty v b d).tags = s.tags := rfl
@[simp] theorem State.setDirty_tagWait (s : State) (v b : Nat) (d : Dirty) : (s.setDirty v b d).tagWait = s.tagWait := rfl
@[simp] theorem State.setDirty_tagTurn (s : State) (v b : Nat) (d : Dirty) : (s.setDirty v b d).tagTurn = s.tagTurn := rfl
@[simp] theorem State.setDirty_dnet (s : State) (v b : Nat) (d : Dirty) : (s.setDirty v b d).dnet = s.dnet := rfl
@[simp] theorem State.setDirty_gets (s : State) (v b : Nat) (d : Dirty) : (s.setDirty v b d).gets = s.gets := rfl
@[simp] theorem State.setDirty_layout (s : State) (v b : Nat) (d : Dirty) : (s.setDirty v b d).layout = s.layout := rfl
@[simp] theorem State.setDirty_msi (s : State) (v b : Nat) (d : Dirty) : (s.setDirty v b d).msi = s.msi := rfl
@[simp] theorem State.setDirty_ports (s : State) (v b : Nat) (d : Dirty) : (s.setDirty v b d).ports = s.ports := rfl
@[simp] theorem State.setDirty_breaks (s : State) (v b : Nat) (d : Dirty) : (s.setDirty v b d).breaks = s.breaks := rfl
@[simp] theorem State.setDirty_sent (s : State) (v b : Nat) (d : Dirty) : (s.setDirty v b d).sent = s.sent := rfl
@[simp] theorem State.setDirty_retired (s : State) (v b : Nat) (d : Dirty) : (s.setDirty v b d).retired = s.retired := rfl
@[simp] theorem State.setDirty_geom (s : State) (v b : Nat) (d : Dirty) : (s.setDirty v b d).geom = s.geom := rfl
@[simp] theorem State.setDirty_reqs (s : State) (v b : Nat) (d : Dirty) : (s.setDirty v b d).reqs = s.reqs := rfl
@[simp] theorem State.setDirty_passes (s : State) (v b : Nat) (d : Dirty) : (s.setDirty v b d).passes = s.passes := rfl
@[simp] theorem State.setDirty_packDue (s : State) (v b : Nat) (d : Dirty) : (s.setDirty v b d).packDue = s.packDue := rfl
@[simp] theorem State.setDirty_closed (s : State) (v b : Nat) (d : Dirty) : (s.setDirty v b d).closed = s.closed := rfl
@[simp] theorem State.setDirty_order (s : State) (v b : Nat) (d : Dirty) : (s.setDirty v b d).order = s.order := rfl
@[simp] theorem State.setDirty_dests (s : State) (v b : Nat) (d : Dirty) : (s.setDirty v b d).dests = s.dests := rfl
@[simp] theorem State.setDirty_pfcPaused (s : State) (v b : Nat) (d : Dirty) : (s.setDirty v b d).pfcPaused = s.pfcPaused := rfl
@[simp] theorem State.setDirty_tenant (s : State) (v b : Nat) (d : Dirty) : (s.setDirty v b d).tenant = s.tenant := rfl
@[simp] theorem State.setDirty_fills (s : State) (v b : Nat) (d : Dirty) : (s.setDirty v b d).fills = s.fills := rfl
@[simp] theorem State.setDirty_budgetRem (s : State) (v b : Nat) (d : Dirty) : (s.setDirty v b d).budgetRem = s.budgetRem := rfl
@[simp] theorem State.setDirty_duty (s : State) (v b : Nat) (d : Dirty) : (s.setDirty v b d).duty = s.duty := rfl
@[simp] theorem State.setDirty_dutyWant (s : State) (v b : Nat) (d : Dirty) : (s.setDirty v b d).dutyWant = s.dutyWant := rfl
@[simp] theorem State.setDirty_mboxFunc (s : State) (v b : Nat) (d : Dirty) : (s.setDirty v b d).mboxFunc = s.mboxFunc := rfl
@[simp] theorem State.setDirty_getRetry (s : State) (v b : Nat) (d : Dirty) : (s.setDirty v b d).getRetry = s.getRetry := rfl
@[simp] theorem State.setDirty_bpresLost (s : State) (v b : Nat) (d : Dirty) : (s.setDirty v b d).bpresLost = s.bpresLost := rfl
@[simp] theorem State.setDirty_slowBy (s : State) (v b : Nat) (d : Dirty) : (s.setDirty v b d).slowBy = s.slowBy := rfl
@[simp] theorem State.setDirty_numVfs (s : State) (v b : Nat) (d : Dirty) : (s.setDirty v b d).numVfs = s.numVfs := rfl
@[simp] theorem State.setDirty_vfEnable (s : State) (v b : Nat) (d : Dirty) : (s.setDirty v b d).vfEnable = s.vfEnable := rfl
@[simp] theorem State.setDirty_rings (s : State) (v b : Nat) (d : Dirty) : (s.setDirty v b d).rings = s.rings := rfl
@[simp] theorem State.setDirty_ringTurn (s : State) (v b : Nat) (d : Dirty) : (s.setDirty v b d).ringTurn = s.ringTurn := rfl
@[simp] theorem State.setDirty_shWin (s : State) (v b : Nat) (d : Dirty) : (s.setDirty v b d).shWin = s.shWin := rfl
@[simp] theorem State.setDirty_launches (s : State) (v b : Nat) (d : Dirty) : (s.setDirty v b d).launches = s.launches := rfl
@[simp] theorem State.setDirty_ops (s : State) (v b : Nat) (d : Dirty) : (s.setDirty v b d).ops = s.ops := rfl
@[simp] theorem State.setDirty_msixTab (s : State) (v b : Nat) (d : Dirty) : (s.setDirty v b d).msixTab = s.msixTab := rfl
@[simp] theorem State.setDirty_boot (s : State) (v b : Nat) (d : Dirty) : (s.setDirty v b d).boot = s.boot := rfl
@[simp] theorem State.setDirty_doms (s : State) (v b : Nat) (d : Dirty) : (s.setDirty v b d).doms = s.doms := rfl
@[simp] theorem State.setDirty_relaying (s : State) (v b : Nat) (d : Dirty) : (s.setDirty v b d).relaying = s.relaying := rfl
@[simp] theorem State.setDirty_sec (s : State) (v b : Nat) (d : Dirty) : (s.setDirty v b d).sec = s.sec := rfl
@[simp] theorem State.setDirty_pwr (s : State) (v b : Nat) (d : Dirty) : (s.setDirty v b d).pwr = s.pwr := rfl
@[simp] theorem State.setDirty_pcFailed (s : State) (v b : Nat) (d : Dirty) : (s.setDirty v b d).pcFailed = s.pcFailed := rfl
@[simp] theorem State.setDirty_lastSync (s : State) (v b : Nat) (d : Dirty) : (s.setDirty v b d).lastSync = s.lastSync := rfl
@[simp] theorem State.setDirty_stepped (s : State) (v b : Nat) (d : Dirty) : (s.setDirty v b d).stepped = s.stepped := rfl
@[simp] theorem State.setDirty_mgmtStatus (s : State) (v b : Nat) (d : Dirty) : (s.setDirty v b d).mgmtStatus = s.mgmtStatus := rfl
@[simp] theorem State.setDirty_tapStatus (s : State) (v b : Nat) (d : Dirty) : (s.setDirty v b d).tapStatus = s.tapStatus := rfl
@[simp] theorem State.setDirty_tapData (s : State) (v b : Nat) (d : Dirty) : (s.setDirty v b d).tapData = s.tapData := rfl
@[simp] theorem State.setDirty_tapUnlocked (s : State) (v b : Nat) (d : Dirty) : (s.setDirty v b d).tapUnlocked = s.tapUnlocked := rfl
@[simp] theorem State.setDirty_regOut (s : State) (v b : Nat) (d : Dirty) : (s.setDirty v b d).regOut = s.regOut := rfl
@[simp] theorem State.setDirty_bw (s : State) (v b : Nat) (d : Dirty) : (s.setDirty v b d).bw = s.bw := rfl
@[simp] theorem State.setDirty_dumpSeq (s : State) (v b : Nat) (d : Dirty) : (s.setDirty v b d).dumpSeq = s.dumpSeq := rfl
@[simp] theorem State.setDirty_free (s : State) (v b : Nat) (d : Dirty) : (s.setDirty v b d).free = s.free := rfl

@[simp] theorem State.emit_pending (s : State) (x : Sent) : (s.emit x).pending = s.pending := rfl
@[simp] theorem State.emit_regs (s : State) (x : Sent) : (s.emit x).regs = s.regs := rfl
@[simp] theorem State.emit_live (s : State) (x : Sent) : (s.emit x).live = s.live := rfl
@[simp] theorem State.emit_mem (s : State) (x : Sent) : (s.emit x).mem = s.mem := rfl
@[simp] theorem State.emit_poison (s : State) (x : Sent) : (s.emit x).poison = s.poison := rfl
@[simp] theorem State.emit_host (s : State) (x : Sent) : (s.emit x).host = s.host := rfl
@[simp] theorem State.emit_flash (s : State) (x : Sent) : (s.emit x).flash = s.flash := rfl
@[simp] theorem State.emit_sram (s : State) (x : Sent) : (s.emit x).sram = s.sram := rfl
@[simp] theorem State.emit_prog (s : State) (x : Sent) : (s.emit x).prog = s.prog := rfl
@[simp] theorem State.emit_curd (s : State) (x : Sent) : (s.emit x).curd = s.curd := rfl
@[simp] theorem State.emit_vats (s : State) (x : Sent) : (s.emit x).vats = s.vats := rfl
@[simp] theorem State.emit_dirty (s : State) (x : Sent) : (s.emit x).dirty = s.dirty := rfl
@[simp] theorem State.emit_withdrawn (s : State) (x : Sent) : (s.emit x).withdrawn = s.withdrawn := rfl
@[simp] theorem State.emit_claims (s : State) (x : Sent) : (s.emit x).claims = s.claims := rfl
@[simp] theorem State.emit_streams (s : State) (x : Sent) : (s.emit x).streams = s.streams := rfl
@[simp] theorem State.emit_tags (s : State) (x : Sent) : (s.emit x).tags = s.tags := rfl
@[simp] theorem State.emit_tagWait (s : State) (x : Sent) : (s.emit x).tagWait = s.tagWait := rfl
@[simp] theorem State.emit_tagTurn (s : State) (x : Sent) : (s.emit x).tagTurn = s.tagTurn := rfl
@[simp] theorem State.emit_dnet (s : State) (x : Sent) : (s.emit x).dnet = s.dnet := rfl
@[simp] theorem State.emit_gets (s : State) (x : Sent) : (s.emit x).gets = s.gets := rfl
@[simp] theorem State.emit_layout (s : State) (x : Sent) : (s.emit x).layout = s.layout := rfl
@[simp] theorem State.emit_msi (s : State) (x : Sent) : (s.emit x).msi = s.msi := rfl
@[simp] theorem State.emit_ports (s : State) (x : Sent) : (s.emit x).ports = s.ports := rfl
@[simp] theorem State.emit_breaks (s : State) (x : Sent) : (s.emit x).breaks = s.breaks := rfl
@[simp] theorem State.emit_retired (s : State) (x : Sent) : (s.emit x).retired = s.retired := rfl
@[simp] theorem State.emit_geom (s : State) (x : Sent) : (s.emit x).geom = s.geom := rfl
@[simp] theorem State.emit_reqs (s : State) (x : Sent) : (s.emit x).reqs = s.reqs := rfl
@[simp] theorem State.emit_passes (s : State) (x : Sent) : (s.emit x).passes = s.passes := rfl
@[simp] theorem State.emit_packDue (s : State) (x : Sent) : (s.emit x).packDue = s.packDue := rfl
@[simp] theorem State.emit_closed (s : State) (x : Sent) : (s.emit x).closed = s.closed := rfl
@[simp] theorem State.emit_order (s : State) (x : Sent) : (s.emit x).order = s.order := rfl
@[simp] theorem State.emit_dests (s : State) (x : Sent) : (s.emit x).dests = s.dests := rfl
@[simp] theorem State.emit_pfcPaused (s : State) (x : Sent) : (s.emit x).pfcPaused = s.pfcPaused := rfl
@[simp] theorem State.emit_tenant (s : State) (x : Sent) : (s.emit x).tenant = s.tenant := rfl
@[simp] theorem State.emit_fills (s : State) (x : Sent) : (s.emit x).fills = s.fills := rfl
@[simp] theorem State.emit_budgetRem (s : State) (x : Sent) : (s.emit x).budgetRem = s.budgetRem := rfl
@[simp] theorem State.emit_duty (s : State) (x : Sent) : (s.emit x).duty = s.duty := rfl
@[simp] theorem State.emit_dutyWant (s : State) (x : Sent) : (s.emit x).dutyWant = s.dutyWant := rfl
@[simp] theorem State.emit_mboxFunc (s : State) (x : Sent) : (s.emit x).mboxFunc = s.mboxFunc := rfl
@[simp] theorem State.emit_getRetry (s : State) (x : Sent) : (s.emit x).getRetry = s.getRetry := rfl
@[simp] theorem State.emit_bpresLost (s : State) (x : Sent) : (s.emit x).bpresLost = s.bpresLost := rfl
@[simp] theorem State.emit_slowBy (s : State) (x : Sent) : (s.emit x).slowBy = s.slowBy := rfl
@[simp] theorem State.emit_numVfs (s : State) (x : Sent) : (s.emit x).numVfs = s.numVfs := rfl
@[simp] theorem State.emit_vfEnable (s : State) (x : Sent) : (s.emit x).vfEnable = s.vfEnable := rfl
@[simp] theorem State.emit_rings (s : State) (x : Sent) : (s.emit x).rings = s.rings := rfl
@[simp] theorem State.emit_ringTurn (s : State) (x : Sent) : (s.emit x).ringTurn = s.ringTurn := rfl
@[simp] theorem State.emit_shWin (s : State) (x : Sent) : (s.emit x).shWin = s.shWin := rfl
@[simp] theorem State.emit_launches (s : State) (x : Sent) : (s.emit x).launches = s.launches := rfl
@[simp] theorem State.emit_ops (s : State) (x : Sent) : (s.emit x).ops = s.ops := rfl
@[simp] theorem State.emit_msixTab (s : State) (x : Sent) : (s.emit x).msixTab = s.msixTab := rfl
@[simp] theorem State.emit_boot (s : State) (x : Sent) : (s.emit x).boot = s.boot := rfl
@[simp] theorem State.emit_doms (s : State) (x : Sent) : (s.emit x).doms = s.doms := rfl
@[simp] theorem State.emit_relaying (s : State) (x : Sent) : (s.emit x).relaying = s.relaying := rfl
@[simp] theorem State.emit_sec (s : State) (x : Sent) : (s.emit x).sec = s.sec := rfl
@[simp] theorem State.emit_pwr (s : State) (x : Sent) : (s.emit x).pwr = s.pwr := rfl
@[simp] theorem State.emit_pcFailed (s : State) (x : Sent) : (s.emit x).pcFailed = s.pcFailed := rfl
@[simp] theorem State.emit_lastSync (s : State) (x : Sent) : (s.emit x).lastSync = s.lastSync := rfl
@[simp] theorem State.emit_stepped (s : State) (x : Sent) : (s.emit x).stepped = s.stepped := rfl
@[simp] theorem State.emit_mgmtStatus (s : State) (x : Sent) : (s.emit x).mgmtStatus = s.mgmtStatus := rfl
@[simp] theorem State.emit_tapStatus (s : State) (x : Sent) : (s.emit x).tapStatus = s.tapStatus := rfl
@[simp] theorem State.emit_tapData (s : State) (x : Sent) : (s.emit x).tapData = s.tapData := rfl
@[simp] theorem State.emit_tapUnlocked (s : State) (x : Sent) : (s.emit x).tapUnlocked = s.tapUnlocked := rfl
@[simp] theorem State.emit_regOut (s : State) (x : Sent) : (s.emit x).regOut = s.regOut := rfl
@[simp] theorem State.emit_bw (s : State) (x : Sent) : (s.emit x).bw = s.bw := rfl
@[simp] theorem State.emit_dumpSeq (s : State) (x : Sent) : (s.emit x).dumpSeq = s.dumpSeq := rfl
@[simp] theorem State.emit_free (s : State) (x : Sent) : (s.emit x).free = s.free := rfl

@[simp] theorem State.claim_pending (s : State) (v port : Nat) (h : Holder) (banks : List Nat) : (s.claim v port h banks).pending = s.pending := rfl
@[simp] theorem State.claim_regs (s : State) (v port : Nat) (h : Holder) (banks : List Nat) : (s.claim v port h banks).regs = s.regs := rfl
@[simp] theorem State.claim_live (s : State) (v port : Nat) (h : Holder) (banks : List Nat) : (s.claim v port h banks).live = s.live := rfl
@[simp] theorem State.claim_mem (s : State) (v port : Nat) (h : Holder) (banks : List Nat) : (s.claim v port h banks).mem = s.mem := rfl
@[simp] theorem State.claim_poison (s : State) (v port : Nat) (h : Holder) (banks : List Nat) : (s.claim v port h banks).poison = s.poison := rfl
@[simp] theorem State.claim_host (s : State) (v port : Nat) (h : Holder) (banks : List Nat) : (s.claim v port h banks).host = s.host := rfl
@[simp] theorem State.claim_flash (s : State) (v port : Nat) (h : Holder) (banks : List Nat) : (s.claim v port h banks).flash = s.flash := rfl
@[simp] theorem State.claim_sram (s : State) (v port : Nat) (h : Holder) (banks : List Nat) : (s.claim v port h banks).sram = s.sram := rfl
@[simp] theorem State.claim_prog (s : State) (v port : Nat) (h : Holder) (banks : List Nat) : (s.claim v port h banks).prog = s.prog := rfl
@[simp] theorem State.claim_curd (s : State) (v port : Nat) (h : Holder) (banks : List Nat) : (s.claim v port h banks).curd = s.curd := rfl
@[simp] theorem State.claim_vats (s : State) (v port : Nat) (h : Holder) (banks : List Nat) : (s.claim v port h banks).vats = s.vats := rfl
@[simp] theorem State.claim_dirty (s : State) (v port : Nat) (h : Holder) (banks : List Nat) : (s.claim v port h banks).dirty = s.dirty := rfl
@[simp] theorem State.claim_withdrawn (s : State) (v port : Nat) (h : Holder) (banks : List Nat) : (s.claim v port h banks).withdrawn = s.withdrawn := rfl
@[simp] theorem State.claim_streams (s : State) (v port : Nat) (h : Holder) (banks : List Nat) : (s.claim v port h banks).streams = s.streams := rfl
@[simp] theorem State.claim_tags (s : State) (v port : Nat) (h : Holder) (banks : List Nat) : (s.claim v port h banks).tags = s.tags := rfl
@[simp] theorem State.claim_tagWait (s : State) (v port : Nat) (h : Holder) (banks : List Nat) : (s.claim v port h banks).tagWait = s.tagWait := rfl
@[simp] theorem State.claim_tagTurn (s : State) (v port : Nat) (h : Holder) (banks : List Nat) : (s.claim v port h banks).tagTurn = s.tagTurn := rfl
@[simp] theorem State.claim_dnet (s : State) (v port : Nat) (h : Holder) (banks : List Nat) : (s.claim v port h banks).dnet = s.dnet := rfl
@[simp] theorem State.claim_gets (s : State) (v port : Nat) (h : Holder) (banks : List Nat) : (s.claim v port h banks).gets = s.gets := rfl
@[simp] theorem State.claim_layout (s : State) (v port : Nat) (h : Holder) (banks : List Nat) : (s.claim v port h banks).layout = s.layout := rfl
@[simp] theorem State.claim_msi (s : State) (v port : Nat) (h : Holder) (banks : List Nat) : (s.claim v port h banks).msi = s.msi := rfl
@[simp] theorem State.claim_ports (s : State) (v port : Nat) (h : Holder) (banks : List Nat) : (s.claim v port h banks).ports = s.ports := rfl
@[simp] theorem State.claim_breaks (s : State) (v port : Nat) (h : Holder) (banks : List Nat) : (s.claim v port h banks).breaks = s.breaks := rfl
@[simp] theorem State.claim_sent (s : State) (v port : Nat) (h : Holder) (banks : List Nat) : (s.claim v port h banks).sent = s.sent := rfl
@[simp] theorem State.claim_retired (s : State) (v port : Nat) (h : Holder) (banks : List Nat) : (s.claim v port h banks).retired = s.retired := rfl
@[simp] theorem State.claim_geom (s : State) (v port : Nat) (h : Holder) (banks : List Nat) : (s.claim v port h banks).geom = s.geom := rfl
@[simp] theorem State.claim_reqs (s : State) (v port : Nat) (h : Holder) (banks : List Nat) : (s.claim v port h banks).reqs = s.reqs := rfl
@[simp] theorem State.claim_passes (s : State) (v port : Nat) (h : Holder) (banks : List Nat) : (s.claim v port h banks).passes = s.passes := rfl
@[simp] theorem State.claim_packDue (s : State) (v port : Nat) (h : Holder) (banks : List Nat) : (s.claim v port h banks).packDue = s.packDue := rfl
@[simp] theorem State.claim_closed (s : State) (v port : Nat) (h : Holder) (banks : List Nat) : (s.claim v port h banks).closed = s.closed := rfl
@[simp] theorem State.claim_order (s : State) (v port : Nat) (h : Holder) (banks : List Nat) : (s.claim v port h banks).order = s.order := rfl
@[simp] theorem State.claim_dests (s : State) (v port : Nat) (h : Holder) (banks : List Nat) : (s.claim v port h banks).dests = s.dests := rfl
@[simp] theorem State.claim_pfcPaused (s : State) (v port : Nat) (h : Holder) (banks : List Nat) : (s.claim v port h banks).pfcPaused = s.pfcPaused := rfl
@[simp] theorem State.claim_tenant (s : State) (v port : Nat) (h : Holder) (banks : List Nat) : (s.claim v port h banks).tenant = s.tenant := rfl
@[simp] theorem State.claim_fills (s : State) (v port : Nat) (h : Holder) (banks : List Nat) : (s.claim v port h banks).fills = s.fills := rfl
@[simp] theorem State.claim_budgetRem (s : State) (v port : Nat) (h : Holder) (banks : List Nat) : (s.claim v port h banks).budgetRem = s.budgetRem := rfl
@[simp] theorem State.claim_duty (s : State) (v port : Nat) (h : Holder) (banks : List Nat) : (s.claim v port h banks).duty = s.duty := rfl
@[simp] theorem State.claim_dutyWant (s : State) (v port : Nat) (h : Holder) (banks : List Nat) : (s.claim v port h banks).dutyWant = s.dutyWant := rfl
@[simp] theorem State.claim_mboxFunc (s : State) (v port : Nat) (h : Holder) (banks : List Nat) : (s.claim v port h banks).mboxFunc = s.mboxFunc := rfl
@[simp] theorem State.claim_getRetry (s : State) (v port : Nat) (h : Holder) (banks : List Nat) : (s.claim v port h banks).getRetry = s.getRetry := rfl
@[simp] theorem State.claim_bpresLost (s : State) (v port : Nat) (h : Holder) (banks : List Nat) : (s.claim v port h banks).bpresLost = s.bpresLost := rfl
@[simp] theorem State.claim_slowBy (s : State) (v port : Nat) (h : Holder) (banks : List Nat) : (s.claim v port h banks).slowBy = s.slowBy := rfl
@[simp] theorem State.claim_numVfs (s : State) (v port : Nat) (h : Holder) (banks : List Nat) : (s.claim v port h banks).numVfs = s.numVfs := rfl
@[simp] theorem State.claim_vfEnable (s : State) (v port : Nat) (h : Holder) (banks : List Nat) : (s.claim v port h banks).vfEnable = s.vfEnable := rfl
@[simp] theorem State.claim_rings (s : State) (v port : Nat) (h : Holder) (banks : List Nat) : (s.claim v port h banks).rings = s.rings := rfl
@[simp] theorem State.claim_ringTurn (s : State) (v port : Nat) (h : Holder) (banks : List Nat) : (s.claim v port h banks).ringTurn = s.ringTurn := rfl
@[simp] theorem State.claim_shWin (s : State) (v port : Nat) (h : Holder) (banks : List Nat) : (s.claim v port h banks).shWin = s.shWin := rfl
@[simp] theorem State.claim_launches (s : State) (v port : Nat) (h : Holder) (banks : List Nat) : (s.claim v port h banks).launches = s.launches := rfl
@[simp] theorem State.claim_ops (s : State) (v port : Nat) (h : Holder) (banks : List Nat) : (s.claim v port h banks).ops = s.ops := rfl
@[simp] theorem State.claim_msixTab (s : State) (v port : Nat) (h : Holder) (banks : List Nat) : (s.claim v port h banks).msixTab = s.msixTab := rfl
@[simp] theorem State.claim_boot (s : State) (v port : Nat) (h : Holder) (banks : List Nat) : (s.claim v port h banks).boot = s.boot := rfl
@[simp] theorem State.claim_doms (s : State) (v port : Nat) (h : Holder) (banks : List Nat) : (s.claim v port h banks).doms = s.doms := rfl
@[simp] theorem State.claim_relaying (s : State) (v port : Nat) (h : Holder) (banks : List Nat) : (s.claim v port h banks).relaying = s.relaying := rfl
@[simp] theorem State.claim_sec (s : State) (v port : Nat) (h : Holder) (banks : List Nat) : (s.claim v port h banks).sec = s.sec := rfl
@[simp] theorem State.claim_pwr (s : State) (v port : Nat) (h : Holder) (banks : List Nat) : (s.claim v port h banks).pwr = s.pwr := rfl
@[simp] theorem State.claim_pcFailed (s : State) (v port : Nat) (h : Holder) (banks : List Nat) : (s.claim v port h banks).pcFailed = s.pcFailed := rfl
@[simp] theorem State.claim_lastSync (s : State) (v port : Nat) (h : Holder) (banks : List Nat) : (s.claim v port h banks).lastSync = s.lastSync := rfl
@[simp] theorem State.claim_stepped (s : State) (v port : Nat) (h : Holder) (banks : List Nat) : (s.claim v port h banks).stepped = s.stepped := rfl
@[simp] theorem State.claim_mgmtStatus (s : State) (v port : Nat) (h : Holder) (banks : List Nat) : (s.claim v port h banks).mgmtStatus = s.mgmtStatus := rfl
@[simp] theorem State.claim_tapStatus (s : State) (v port : Nat) (h : Holder) (banks : List Nat) : (s.claim v port h banks).tapStatus = s.tapStatus := rfl
@[simp] theorem State.claim_tapData (s : State) (v port : Nat) (h : Holder) (banks : List Nat) : (s.claim v port h banks).tapData = s.tapData := rfl
@[simp] theorem State.claim_tapUnlocked (s : State) (v port : Nat) (h : Holder) (banks : List Nat) : (s.claim v port h banks).tapUnlocked = s.tapUnlocked := rfl
@[simp] theorem State.claim_regOut (s : State) (v port : Nat) (h : Holder) (banks : List Nat) : (s.claim v port h banks).regOut = s.regOut := rfl
@[simp] theorem State.claim_bw (s : State) (v port : Nat) (h : Holder) (banks : List Nat) : (s.claim v port h banks).bw = s.bw := rfl
@[simp] theorem State.claim_dumpSeq (s : State) (v port : Nat) (h : Holder) (banks : List Nat) : (s.claim v port h banks).dumpSeq = s.dumpSeq := rfl
@[simp] theorem State.claim_free (s : State) (v port : Nat) (h : Holder) (banks : List Nat) : (s.claim v port h banks).free = s.free := rfl

@[simp] theorem State.release_pending (s : State) (h : Holder) : (s.release h).pending = s.pending := rfl
@[simp] theorem State.release_regs (s : State) (h : Holder) : (s.release h).regs = s.regs := rfl
@[simp] theorem State.release_live (s : State) (h : Holder) : (s.release h).live = s.live := rfl
@[simp] theorem State.release_mem (s : State) (h : Holder) : (s.release h).mem = s.mem := rfl
@[simp] theorem State.release_poison (s : State) (h : Holder) : (s.release h).poison = s.poison := rfl
@[simp] theorem State.release_host (s : State) (h : Holder) : (s.release h).host = s.host := rfl
@[simp] theorem State.release_flash (s : State) (h : Holder) : (s.release h).flash = s.flash := rfl
@[simp] theorem State.release_sram (s : State) (h : Holder) : (s.release h).sram = s.sram := rfl
@[simp] theorem State.release_prog (s : State) (h : Holder) : (s.release h).prog = s.prog := rfl
@[simp] theorem State.release_curd (s : State) (h : Holder) : (s.release h).curd = s.curd := rfl
@[simp] theorem State.release_vats (s : State) (h : Holder) : (s.release h).vats = s.vats := rfl
@[simp] theorem State.release_dirty (s : State) (h : Holder) : (s.release h).dirty = s.dirty := rfl
@[simp] theorem State.release_withdrawn (s : State) (h : Holder) : (s.release h).withdrawn = s.withdrawn := rfl
@[simp] theorem State.release_streams (s : State) (h : Holder) : (s.release h).streams = s.streams := rfl
@[simp] theorem State.release_tags (s : State) (h : Holder) : (s.release h).tags = s.tags := rfl
@[simp] theorem State.release_tagWait (s : State) (h : Holder) : (s.release h).tagWait = s.tagWait := rfl
@[simp] theorem State.release_tagTurn (s : State) (h : Holder) : (s.release h).tagTurn = s.tagTurn := rfl
@[simp] theorem State.release_dnet (s : State) (h : Holder) : (s.release h).dnet = s.dnet := rfl
@[simp] theorem State.release_gets (s : State) (h : Holder) : (s.release h).gets = s.gets := rfl
@[simp] theorem State.release_layout (s : State) (h : Holder) : (s.release h).layout = s.layout := rfl
@[simp] theorem State.release_msi (s : State) (h : Holder) : (s.release h).msi = s.msi := rfl
@[simp] theorem State.release_ports (s : State) (h : Holder) : (s.release h).ports = s.ports := rfl
@[simp] theorem State.release_breaks (s : State) (h : Holder) : (s.release h).breaks = s.breaks := rfl
@[simp] theorem State.release_sent (s : State) (h : Holder) : (s.release h).sent = s.sent := rfl
@[simp] theorem State.release_retired (s : State) (h : Holder) : (s.release h).retired = s.retired := rfl
@[simp] theorem State.release_geom (s : State) (h : Holder) : (s.release h).geom = s.geom := rfl
@[simp] theorem State.release_reqs (s : State) (h : Holder) : (s.release h).reqs = s.reqs := rfl
@[simp] theorem State.release_passes (s : State) (h : Holder) : (s.release h).passes = s.passes := rfl
@[simp] theorem State.release_packDue (s : State) (h : Holder) : (s.release h).packDue = s.packDue := rfl
@[simp] theorem State.release_closed (s : State) (h : Holder) : (s.release h).closed = s.closed := rfl
@[simp] theorem State.release_order (s : State) (h : Holder) : (s.release h).order = s.order := rfl
@[simp] theorem State.release_dests (s : State) (h : Holder) : (s.release h).dests = s.dests := rfl
@[simp] theorem State.release_pfcPaused (s : State) (h : Holder) : (s.release h).pfcPaused = s.pfcPaused := rfl
@[simp] theorem State.release_tenant (s : State) (h : Holder) : (s.release h).tenant = s.tenant := rfl
@[simp] theorem State.release_fills (s : State) (h : Holder) : (s.release h).fills = s.fills := rfl
@[simp] theorem State.release_budgetRem (s : State) (h : Holder) : (s.release h).budgetRem = s.budgetRem := rfl
@[simp] theorem State.release_duty (s : State) (h : Holder) : (s.release h).duty = s.duty := rfl
@[simp] theorem State.release_dutyWant (s : State) (h : Holder) : (s.release h).dutyWant = s.dutyWant := rfl
@[simp] theorem State.release_mboxFunc (s : State) (h : Holder) : (s.release h).mboxFunc = s.mboxFunc := rfl
@[simp] theorem State.release_getRetry (s : State) (h : Holder) : (s.release h).getRetry = s.getRetry := rfl
@[simp] theorem State.release_bpresLost (s : State) (h : Holder) : (s.release h).bpresLost = s.bpresLost := rfl
@[simp] theorem State.release_slowBy (s : State) (h : Holder) : (s.release h).slowBy = s.slowBy := rfl
@[simp] theorem State.release_numVfs (s : State) (h : Holder) : (s.release h).numVfs = s.numVfs := rfl
@[simp] theorem State.release_vfEnable (s : State) (h : Holder) : (s.release h).vfEnable = s.vfEnable := rfl
@[simp] theorem State.release_rings (s : State) (h : Holder) : (s.release h).rings = s.rings := rfl
@[simp] theorem State.release_ringTurn (s : State) (h : Holder) : (s.release h).ringTurn = s.ringTurn := rfl
@[simp] theorem State.release_shWin (s : State) (h : Holder) : (s.release h).shWin = s.shWin := rfl
@[simp] theorem State.release_launches (s : State) (h : Holder) : (s.release h).launches = s.launches := rfl
@[simp] theorem State.release_ops (s : State) (h : Holder) : (s.release h).ops = s.ops := rfl
@[simp] theorem State.release_msixTab (s : State) (h : Holder) : (s.release h).msixTab = s.msixTab := rfl
@[simp] theorem State.release_boot (s : State) (h : Holder) : (s.release h).boot = s.boot := rfl
@[simp] theorem State.release_doms (s : State) (h : Holder) : (s.release h).doms = s.doms := rfl
@[simp] theorem State.release_relaying (s : State) (h : Holder) : (s.release h).relaying = s.relaying := rfl
@[simp] theorem State.release_sec (s : State) (h : Holder) : (s.release h).sec = s.sec := rfl
@[simp] theorem State.release_pwr (s : State) (h : Holder) : (s.release h).pwr = s.pwr := rfl
@[simp] theorem State.release_pcFailed (s : State) (h : Holder) : (s.release h).pcFailed = s.pcFailed := rfl
@[simp] theorem State.release_lastSync (s : State) (h : Holder) : (s.release h).lastSync = s.lastSync := rfl
@[simp] theorem State.release_stepped (s : State) (h : Holder) : (s.release h).stepped = s.stepped := rfl
@[simp] theorem State.release_mgmtStatus (s : State) (h : Holder) : (s.release h).mgmtStatus = s.mgmtStatus := rfl
@[simp] theorem State.release_tapStatus (s : State) (h : Holder) : (s.release h).tapStatus = s.tapStatus := rfl
@[simp] theorem State.release_tapData (s : State) (h : Holder) : (s.release h).tapData = s.tapData := rfl
@[simp] theorem State.release_tapUnlocked (s : State) (h : Holder) : (s.release h).tapUnlocked = s.tapUnlocked := rfl
@[simp] theorem State.release_regOut (s : State) (h : Holder) : (s.release h).regOut = s.regOut := rfl
@[simp] theorem State.release_bw (s : State) (h : Holder) : (s.release h).bw = s.bw := rfl
@[simp] theorem State.release_dumpSeq (s : State) (h : Holder) : (s.release h).dumpSeq = s.dumpSeq := rfl
@[simp] theorem State.release_free (s : State) (h : Holder) : (s.release h).free = s.free := rfl

@[simp] theorem State.setReq_pending (s : State) (i : Nat) (x : ReqX) : (s.setReq i x).pending = s.pending := rfl
@[simp] theorem State.setReq_regs (s : State) (i : Nat) (x : ReqX) : (s.setReq i x).regs = s.regs := rfl
@[simp] theorem State.setReq_live (s : State) (i : Nat) (x : ReqX) : (s.setReq i x).live = s.live := rfl
@[simp] theorem State.setReq_mem (s : State) (i : Nat) (x : ReqX) : (s.setReq i x).mem = s.mem := rfl
@[simp] theorem State.setReq_poison (s : State) (i : Nat) (x : ReqX) : (s.setReq i x).poison = s.poison := rfl
@[simp] theorem State.setReq_host (s : State) (i : Nat) (x : ReqX) : (s.setReq i x).host = s.host := rfl
@[simp] theorem State.setReq_flash (s : State) (i : Nat) (x : ReqX) : (s.setReq i x).flash = s.flash := rfl
@[simp] theorem State.setReq_sram (s : State) (i : Nat) (x : ReqX) : (s.setReq i x).sram = s.sram := rfl
@[simp] theorem State.setReq_prog (s : State) (i : Nat) (x : ReqX) : (s.setReq i x).prog = s.prog := rfl
@[simp] theorem State.setReq_curd (s : State) (i : Nat) (x : ReqX) : (s.setReq i x).curd = s.curd := rfl
@[simp] theorem State.setReq_vats (s : State) (i : Nat) (x : ReqX) : (s.setReq i x).vats = s.vats := rfl
@[simp] theorem State.setReq_dirty (s : State) (i : Nat) (x : ReqX) : (s.setReq i x).dirty = s.dirty := rfl
@[simp] theorem State.setReq_withdrawn (s : State) (i : Nat) (x : ReqX) : (s.setReq i x).withdrawn = s.withdrawn := rfl
@[simp] theorem State.setReq_claims (s : State) (i : Nat) (x : ReqX) : (s.setReq i x).claims = s.claims := rfl
@[simp] theorem State.setReq_streams (s : State) (i : Nat) (x : ReqX) : (s.setReq i x).streams = s.streams := rfl
@[simp] theorem State.setReq_tags (s : State) (i : Nat) (x : ReqX) : (s.setReq i x).tags = s.tags := rfl
@[simp] theorem State.setReq_tagWait (s : State) (i : Nat) (x : ReqX) : (s.setReq i x).tagWait = s.tagWait := rfl
@[simp] theorem State.setReq_tagTurn (s : State) (i : Nat) (x : ReqX) : (s.setReq i x).tagTurn = s.tagTurn := rfl
@[simp] theorem State.setReq_dnet (s : State) (i : Nat) (x : ReqX) : (s.setReq i x).dnet = s.dnet := rfl
@[simp] theorem State.setReq_gets (s : State) (i : Nat) (x : ReqX) : (s.setReq i x).gets = s.gets := rfl
@[simp] theorem State.setReq_layout (s : State) (i : Nat) (x : ReqX) : (s.setReq i x).layout = s.layout := rfl
@[simp] theorem State.setReq_msi (s : State) (i : Nat) (x : ReqX) : (s.setReq i x).msi = s.msi := rfl
@[simp] theorem State.setReq_ports (s : State) (i : Nat) (x : ReqX) : (s.setReq i x).ports = s.ports := rfl
@[simp] theorem State.setReq_breaks (s : State) (i : Nat) (x : ReqX) : (s.setReq i x).breaks = s.breaks := rfl
@[simp] theorem State.setReq_sent (s : State) (i : Nat) (x : ReqX) : (s.setReq i x).sent = s.sent := rfl
@[simp] theorem State.setReq_retired (s : State) (i : Nat) (x : ReqX) : (s.setReq i x).retired = s.retired := rfl
@[simp] theorem State.setReq_geom (s : State) (i : Nat) (x : ReqX) : (s.setReq i x).geom = s.geom := rfl
@[simp] theorem State.setReq_passes (s : State) (i : Nat) (x : ReqX) : (s.setReq i x).passes = s.passes := rfl
@[simp] theorem State.setReq_packDue (s : State) (i : Nat) (x : ReqX) : (s.setReq i x).packDue = s.packDue := rfl
@[simp] theorem State.setReq_closed (s : State) (i : Nat) (x : ReqX) : (s.setReq i x).closed = s.closed := rfl
@[simp] theorem State.setReq_order (s : State) (i : Nat) (x : ReqX) : (s.setReq i x).order = s.order := rfl
@[simp] theorem State.setReq_dests (s : State) (i : Nat) (x : ReqX) : (s.setReq i x).dests = s.dests := rfl
@[simp] theorem State.setReq_pfcPaused (s : State) (i : Nat) (x : ReqX) : (s.setReq i x).pfcPaused = s.pfcPaused := rfl
@[simp] theorem State.setReq_tenant (s : State) (i : Nat) (x : ReqX) : (s.setReq i x).tenant = s.tenant := rfl
@[simp] theorem State.setReq_fills (s : State) (i : Nat) (x : ReqX) : (s.setReq i x).fills = s.fills := rfl
@[simp] theorem State.setReq_budgetRem (s : State) (i : Nat) (x : ReqX) : (s.setReq i x).budgetRem = s.budgetRem := rfl
@[simp] theorem State.setReq_duty (s : State) (i : Nat) (x : ReqX) : (s.setReq i x).duty = s.duty := rfl
@[simp] theorem State.setReq_dutyWant (s : State) (i : Nat) (x : ReqX) : (s.setReq i x).dutyWant = s.dutyWant := rfl
@[simp] theorem State.setReq_mboxFunc (s : State) (i : Nat) (x : ReqX) : (s.setReq i x).mboxFunc = s.mboxFunc := rfl
@[simp] theorem State.setReq_getRetry (s : State) (i : Nat) (x : ReqX) : (s.setReq i x).getRetry = s.getRetry := rfl
@[simp] theorem State.setReq_bpresLost (s : State) (i : Nat) (x : ReqX) : (s.setReq i x).bpresLost = s.bpresLost := rfl
@[simp] theorem State.setReq_slowBy (s : State) (i : Nat) (x : ReqX) : (s.setReq i x).slowBy = s.slowBy := rfl
@[simp] theorem State.setReq_numVfs (s : State) (i : Nat) (x : ReqX) : (s.setReq i x).numVfs = s.numVfs := rfl
@[simp] theorem State.setReq_vfEnable (s : State) (i : Nat) (x : ReqX) : (s.setReq i x).vfEnable = s.vfEnable := rfl
@[simp] theorem State.setReq_rings (s : State) (i : Nat) (x : ReqX) : (s.setReq i x).rings = s.rings := rfl
@[simp] theorem State.setReq_ringTurn (s : State) (i : Nat) (x : ReqX) : (s.setReq i x).ringTurn = s.ringTurn := rfl
@[simp] theorem State.setReq_shWin (s : State) (i : Nat) (x : ReqX) : (s.setReq i x).shWin = s.shWin := rfl
@[simp] theorem State.setReq_launches (s : State) (i : Nat) (x : ReqX) : (s.setReq i x).launches = s.launches := rfl
@[simp] theorem State.setReq_ops (s : State) (i : Nat) (x : ReqX) : (s.setReq i x).ops = s.ops := rfl
@[simp] theorem State.setReq_msixTab (s : State) (i : Nat) (x : ReqX) : (s.setReq i x).msixTab = s.msixTab := rfl
@[simp] theorem State.setReq_boot (s : State) (i : Nat) (x : ReqX) : (s.setReq i x).boot = s.boot := rfl
@[simp] theorem State.setReq_doms (s : State) (i : Nat) (x : ReqX) : (s.setReq i x).doms = s.doms := rfl
@[simp] theorem State.setReq_relaying (s : State) (i : Nat) (x : ReqX) : (s.setReq i x).relaying = s.relaying := rfl
@[simp] theorem State.setReq_sec (s : State) (i : Nat) (x : ReqX) : (s.setReq i x).sec = s.sec := rfl
@[simp] theorem State.setReq_pwr (s : State) (i : Nat) (x : ReqX) : (s.setReq i x).pwr = s.pwr := rfl
@[simp] theorem State.setReq_pcFailed (s : State) (i : Nat) (x : ReqX) : (s.setReq i x).pcFailed = s.pcFailed := rfl
@[simp] theorem State.setReq_lastSync (s : State) (i : Nat) (x : ReqX) : (s.setReq i x).lastSync = s.lastSync := rfl
@[simp] theorem State.setReq_stepped (s : State) (i : Nat) (x : ReqX) : (s.setReq i x).stepped = s.stepped := rfl
@[simp] theorem State.setReq_mgmtStatus (s : State) (i : Nat) (x : ReqX) : (s.setReq i x).mgmtStatus = s.mgmtStatus := rfl
@[simp] theorem State.setReq_tapStatus (s : State) (i : Nat) (x : ReqX) : (s.setReq i x).tapStatus = s.tapStatus := rfl
@[simp] theorem State.setReq_tapData (s : State) (i : Nat) (x : ReqX) : (s.setReq i x).tapData = s.tapData := rfl
@[simp] theorem State.setReq_tapUnlocked (s : State) (i : Nat) (x : ReqX) : (s.setReq i x).tapUnlocked = s.tapUnlocked := rfl
@[simp] theorem State.setReq_regOut (s : State) (i : Nat) (x : ReqX) : (s.setReq i x).regOut = s.regOut := rfl
@[simp] theorem State.setReq_bw (s : State) (i : Nat) (x : ReqX) : (s.setReq i x).bw = s.bw := rfl
@[simp] theorem State.setReq_dumpSeq (s : State) (i : Nat) (x : ReqX) : (s.setReq i x).dumpSeq = s.dumpSeq := rfl
@[simp] theorem State.setReq_free (s : State) (i : Nat) (x : ReqX) : (s.setReq i x).free = s.free := rfl

@[simp] theorem State.setDest_pending (s : State) (d : Nat) (x : DestX) : (s.setDest d x).pending = s.pending := rfl
@[simp] theorem State.setDest_regs (s : State) (d : Nat) (x : DestX) : (s.setDest d x).regs = s.regs := rfl
@[simp] theorem State.setDest_live (s : State) (d : Nat) (x : DestX) : (s.setDest d x).live = s.live := rfl
@[simp] theorem State.setDest_mem (s : State) (d : Nat) (x : DestX) : (s.setDest d x).mem = s.mem := rfl
@[simp] theorem State.setDest_poison (s : State) (d : Nat) (x : DestX) : (s.setDest d x).poison = s.poison := rfl
@[simp] theorem State.setDest_host (s : State) (d : Nat) (x : DestX) : (s.setDest d x).host = s.host := rfl
@[simp] theorem State.setDest_flash (s : State) (d : Nat) (x : DestX) : (s.setDest d x).flash = s.flash := rfl
@[simp] theorem State.setDest_sram (s : State) (d : Nat) (x : DestX) : (s.setDest d x).sram = s.sram := rfl
@[simp] theorem State.setDest_prog (s : State) (d : Nat) (x : DestX) : (s.setDest d x).prog = s.prog := rfl
@[simp] theorem State.setDest_curd (s : State) (d : Nat) (x : DestX) : (s.setDest d x).curd = s.curd := rfl
@[simp] theorem State.setDest_vats (s : State) (d : Nat) (x : DestX) : (s.setDest d x).vats = s.vats := rfl
@[simp] theorem State.setDest_dirty (s : State) (d : Nat) (x : DestX) : (s.setDest d x).dirty = s.dirty := rfl
@[simp] theorem State.setDest_withdrawn (s : State) (d : Nat) (x : DestX) : (s.setDest d x).withdrawn = s.withdrawn := rfl
@[simp] theorem State.setDest_claims (s : State) (d : Nat) (x : DestX) : (s.setDest d x).claims = s.claims := rfl
@[simp] theorem State.setDest_streams (s : State) (d : Nat) (x : DestX) : (s.setDest d x).streams = s.streams := rfl
@[simp] theorem State.setDest_tags (s : State) (d : Nat) (x : DestX) : (s.setDest d x).tags = s.tags := rfl
@[simp] theorem State.setDest_tagWait (s : State) (d : Nat) (x : DestX) : (s.setDest d x).tagWait = s.tagWait := rfl
@[simp] theorem State.setDest_tagTurn (s : State) (d : Nat) (x : DestX) : (s.setDest d x).tagTurn = s.tagTurn := rfl
@[simp] theorem State.setDest_dnet (s : State) (d : Nat) (x : DestX) : (s.setDest d x).dnet = s.dnet := rfl
@[simp] theorem State.setDest_gets (s : State) (d : Nat) (x : DestX) : (s.setDest d x).gets = s.gets := rfl
@[simp] theorem State.setDest_layout (s : State) (d : Nat) (x : DestX) : (s.setDest d x).layout = s.layout := rfl
@[simp] theorem State.setDest_msi (s : State) (d : Nat) (x : DestX) : (s.setDest d x).msi = s.msi := rfl
@[simp] theorem State.setDest_ports (s : State) (d : Nat) (x : DestX) : (s.setDest d x).ports = s.ports := rfl
@[simp] theorem State.setDest_breaks (s : State) (d : Nat) (x : DestX) : (s.setDest d x).breaks = s.breaks := rfl
@[simp] theorem State.setDest_sent (s : State) (d : Nat) (x : DestX) : (s.setDest d x).sent = s.sent := rfl
@[simp] theorem State.setDest_retired (s : State) (d : Nat) (x : DestX) : (s.setDest d x).retired = s.retired := rfl
@[simp] theorem State.setDest_geom (s : State) (d : Nat) (x : DestX) : (s.setDest d x).geom = s.geom := rfl
@[simp] theorem State.setDest_reqs (s : State) (d : Nat) (x : DestX) : (s.setDest d x).reqs = s.reqs := rfl
@[simp] theorem State.setDest_passes (s : State) (d : Nat) (x : DestX) : (s.setDest d x).passes = s.passes := rfl
@[simp] theorem State.setDest_packDue (s : State) (d : Nat) (x : DestX) : (s.setDest d x).packDue = s.packDue := rfl
@[simp] theorem State.setDest_closed (s : State) (d : Nat) (x : DestX) : (s.setDest d x).closed = s.closed := rfl
@[simp] theorem State.setDest_order (s : State) (d : Nat) (x : DestX) : (s.setDest d x).order = s.order := rfl
@[simp] theorem State.setDest_pfcPaused (s : State) (d : Nat) (x : DestX) : (s.setDest d x).pfcPaused = s.pfcPaused := rfl
@[simp] theorem State.setDest_tenant (s : State) (d : Nat) (x : DestX) : (s.setDest d x).tenant = s.tenant := rfl
@[simp] theorem State.setDest_fills (s : State) (d : Nat) (x : DestX) : (s.setDest d x).fills = s.fills := rfl
@[simp] theorem State.setDest_budgetRem (s : State) (d : Nat) (x : DestX) : (s.setDest d x).budgetRem = s.budgetRem := rfl
@[simp] theorem State.setDest_duty (s : State) (d : Nat) (x : DestX) : (s.setDest d x).duty = s.duty := rfl
@[simp] theorem State.setDest_dutyWant (s : State) (d : Nat) (x : DestX) : (s.setDest d x).dutyWant = s.dutyWant := rfl
@[simp] theorem State.setDest_mboxFunc (s : State) (d : Nat) (x : DestX) : (s.setDest d x).mboxFunc = s.mboxFunc := rfl
@[simp] theorem State.setDest_getRetry (s : State) (d : Nat) (x : DestX) : (s.setDest d x).getRetry = s.getRetry := rfl
@[simp] theorem State.setDest_bpresLost (s : State) (d : Nat) (x : DestX) : (s.setDest d x).bpresLost = s.bpresLost := rfl
@[simp] theorem State.setDest_slowBy (s : State) (d : Nat) (x : DestX) : (s.setDest d x).slowBy = s.slowBy := rfl
@[simp] theorem State.setDest_numVfs (s : State) (d : Nat) (x : DestX) : (s.setDest d x).numVfs = s.numVfs := rfl
@[simp] theorem State.setDest_vfEnable (s : State) (d : Nat) (x : DestX) : (s.setDest d x).vfEnable = s.vfEnable := rfl
@[simp] theorem State.setDest_rings (s : State) (d : Nat) (x : DestX) : (s.setDest d x).rings = s.rings := rfl
@[simp] theorem State.setDest_ringTurn (s : State) (d : Nat) (x : DestX) : (s.setDest d x).ringTurn = s.ringTurn := rfl
@[simp] theorem State.setDest_shWin (s : State) (d : Nat) (x : DestX) : (s.setDest d x).shWin = s.shWin := rfl
@[simp] theorem State.setDest_launches (s : State) (d : Nat) (x : DestX) : (s.setDest d x).launches = s.launches := rfl
@[simp] theorem State.setDest_ops (s : State) (d : Nat) (x : DestX) : (s.setDest d x).ops = s.ops := rfl
@[simp] theorem State.setDest_msixTab (s : State) (d : Nat) (x : DestX) : (s.setDest d x).msixTab = s.msixTab := rfl
@[simp] theorem State.setDest_boot (s : State) (d : Nat) (x : DestX) : (s.setDest d x).boot = s.boot := rfl
@[simp] theorem State.setDest_doms (s : State) (d : Nat) (x : DestX) : (s.setDest d x).doms = s.doms := rfl
@[simp] theorem State.setDest_relaying (s : State) (d : Nat) (x : DestX) : (s.setDest d x).relaying = s.relaying := rfl
@[simp] theorem State.setDest_sec (s : State) (d : Nat) (x : DestX) : (s.setDest d x).sec = s.sec := rfl
@[simp] theorem State.setDest_pwr (s : State) (d : Nat) (x : DestX) : (s.setDest d x).pwr = s.pwr := rfl
@[simp] theorem State.setDest_pcFailed (s : State) (d : Nat) (x : DestX) : (s.setDest d x).pcFailed = s.pcFailed := rfl
@[simp] theorem State.setDest_lastSync (s : State) (d : Nat) (x : DestX) : (s.setDest d x).lastSync = s.lastSync := rfl
@[simp] theorem State.setDest_stepped (s : State) (d : Nat) (x : DestX) : (s.setDest d x).stepped = s.stepped := rfl
@[simp] theorem State.setDest_mgmtStatus (s : State) (d : Nat) (x : DestX) : (s.setDest d x).mgmtStatus = s.mgmtStatus := rfl
@[simp] theorem State.setDest_tapStatus (s : State) (d : Nat) (x : DestX) : (s.setDest d x).tapStatus = s.tapStatus := rfl
@[simp] theorem State.setDest_tapData (s : State) (d : Nat) (x : DestX) : (s.setDest d x).tapData = s.tapData := rfl
@[simp] theorem State.setDest_tapUnlocked (s : State) (d : Nat) (x : DestX) : (s.setDest d x).tapUnlocked = s.tapUnlocked := rfl
@[simp] theorem State.setDest_regOut (s : State) (d : Nat) (x : DestX) : (s.setDest d x).regOut = s.regOut := rfl
@[simp] theorem State.setDest_bw (s : State) (d : Nat) (x : DestX) : (s.setDest d x).bw = s.bw := rfl
@[simp] theorem State.setDest_dumpSeq (s : State) (d : Nat) (x : DestX) : (s.setDest d x).dumpSeq = s.dumpSeq := rfl
@[simp] theorem State.setDest_free (s : State) (d : Nat) (x : DestX) : (s.setDest d x).free = s.free := rfl

@[simp] theorem State.setPort_pending (s : State) (p : Nat) (x : PortX) : (s.setPort p x).pending = s.pending := rfl
@[simp] theorem State.setPort_regs (s : State) (p : Nat) (x : PortX) : (s.setPort p x).regs = s.regs := rfl
@[simp] theorem State.setPort_live (s : State) (p : Nat) (x : PortX) : (s.setPort p x).live = s.live := rfl
@[simp] theorem State.setPort_mem (s : State) (p : Nat) (x : PortX) : (s.setPort p x).mem = s.mem := rfl
@[simp] theorem State.setPort_poison (s : State) (p : Nat) (x : PortX) : (s.setPort p x).poison = s.poison := rfl
@[simp] theorem State.setPort_host (s : State) (p : Nat) (x : PortX) : (s.setPort p x).host = s.host := rfl
@[simp] theorem State.setPort_flash (s : State) (p : Nat) (x : PortX) : (s.setPort p x).flash = s.flash := rfl
@[simp] theorem State.setPort_sram (s : State) (p : Nat) (x : PortX) : (s.setPort p x).sram = s.sram := rfl
@[simp] theorem State.setPort_prog (s : State) (p : Nat) (x : PortX) : (s.setPort p x).prog = s.prog := rfl
@[simp] theorem State.setPort_curd (s : State) (p : Nat) (x : PortX) : (s.setPort p x).curd = s.curd := rfl
@[simp] theorem State.setPort_vats (s : State) (p : Nat) (x : PortX) : (s.setPort p x).vats = s.vats := rfl
@[simp] theorem State.setPort_dirty (s : State) (p : Nat) (x : PortX) : (s.setPort p x).dirty = s.dirty := rfl
@[simp] theorem State.setPort_withdrawn (s : State) (p : Nat) (x : PortX) : (s.setPort p x).withdrawn = s.withdrawn := rfl
@[simp] theorem State.setPort_claims (s : State) (p : Nat) (x : PortX) : (s.setPort p x).claims = s.claims := rfl
@[simp] theorem State.setPort_streams (s : State) (p : Nat) (x : PortX) : (s.setPort p x).streams = s.streams := rfl
@[simp] theorem State.setPort_tags (s : State) (p : Nat) (x : PortX) : (s.setPort p x).tags = s.tags := rfl
@[simp] theorem State.setPort_tagWait (s : State) (p : Nat) (x : PortX) : (s.setPort p x).tagWait = s.tagWait := rfl
@[simp] theorem State.setPort_tagTurn (s : State) (p : Nat) (x : PortX) : (s.setPort p x).tagTurn = s.tagTurn := rfl
@[simp] theorem State.setPort_dnet (s : State) (p : Nat) (x : PortX) : (s.setPort p x).dnet = s.dnet := rfl
@[simp] theorem State.setPort_gets (s : State) (p : Nat) (x : PortX) : (s.setPort p x).gets = s.gets := rfl
@[simp] theorem State.setPort_layout (s : State) (p : Nat) (x : PortX) : (s.setPort p x).layout = s.layout := rfl
@[simp] theorem State.setPort_msi (s : State) (p : Nat) (x : PortX) : (s.setPort p x).msi = s.msi := rfl
@[simp] theorem State.setPort_breaks (s : State) (p : Nat) (x : PortX) : (s.setPort p x).breaks = s.breaks := rfl
@[simp] theorem State.setPort_sent (s : State) (p : Nat) (x : PortX) : (s.setPort p x).sent = s.sent := rfl
@[simp] theorem State.setPort_retired (s : State) (p : Nat) (x : PortX) : (s.setPort p x).retired = s.retired := rfl
@[simp] theorem State.setPort_geom (s : State) (p : Nat) (x : PortX) : (s.setPort p x).geom = s.geom := rfl
@[simp] theorem State.setPort_reqs (s : State) (p : Nat) (x : PortX) : (s.setPort p x).reqs = s.reqs := rfl
@[simp] theorem State.setPort_passes (s : State) (p : Nat) (x : PortX) : (s.setPort p x).passes = s.passes := rfl
@[simp] theorem State.setPort_packDue (s : State) (p : Nat) (x : PortX) : (s.setPort p x).packDue = s.packDue := rfl
@[simp] theorem State.setPort_closed (s : State) (p : Nat) (x : PortX) : (s.setPort p x).closed = s.closed := rfl
@[simp] theorem State.setPort_order (s : State) (p : Nat) (x : PortX) : (s.setPort p x).order = s.order := rfl
@[simp] theorem State.setPort_dests (s : State) (p : Nat) (x : PortX) : (s.setPort p x).dests = s.dests := rfl
@[simp] theorem State.setPort_pfcPaused (s : State) (p : Nat) (x : PortX) : (s.setPort p x).pfcPaused = s.pfcPaused := rfl
@[simp] theorem State.setPort_tenant (s : State) (p : Nat) (x : PortX) : (s.setPort p x).tenant = s.tenant := rfl
@[simp] theorem State.setPort_fills (s : State) (p : Nat) (x : PortX) : (s.setPort p x).fills = s.fills := rfl
@[simp] theorem State.setPort_budgetRem (s : State) (p : Nat) (x : PortX) : (s.setPort p x).budgetRem = s.budgetRem := rfl
@[simp] theorem State.setPort_duty (s : State) (p : Nat) (x : PortX) : (s.setPort p x).duty = s.duty := rfl
@[simp] theorem State.setPort_dutyWant (s : State) (p : Nat) (x : PortX) : (s.setPort p x).dutyWant = s.dutyWant := rfl
@[simp] theorem State.setPort_mboxFunc (s : State) (p : Nat) (x : PortX) : (s.setPort p x).mboxFunc = s.mboxFunc := rfl
@[simp] theorem State.setPort_getRetry (s : State) (p : Nat) (x : PortX) : (s.setPort p x).getRetry = s.getRetry := rfl
@[simp] theorem State.setPort_bpresLost (s : State) (p : Nat) (x : PortX) : (s.setPort p x).bpresLost = s.bpresLost := rfl
@[simp] theorem State.setPort_slowBy (s : State) (p : Nat) (x : PortX) : (s.setPort p x).slowBy = s.slowBy := rfl
@[simp] theorem State.setPort_numVfs (s : State) (p : Nat) (x : PortX) : (s.setPort p x).numVfs = s.numVfs := rfl
@[simp] theorem State.setPort_vfEnable (s : State) (p : Nat) (x : PortX) : (s.setPort p x).vfEnable = s.vfEnable := rfl
@[simp] theorem State.setPort_rings (s : State) (p : Nat) (x : PortX) : (s.setPort p x).rings = s.rings := rfl
@[simp] theorem State.setPort_ringTurn (s : State) (p : Nat) (x : PortX) : (s.setPort p x).ringTurn = s.ringTurn := rfl
@[simp] theorem State.setPort_shWin (s : State) (p : Nat) (x : PortX) : (s.setPort p x).shWin = s.shWin := rfl
@[simp] theorem State.setPort_launches (s : State) (p : Nat) (x : PortX) : (s.setPort p x).launches = s.launches := rfl
@[simp] theorem State.setPort_ops (s : State) (p : Nat) (x : PortX) : (s.setPort p x).ops = s.ops := rfl
@[simp] theorem State.setPort_msixTab (s : State) (p : Nat) (x : PortX) : (s.setPort p x).msixTab = s.msixTab := rfl
@[simp] theorem State.setPort_boot (s : State) (p : Nat) (x : PortX) : (s.setPort p x).boot = s.boot := rfl
@[simp] theorem State.setPort_doms (s : State) (p : Nat) (x : PortX) : (s.setPort p x).doms = s.doms := rfl
@[simp] theorem State.setPort_relaying (s : State) (p : Nat) (x : PortX) : (s.setPort p x).relaying = s.relaying := rfl
@[simp] theorem State.setPort_sec (s : State) (p : Nat) (x : PortX) : (s.setPort p x).sec = s.sec := rfl
@[simp] theorem State.setPort_pwr (s : State) (p : Nat) (x : PortX) : (s.setPort p x).pwr = s.pwr := rfl
@[simp] theorem State.setPort_pcFailed (s : State) (p : Nat) (x : PortX) : (s.setPort p x).pcFailed = s.pcFailed := rfl
@[simp] theorem State.setPort_lastSync (s : State) (p : Nat) (x : PortX) : (s.setPort p x).lastSync = s.lastSync := rfl
@[simp] theorem State.setPort_stepped (s : State) (p : Nat) (x : PortX) : (s.setPort p x).stepped = s.stepped := rfl
@[simp] theorem State.setPort_mgmtStatus (s : State) (p : Nat) (x : PortX) : (s.setPort p x).mgmtStatus = s.mgmtStatus := rfl
@[simp] theorem State.setPort_tapStatus (s : State) (p : Nat) (x : PortX) : (s.setPort p x).tapStatus = s.tapStatus := rfl
@[simp] theorem State.setPort_tapData (s : State) (p : Nat) (x : PortX) : (s.setPort p x).tapData = s.tapData := rfl
@[simp] theorem State.setPort_tapUnlocked (s : State) (p : Nat) (x : PortX) : (s.setPort p x).tapUnlocked = s.tapUnlocked := rfl
@[simp] theorem State.setPort_regOut (s : State) (p : Nat) (x : PortX) : (s.setPort p x).regOut = s.regOut := rfl
@[simp] theorem State.setPort_bw (s : State) (p : Nat) (x : PortX) : (s.setPort p x).bw = s.bw := rfl
@[simp] theorem State.setPort_dumpSeq (s : State) (p : Nat) (x : PortX) : (s.setPort p x).dumpSeq = s.dumpSeq := rfl
@[simp] theorem State.setPort_free (s : State) (p : Nat) (x : PortX) : (s.setPort p x).free = s.free := rfl

end Sys2Proof.Machine
end

