-- ==== Sys2Proof/Tests/Slice0.lean ====
section
/-! SUPPORT. The model's own tests: ill-formed commands, worked examples of the spec and published vectors, and for
every statement with hypotheses a theorem with states and operands that meet them. -/

namespace Sys2Proof.Tests
open Sys2Proof.Machine

set_option Elab.async false
set_option linter.unusedVariables false

/-! Ill-formed commands: one for each check, refused by `Instr.wf`, and a fault in `exec`. -/

/-- `c` is ill-formed and stops. -/
def stops (c : Instr) : Bool :=
  !c.wf && match exec c State.reset with
    | .fault .illFormed => true
    | _ => false

theorem test_wf_power : stops (.powerEvaluation [1, 2, 3] 0 0 0 0 true) = true := by decide +kernel
theorem test_wf_calibration : stops (.calibration [] 0 false) = true := by decide +kernel
theorem test_wf_thermal : stops (.thermalSample [0, 0]) = true := by decide +kernel
theorem test_wf_bar2Read : stops (.bar2Read 0 4095 2) = true := by decide +kernel
theorem test_wf_bar2Write : stops (.bar2Write 0 0 []) = true := by decide +kernel
theorem test_wf_unlock : stops (.tapUnlock [0]) = true := by decide +kernel
theorem test_wf_registerWrite :
    stops (.registerWrite ⟨[⟨.tap, 0, 8, 0⟩, ⟨.tap, 8, 8, 0⟩], []⟩) = true := by decide +kernel
theorem test_wf_good : Instr.wf (.powerEvaluation [1, 2, 3, 4, 5] 0 0 0 0 true) = true := by decide
/-- The table gives its rows no bits. -/
theorem test_no_words (n w : Nat) : decodeTableWord n w = none := rfl

/-! Worked examples of the spec (files 02, 12) and published vectors (FIPS 197, FIPS 180-4). -/

/-- C8 element 0x6E with fine scale 0x3F is BF16 0x3F52. -/
theorem test_c8_element : decodeWeight .c8 0x6E 0x3F = 0x3F52 := by decide +kernel
/-- PAIR16 of 0x3FAA_AAAB is 0x3FAB and 0xBB2B. -/
theorem test_pair_split : (pairSplit 0x3FAAAAAB).1 = 0x3FAB ∧ (pairSplit 0x3FAAAAAB).2.1 = 0xBB2B := by decide +kernel
/-- Its sub-pass products, and their sum with B and C. -/
theorem test_pair_products :
    (prod fmtBF16 0x3FAB 0x3FAB).1 = 0x3FE47200 ∧ (prod fmtBF16 0x3FAB 0xBB2B).1 = 0xBB647200 ∧
    (fAdd (fAdd 0x3FE47200 0xBB647200).1 0xBB647200).1 = 0x3FE38D8E := by decide +kernel
/-- The pieces of 0x3FAA_AAAB by RTZ. -/
theorem test_split_pieces :
    (cvt fmtBF16 .rtz 0x3FAAAAAB).1 = 0x3FAA ∧
    (cvt fmtBF16 .rtz (fSub 0x3FAAAAAB 0x3FAA0000).1).1 = 0x3BAA ∧
    (cvt fmtBF16 .rtz (fSub (fSub 0x3FAAAAAB 0x3FAA0000).1 0x3BAA0000).1).1 = 0x37AB := by decide +kernel
/-- Step 3 of the Sheaf example: block 0 of rank 2 has exponent 128 and significand 24,576. -/
theorem test_s16_block :
    s16Pack (0x40400004 :: List.replicate 31 0) = (128, 24576 :: List.replicate 31 0, 0) := by decide +kernel
/-- Rank 0 adds what it decodes. -/
theorem test_s16_add : (fAdd 0x3F800008 (s16Elem 128 24576)).1 = 0x40800002 := by decide +kernel
/-- The tree of that example: 1 sends to 0, 3 to 2 and 2 to 0. -/
theorem test_sheaf_tree : [0, 1, 2, 3].map (treeParent [2, 2]) = [none, some 0, some 0, some 2] := by decide
/-- FIPS 197, appendix C.3, backwards. -/
theorem test_aes256 : aesDecrypt (beBytes 32 0x000102030405060708090a0b0c0d0e0f101112131415161718191a1b1c1d1e1f)
    (beBytes 16 0x8ea2b7ca516745bfeafc49904b496089) = beBytes 16 0x00112233445566778899aabbccddeeff := by decide +kernel
/-- R591: 0x1001_6989. -/
theorem test_idcode : tapIdcode = 0x10016989 := by decide
/-- SHA-384 of the message abc. -/
theorem test_sha384 : sha384 [0x61, 0x62, 0x63] = beBytes 48
    0xcb00753f45a35e8bb5a03d699ac65007272c32ab0eded1631a8b605a43ff5bed8086072ba1e7cc2358baeca134c825a7 := by
  decide +kernel

/-! States that meet the statements' hypotheses. -/


/-- A state with these fields set. -/
def sets (s : State) (l : List (Reg × Fld × Nat)) : State := l.foldl (fun s x => s.put x.1 x.2.1 x.2.2) s

/-- The module released, nothing loaded. -/
def up : State :=
  { State.reset with
    boot := { input := true, granted := true, good := true, phase := 5, level := none }
    doms := p0Doms ++ p3Doms ++ (List.range 18).flatMap vatDoms }

/-- Logical Vat 0 at position 0 in partition 0, its bank groups owned and ON, module memory from 0 its partition's;
contexts 0 in RUN. -/
def vat : State :=
  sets { up with layout := { parts := [(0, { vats := 1, groups := 15, regions := [{ kind := 1, base := 0, size := 0x100000 }] })] } }
    [(.GLB_VAT_MAP_LO, mapValid 0, 1), (.VAT_STATUS 0, VAT_STATUS.STATE, vsRun), (.VAT_STATUS 0, VAT_STATUS.CTX_VALID, 1),
     (.VAT_CTX_STATUS 0 0, VAT_CTX_STATUS.STATE, csRun),
     (.CELLAR_GROUP_CTRL 0, ownedFld 0, 1), (.CELLAR_GROUP_CTRL 0, pwrFld 0, 1), (.CELLAR_STATUS 0, gsFld 0, gsOn)]

/-- The same with this word at address 0 and these fields set. -/
def ins (op w : Nat) (l : List (Reg × Fld × Nat) := []) : State :=
  let s := sets vat l
  { s with prog := [(s.pc 0 0, BitVec.ofNat 128 (op * 2 ^ 120 + w))] }

/-- Parameter slot `n`. -/
def ps (n x : Nat) : Reg × Fld × Nat := (.VAT_CTX_PS 0 0 n, VAT_CTX_PS.VALUE, x)
/-- A pause of context 0 waits for its boundary. -/
def pausing : Reg × Fld × Nat := (.VAT_CTX_CTRL 0 0, VAT_CTX_CTRL.PAUSE, 1)
/-- Checks off unless an instruction asks. -/
def chkOff : Reg × Fld × Nat := (.VAT_CHK_CTRL 0, VAT_CHK_CTRL.POLICY, 1)
/-- A run with no fault that leaves at no boundary. -/
def run0 : Run := { leave := none, faults := [] }
/-- The context to run in, its slots pointing at different banks. -/
def slots4 : List (Reg × Fld × Nat) := [ps 0 0, ps 1 1024, ps 2 2048, ps 3 3072, ps 4 4096, ps 5 5120]

/-- Instruction words without the opcode: one token, one K position, one column. -/
def wTile : Nat := 2 ^ 96 + 2 ^ 83 + 2 ^ 72 + 1 * 2 ^ 60 + 2 * 2 ^ 54 + 3 * 2 ^ 48 + 2 * 2 ^ 44
def wMould : Nat := 2 ^ 97 + 2 ^ 88
def wPress : Nat := 1 * 2 ^ 106 + 2 ^ 93
def wDrain : Nat := 2 * 2 ^ 106 + 3 * 2 ^ 100 + 2 ^ 61 + 2 * 2 ^ 112
def wFill : Nat := 2 * 2 ^ 106 + 2 ^ 87 + 2 ^ 61 + 2 * 2 ^ 112
def wAttn : Nat := 0 * 2 ^ 106 + 1 * 2 ^ 100 + 2 * 2 ^ 94 + 3 * 2 ^ 88 + 4 * 2 ^ 82 + 9 * 2 ^ 76 + 2 ^ 51 + 2 ^ 29
def wRind : Nat := 7 * 2 ^ 104 + 0 * 2 ^ 98 + 2 * 2 ^ 80 + 2 * 2 ^ 76 + 2 ^ 60 + 2 ^ 50 + 3 * 2 ^ 43 + 2 * 2 ^ 112
def wSkim : Nat := 0 * 2 ^ 106 + 1 * 2 ^ 100 + 2 * 2 ^ 94 + 2 ^ 77
/-- A Vat whose Mould holds one column of one position. -/
def moulded : State :=
  vat.setVat 0 { mould := some { fmt := 0, kv := 1, cols := [0x3F80 :: List.replicate 255 0] }, moulded := true }
def insM (op w : Nat) (l : List (Reg × Fld × Nat) := []) : State :=
  let s := sets moulded l
  { s with prog := [(s.pc 0 0, BitVec.ofNat 128 (op * 2 ^ 120 + w))] }
def attnSlots : List (Reg × Fld × Nat) := [ps 0 0, ps 1 1024, ps 2 2048, ps 3 3072, ps 4 0, ps 5 4096, ps 8 0, ps 9 0]

/-- A check that compares equal sums. -/
def chk0 : Check := { got := 0, ref := 0, t := 0 }
/-- A check that fails: 1.0 against 0 with magnitude 0. -/
def chk1 : Check := { got := 0x3F800000, ref := 0, t := 0 }
def seg0 : Segment := { ctx := 0, first := { tokens := [(0, 0, chk0)], rows := [] }, again := { tokens := [], rows := [] },
                        writes := [{ slot := 4095, col := 255, val := 5, how := 3 }, { slot := 0, col := 0, val := 7, how := 0 },
                                  { slot := 7, col := 1, val := 5, how := 2 }, { slot := 9, col := 3, val := 5, how := 1 }], flags := 1 }
def seg1 : Segment := { seg0 with first := { tokens := [(0, 0, chk1)], rows := [] } }
def seg3 : Segment := { seg1 with again := { tokens := [], rows := [(3, 258, chk1), (0, 0, chk1)] } }
def seg2 : Segment := { seg1 with again := { tokens := [(0, 0, chk1)], rows := [] } }

/-- Context 0 of the Vat in this state. -/
def ctxIn (st : Nat) (l : List (Reg × Fld × Nat) := []) : State := sets vat ((.VAT_CTX_STATUS 0 0, VAT_CTX_STATUS.STATE, st) :: l)
/-- A batch of the context that nobody has taken up. -/
def batchOf (s : State) : State := { s with streams := [(0, { queue := [{ hdr := 0, ctx := 0 }] })] }
def aborting : State := vat.setVat 0 { aborts := [0] }
def zeroing : State := vat.setVat 0 { zeroing := true }
/-- The context waits in a SEMW of FULL 3 for 7, that has come. -/
def semWait (full : Nat) (strict : Bool) : State :=
  sets (ins opSemw (3 * 2 ^ 102 + 2 ^ 69 + 7 * 2 ^ 70))
    [(.VAT_CTX_STATUS 0 0, VAT_CTX_STATUS.STATE, csWait), (.VAT_CTX_STATUS 0 0, VAT_CTX_STATUS.WAIT_ON, 1),
     (.VAT_SEM_FULL 0 3, semFld, full), (.VAT_STATUS 0, VAT_STATUS.STREAM_MODE, strict.toNat)]
def withDesc (s : State) (d : Desc) : State := { s with streams := [(5, { queue := [{ hdr := 0, ctx := 0, fetched := true, count := 1 }], descs := [d] })] }
def bytesWith (l : List (Nat × Byte)) : List Byte := (List.range 64).map fun i => ((l.find? fun x => x.1 = i).map (·.2)).getD 0
def dArr : Desc := { idx := 0, bytes := bytesWith [(40, 3), (41, 9), (44, 3)] }
def semStreamSt : State := withDesc (sets vat [(.VAT_ARRIVAL 0 9, semFld, 3)]) dArr
def postSt (kind i val : Nat) (set : Bool) : State :=
  { vat with dnet := [{ src := 6, part := 0, dest := .stop 6, load := .post kind i val set }] }
/-- 64 bytes with numbers of these lengths at these offsets. -/
def field64 (l : List (Nat × Nat × Nat)) : List Byte :=
  l.foldl (fun bs x => bs.take x.1 ++ leBytes x.2.1 x.2.2 ++ bs.drop (x.1 + x.2.1)) (List.replicate 64 0)
/-- A batch whose header lies at 0x40, its descriptors at 0x80. -/
def hdrBytes : List Byte := field64 [(0, 4, hMagic), (4, 2, 1), (6, 1, 1), (8, 8, 0x80)]
def bat0 : Batch := { hdr := 0x40, ctx := 0 }
def bat1 : Batch := { hdr := 0x40, ctx := 0, fetched := true, count := 1, desc := 0x80 }
def dCopy : List Byte := field64 [(0, 1, 1), (8, 4, 64), (12, 4, 1), (16, 8, 0x1000), (24, 8, 0x2000)]
/-- ZERO of row 5 of the Vat's own Cellar, that waits for EMPTY 63 to hold 2 and posts 3 to FULL 0. -/
def dZero : List Byte := field64 [(0, 1, 8), (12, 4, 1), (24, 8, rowAddr 0 5), (40, 1, 2), (41, 1, 63), (44, 4, 2), (48, 1, 1), (52, 4, 3)]
def withStream (s : State) (x : Stream) : State := { s with streams := [(7, x)] }
def hdrSt : State := (withStream vat { queue := [bat0] }).setBytes 0x40 hdrBytes
def bat2 : Batch := { bat1 with held := [(dCopy, false)] }
def headSt : State := withStream vat { queue := [bat2] }
/-- The eighth descriptor of a burst is about to start; one more of the batch stands in memory. -/
def eighthSt : State := (withStream vat { queue := [{ bat1 with count := 17 }], nextIdx := 8, descs := [{ idx := 7, bytes := dZero, taken := true }] }).setBytes 0x480 dCopy
def startSt (b : List Byte) (taken : Bool) : State :=
  withStream (sets vat [(.VAT_SEM_EMPTY 0 63, semFld, 2)]) { queue := [bat1], nextIdx := 1, descs := [{ idx := 0, bytes := b, taken := taken }] }
def copyD : Desc := { idx := 0, bytes := dCopy, taken := true, started := true }
def copySt : State := (withStream vat { queue := [bat1], nextIdx := 1, descs := [copyD] }).setBytes 0x1000 [1, 2, 3]
def doneD (b : List Byte) (moved : Nat) : Desc := { idx := 0, bytes := b, taken := true, started := true, moved := moved }
def doneSt (b : List Byte) (count next : Nat) : State :=
  withStream vat { queue := [{ bat1 with count := count, next := next }, bat0], nextIdx := 1, descs := [doneD b 1] }
def stoppedSt : State :=
  { withStream vat { queue := [bat1], nextIdx := 1, stopped := true, deadline := 9, descs := [copyD] } with
    claims := [{ v := 0, bank := 0, port := portWagon, holder := .desc 0 7 0 }] }
def pkRow (r : Nat) : DPkt := { src := 6, part := 0, dest := .stop 6, load := .row r (List.replicate 512 7), owner := some (0, 7, 0), tag := some 0 }
def rowTag (r : Nat) : TagUse := { id := 0, owner := some (0, 7, 0), req := .dnet (pkRow r), left := [6] }
def rowSt (r : Nat) : State :=
  { withStream vat { queue := [bat1], nextIdx := 1, descs := [doneD dZero 1] } with
    dnet := [pkRow r], tags := [rowTag r] }
/-- A SEMW that waits for FULL 3, stream 7 bound to the pair. -/
def lateSt (strict : Bool) : State :=
  sets (semWait 6 strict) [(.WAGON_STREAM_CFG 0 7, WAGON_STREAM_CFG.ENABLE, 1), (.WAGON_STREAM_CFG 0 7, WAGON_STREAM_CFG.PAIR, 3)]
/-- The Vat with a group in this state, its PWR bit as given. -/
def grp (g st pwr : Nat) : State := sets vat [(.CELLAR_STATUS 0, gsFld g, st), (.CELLAR_GROUP_CTRL 0, pwrFld g, pwr)]
def copying0 : State := sets vat [(.CELLAR_BANK_MAP 0, bmCopying 3, 1), (.CELLAR_BANK_MAP 0, bmBank 3, 127)]
/-- The packets of the COPY: its read, the answer, its write, the completion; the tag while each is in flight. -/
def cpPkt (src dest : Nat) (l : Load) : DPkt := { src := src, part := 0, dest := .stop dest, load := l, owner := some (0, 7, 0), tag := some 0 }
def cpRead : DPkt := cpPkt 6 2 (.read 0x1000 64)
def cpGot : DPkt := cpPkt 2 6 (.got (List.replicate 64 7) false)
def cpWrite : DPkt := cpPkt 6 4 (.bytes 0x2000 (List.replicate 64 7))
def cpDone : DPkt := cpPkt 4 6 (.done eOk)
def cpTag (p : DPkt) : TagUse := { id := 0, owner := some (0, 7, 0), req := .dnet p, left := p.dest.stops }
def flySt (now : DPkt) (req : DPkt) : State :=
  { (withStream vat { queue := [bat1], nextIdx := 1, descs := [{ copyD with moved := 1 }] }).setBytes 0x1000 [1, 2, 3] with
    dnet := [now], tags := [cpTag req] }
/-- A row that goes to the Vat at position 1, of the same partition, where its banks are ON; its completion; a header lost. -/
def dMc : List Byte := field64 [(0, 1, 8), (12, 4, 1), (24, 8, rowAddr 1 5)]
def twoVats : State :=
  sets vat [(.GLB_VAT_MAP_LO, mapValid 1, 1), (.VAT_STATUS 1, VAT_STATUS.STATE, vsIdle), (.CELLAR_GROUP_CTRL 1, ownedFld 0, 1),
    (.CELLAR_GROUP_CTRL 1, pwrFld 0, 1), (.CELLAR_STATUS 1, gsFld 0, gsOn)]
def pkTo (v r : Nat) : DPkt := { src := 6, part := 0, dest := .stop (6 + v), load := .row r (List.replicate 512 7), owner := some (0, 7, 0), tag := some 0 }
def toTag (v r : Nat) : TagUse := { id := 0, owner := some (0, 7, 0), req := .dnet (pkTo v r), left := [6 + v] }
def toSt (v r : Nat) : State :=
  { withStream twoVats { queue := [bat1], nextIdx := 1, descs := [doneD dMc 1] } with dnet := [pkTo v r], tags := [toTag v r] }
/-- 128 bytes with numbers of these lengths at these offsets. -/
def field128 (l : List (Nat × Nat × Nat)) : List Byte :=
  l.foldl (fun bs x => bs.take x.1 ++ leBytes x.2.1 x.2.2 ++ bs.drop (x.1 + x.2.1)) (List.replicate 128 0)
/-- A request of one position and one token, TAG 9, status word at 0x1000. -/
def reqDesc : List Byte :=
  field128 [(0, 1, 1), (4, 4, 9), (8, 8, 0x1000), (24, 4, 1), (30, 2, 1), (34, 2, 0xFFFF), (36, 2, 0xFFFF), (52, 4, 0x3F800000)]
/-- Ring entries of a kind for TAG 9, completion word at 0x2000. -/
def cmdDesc (kind : Nat) : List Byte := field128 [(0, 1, kind), (4, 4, 9), (8, 8, 0x2000)]
/-- Function 0's ring holds this entry; partition 0 and variant 0 are its own. -/
def ringSt (b : List Byte) : State :=
  (sets vat [(.REEVE_RING_CFG 0, REEVE_RING_CFG.ENABLE, 1), (.REEVE_RING_CFG 0, REEVE_RING_CFG.PARTS, 1),
    (.REEVE_RING_CFG 0, REEVE_RING_CFG.BUDGET_COUNT, 1), (.REEVE_VARIANT_CFG 0, REEVE_VARIANT_CFG.VALID, 1),
    (.REEVE_VARIANT_FUNCS 0, REEVE_VARIANT_FUNCS.FUNCS, 1)]).setRing 0 { prod := 1, cons := 0 } |>.setHost 0 b
/-- What the ring's entry is taken to. -/
def taken (b : List Byte) : State := (((ringSt b).ringTake 0).map Prod.snd).getD up
def req0 (st : Nat) : ReqX := { used := true, desc := reqDesc, st := st, prompt := [5] }
def withReq (s : State) (x : ReqX) : State := s.setReq 4095 x
def cmdSt (kind st from_ : Nat) : State := withReq (ringSt (cmdDesc kind)) { req0 st with from_ := from_ }
def cmdTaken (kind st from_ : Nat) : State := (((cmdSt kind st from_).ringTake 0).map Prod.snd).getD up
/-- A request whose pause has been asked for, alone or in a running pass with its Vat still. -/
def wantSt : State := withReq vat { req0 qsTail with want := some { cpl := some 0x2000 } }
def pass0 : Pass := { seq := 3, members := [(4095, 1), (7, 1)], part := 0, vats := 1, want := true }
def passSt : State :=
  { withReq ((ctxIn csPaused).setReq 7 (req0 qsPrefill)) { req0 qsPrefill with want := some { cpl := some 0x2000 } } with passes := [pass0] }
def spillSt : State :=
  { withReq (sets vat [(.PFX_FUNC_CFG 0, PFX_FUNC_CFG.SPILL_EN, 1), (.PFX_SPILL_SIZE 0, PFX_SPILL_SIZE.SIZE_4K, 1), (.PFX_SPILL_BASE 0, PFX_SPILL_BASE.BASE, 5)])
    (req0 qsPaused) with } |>.wr .GLB_TIME 1000000000
def spill0 (writing : Bool) : Spill := { addr := 0x5000, units := 1, expiry := 0, crc := 0, writing := writing }
def spilled (writing restoring : Bool) : State :=
  withReq vat { req0 (if restoring then qsPrefill else qsPaused) with spill := some (spill0 writing), restoring := restoring }
/-- Time 1 s. -/
def at1s (s : State) : State := s.wr .GLB_TIME 1000000000
def queued : State := at1s { withReq vat (req0 qsQueued) with packDue := [(0, handleOf 4095 (req0 qsQueued))] }
/-- The request has 70 tokens and one hit. -/
def hitSt : State := withReq vat { req0 qsQueued with desc := reqDesc.set 24 70, hits := [0] }
def lone : Pass := { seq := 3, members := [(4095, 1)], part := 0, vats := 1 }
def passing : State := { withReq vat { req0 qsPrefill with tokens := 0 } with passes := [lone] }
/-- A request of higher PRIO waits while a lone pass runs. -/
def preempting : State := at1s (({ withReq vat (req0 qsPrefill) with passes := [lone] }).setReq 7 { req0 qsQueued with prio := 1 })
/-- Entry 5 of group 15's store is FILLING. -/
def filling : State :=
  { (sets vat [(.PFX_GROUP_IDX 15, PFX_GROUP_IDX.ENTRIES_LOG2, 3), (.PFX_GROUP_IDX 15, PFX_GROUP_IDX.INDEX_BASE, 1),
      (.PFX_GROUP_IDX 15, PFX_GROUP_IDX.BLOCK_KIB, 1)]).setBytes (4096 + 64 * 5) (field64 [(20, 1, 1), (32, 8, 0x8000)]) with
    fills := [(15, 5, 0)] }
def dutySt : State :=
  let s := sets vat [(.REEVE_PART_CFG 0, REEVE_PART_CFG.DUTY_ALLOWED, 3)]
  { s with layout := { s.layout with groups := [(0, { tailMax := 1 })] } }
def tailSt (ids : List Nat) (st : Option TailStep) : State :=
  withReq (at1s (sets vat [(.REEVE_MODEL, REEVE_MODEL.VOCAB, 1)])) { req0 qsTail with pos := 1, tokens := 1, ids := ids, step := st }
def step0 : TailStep := { part := 0, nodes := [(7, 255, 0)] }
def step1 : TailStep := { step0 with ids := [0], path := [0], ends := true }
def budgeted : State := sets vat [(.REEVE_BUDGET_CFG 0, REEVE_BUDGET_CFG.RATE, 1999), (.REEVE_BUDGET_CFG 0, REEVE_BUDGET_CFG.CEIL, 1),
  (.REEVE_BUDGET_CFG 4095, REEVE_BUDGET_CFG.RATE, 5000), (.REEVE_BUDGET_CFG 4095, REEVE_BUDGET_CFG.CEIL, 3)]
def mboxSt (op a0 : Nat) : State :=
  sets (withReq vat (req0 qsPaused)) [(.REEVE_MBOX_CMD, REEVE_MBOX_CMD.GO, 1), (.REEVE_MBOX_CMD, REEVE_MBOX_CMD.OPCODE, op),
    (.REEVE_MBOX_ARG 0, VAT_CTX_PS.VALUE, a0)]
/-- Group 0 serves function 0 and its region holds automaton 255: one state, no transition, one empty mask. -/
def gramSt (on : Nat) : State :=
  let s := sets vat [(.REEVE_MODEL, REEVE_MODEL.VOCAB, 1), (.REEVE_GRAM_CFG 255, REEVE_GRAM_CFG.NSTATE, 1),
    (.REEVE_GRAM_CFG 255, REEVE_GRAM_CFG.NMASK, 1), (.REEVE_GRAM_CFG 255, REEVE_GRAM_CFG.SHARED, 1), (.REEVE_GRAM_CFG 255, REEVE_GRAM_CFG.ENABLE, on)]
  { s with layout := { s.layout with groups := [(0, { regions := [{ kind := 1, base := 0, size := 0x100000 }] })] } }.setBytes 0
    (field64 [(0, 4, 0x4C564741), (4, 4, 1), (8, 4, 1), (12, 4, 1), (16, 8, 64), (24, 8, 128), (32, 8, 192)])
/-- A cancel marker, a page record and an end marker of request 7. -/
def mark0 : Rec := { req := 7, handle := 7, tag := 9, kind := 2 }
def end0 : Rec := { mark0 with kind := 1 }
def page0 : Rec := { mark0 with kind := 0, count := 1, total := 1 }
/-- Destination 255 with these records, enabled on a path or not. -/
def destSt (on path : Nat) (q : List Rec) : State :=
  (sets (at1s vat) [(.THR_PORT_CFG 15, THR_PORT_CFG.MODE, 2), (.KVX_DEST_CFG 255, KVX_DEST_CFG.ENABLE, on),
    (.KVX_DEST_CFG 255, KVX_DEST_CFG.PATH, path), (.KVX_DEST_CREDIT 255, VAT_CTX_PS.VALUE, 5), (.KVX_DEST_SEQ 255, VAT_CTX_PS.VALUE, 9),
    (.KVX_DEST_CFG 255, KVX_DEST_CFG.MODULE, 513)]).setDest 255
    { queue := q, waiting := true, since := 1000, psn := 2 ^ 24 - 1 }
/-- All the credit is used, for longer than CREDIT_TIMEOUT. -/
def creditOut : State := (sets (destSt 1 0 [mark0]) [(.KVX_DEST_CREDIT 255, VAT_CTX_PS.VALUE, 0), (.KVX_DEST_SEQ 255, VAT_CTX_PS.VALUE, 64),
  (.GLB_TIME, VAT_CTX_PS.VALUE, 100001000)])
def flight0 : Flight := { item := { page0 with handle := 7 }, seq := 8, psn0 := 2 ^ 24 - 2, psn1 := 0, bytes := [1] }
/-- A page of request 7 in flight on RoCEv2. -/
def roceSt : State :=
  ((destSt 1 1 []).setReq 7 { req0 qsPrefill with desc := reqDesc.take 34 ++ [255, 0] ++ reqDesc.drop 36 }).setDest 255
    { psn := 1, rnrWait := true, retry := 6, rnr := 6, cnp := false, lastCut := some 1, flight := [flight0] }
/-- A packet of a kind on a channel from module 513 to this one. -/
def pk0 (kind vc : Nat) (data : List Byte) : Pkt :=
  { port := 7, kind := BitVec.ofNat 4 kind, vc := BitVec.ofNat 3 vc, dl := false, flags := 1, dst := 0, src := 513, addr := 0x2000, tag := 5,
    ctx := 0, aux := 0, aux2 := 0, data := data }
/-- Inbound region 15 lets module 513 write on VC2 and read in the second 4 KiB. -/
def inSt : State :=
  sets vat [(.THR_INBOUND_A 15, THR_INBOUND_A.VALID, 1), (.THR_INBOUND_A 15, THR_INBOUND_A.VC2, 1), (.THR_INBOUND_A 15, THR_INBOUND_A.READ, 1),
    (.THR_INBOUND_A 15, THR_INBOUND_A.SRC_LO, 513), (.THR_INBOUND_A 15, THR_INBOUND_A.BASE, 2), (.THR_INBOUND_B 15, THR_INBOUND_B.SRC_HI, 513),
    (.THR_INBOUND_B 15, THR_INBOUND_B.LIMIT, 2)]
def pkOut : Pkt := { pk0 pkMemWrite 2 [1, 2] with addr := 0x2FFF }
def pkIn : Pkt := { pkOut with addr := 0x2FFE, flags := 3 }
/-- Window 255 of Vat 0, rows 10 and 11, arrivals 3, in this state. -/
def winSt (st : Nat) : State :=
  { sets vat [(.THR_WIN_A 0 255, THR_WIN_A.STATE, st), (.THR_WIN_A 0 255, THR_WIN_A.LEN, 2), (.THR_WIN_A 0 255, THR_WIN_A.BASE, 10),
      (.THR_WIN_A 0 255, THR_WIN_A.CTR, 3), (.THR_WIN_B 0 255, THR_WIN_B.SRC_LO, 513), (.THR_WIN_B 0 255, THR_WIN_B.SRC_HI, 513)] with
    claims := [{ v := 0, bank := 0, port := portRemote, holder := .window 0 255 }] }
def pkWin (r : Nat) : Pkt := { pk0 pkWinWrite 3 (List.replicate 512 7) with addr := BitVec.ofNat 64 (2 ^ 32 * 255 + r) }
def getG : Pkt := { pk0 pkGetReq 0 [] with src := 0, dst := 513, aux := 64 }
def putG : Pkt := { pk0 pkWinWrite 3 [] with src := 0, dst := 513 }
def getTag : TagUse := { id := 5, owner := some (0, 7, 0), req := .get getG }
def putTag : TagUse := { id := 5, owner := some (0, 7, 0), req := .put putG }
def tagSt (t : TagUse) : State := { copySt with tags := [t] }
def pkAck1 : Pkt := { pk0 pkAck 0 [] with aux := 1 }
def pkNakC (code : Nat) : Pkt := { pk0 pkNak 0 [] with aux := BitVec.ofNat 32 code }
def retrySt : State := { tagSt getTag with getRetry := [5] }
def regSt (on : Nat) : State := sets up [(.THR_GLB_CFG, THR_GLB_CFG.FABRIC_REG, on)]
def pkR : Pkt := { pk0 pkReg 7 [] with src := 1, port := 9 }
def rspSt : State := { up with regOut := [pk0 pkRegRsp 7 [1], pk0 pkRegRsp 7 [2]] }
/-- Port `p` in a state, with a packet unacknowledged. -/
def portSt (p st : Nat) (x : PortX := {}) : State :=
  (sets vat [(.THR_PORT_STATUS p, THR_PORT_STATUS.STATE, st)]).setPort p { x with unacked := [{ seq := 4095, flits := some (putG, 0) :: List.replicate 6 none }] }
/-- A frame of these data flits with its CRC. -/
def frameOf (flits : List (Option (Pkt × Nat))) : Frame :=
  let f : Frame := { flits := flits, seq := 4095, ack := 4095, nak := false, credits := [3], fec := true, crc := 0 }
  { f with crc := frameCrc f }
def frame0 : Frame := frameOf (List.replicate 7 none)
/-- A frame so made is good: its CRC is the one a receiver computes. -/
theorem frameOf_good (l : List (Option (Pkt × Nat))) : frameGood (frameOf l) = true := by
  simp [frameGood, frameOf, frameCrc, frameBytes]
def badFrame : Frame := { frame0 with fec := false }
def coverSt : State := sets (portSt 16 psFailed { txNext := 9, rxNext := 8 }) [(.THR_GLB_CFG, THR_GLB_CFG.SPARE_COVER, 2 ^ 16)]
/-- Port 5 is back, its last channel still on the spare. -/
def returnSt : State :=
  sets (portSt 5 psRamp { returning := [7] }) [(.THR_SPARE, THR_SPARE.ACTIVE, 1), (.THR_SPARE, THR_SPARE.FOR, 5)]
def lockedSt : State := sets (at1s vat) [(.THR_TIME, THR_TIME.STATE, tsLocked)]
def masterSt : State := sets (portSt (slotPort 0 7) psUp) [(.THR_GLB_ID, THR_GLB_ID.MASTER, 1)]
/-- A GET_REQ that region 15 admits, 2 bytes; the queue full; one whose 512 bytes are on their way to the Thresher. -/
def getIn : Pkt := { pk0 pkGetReq 0 [] with aux := 2 }
def getFull : State := { inSt with gets := List.replicate 1024 { id := 0, pkt := getIn } }
def getEnt : GetEntry := { id := 9, pkt := { getIn with aux := 512 }, parts := [(4, none)] }
def getRsp : DPkt := { src := 4, part := 0, dest := .stop 24, load := .got (List.replicate 512 7) false, get := some 9 }
def getBack : State := { vat with gets := [getEnt], dnet := [getRsp] }
/-- A GET of 64 bytes for 0x3000, answered; the write that follows. -/
def dGet : List Byte := field64 [(0, 1, 6), (8, 4, 64), (12, 4, 1), (16, 6, 0x2000), (22, 2, 513), (24, 8, 0x3000)]
def getD : Desc := { idx := 0, bytes := dGet, taken := true, started := true, moved := 1 }
def getSt : State := { withStream vat { queue := [bat1], nextIdx := 1, descs := [getD] } with tags := [getTag] }
def getPut : DPkt := { src := 6, part := 0, dest := .stop 0, load := .bytes 0x3000 (List.replicate 64 9), owner := some (0, 7, 0), tag := some 5 }
/-- A frame that holds one packet of one flit; a port about to send one. -/
def frame1 : Frame := frameOf (some (pkAck1, 0) :: List.replicate 6 none)
def tickSt : State := portSt 17 psUp { queue := [putG] }
def tickX : PortX := (((tickSt.port 17).pick (tickSt.weight 17) 128).map Prod.snd).getD {}
/-- This module is `me` of a board of eight; Sheaf 1023 has this many members from slot 0; the time is 1 s. -/
def sheafSt (me n : Nat) : State :=
  sets (at1s vat) [(.THR_GLB_ID, THR_GLB_ID.MODULE, me), (.THR_GLB_ID, THR_GLB_ID.SLOT, me), (.THR_GLB_CFG, THR_GLB_CFG.DIM, 7), (.SHEAF_DEF_A 1023, SHEAF_DEF_A.VALID, 1),
    (.SHEAF_DEF_A 1023, SHEAF_DEF_A.CNTM1, n - 1), (.SHEAF_SEQ 1023, SHEAF_SEQ.NEXT, 32767)]
/-- A launch descriptor of `n` elements, its completion word at 0x1000. -/
def shDesc (op n : Nat) : List Byte :=
  field64 [(0, 1, op), (4, 2, 1023), (8, 4, 512), (16, 8, n), (24, 8, n), (32, 8, 0x4000), (40, 8, 0x8000), (48, 8, 0x1000)]
def words (b : List Byte) (i : Nat) : W64 := BitVec.ofNat 64 (leNat ((b.drop (8 * i)).take 8))
/-- The launch window of function 255 but for its last word. -/
def launchSt (b : List Byte) : State :=
  { sheafSt 1 2 with shWin := (List.range 7).foldl (fun t i => Tab.set (fun _ => 0) t (8 * 16 + i) (words b i)) [] }
def launch0 : Launch := { f := 16, d := 1023, k := 5, desc := shDesc 5 0 }
def op0 : ShOp := { f := 16, d := 1023, k := 5, desc := shDesc 5 0 }
def head (src : Nat) : ShHead := { defn := 1023, opseq := 5, src := BitVec.ofNat 16 src }
def shSt (me n : Nat) (o : ShOp) : State := { sheafSt me n with ops := [o] }
def opReq (ph : Nat) : ShOp := { op0 with req := some 7, phase := ph }
/-- A BROADCAST of `n` elements on its way down. -/
def opDown (n : Nat) : ShOp := { op0 with desc := shDesc 3 n, phase := 1, stage := 2, step := 3 }
def out2 : ShOut := { rank := 1, next := 2, unacked := [(0, false), (1, false)] }
def out1 : ShOut := { rank := 1, next := 1, unacked := [(0, false)] }
def opSending (n : Nat) (x : ShOut) : ShOp := { opDown n with merged := true, sending := true, outs := [x], vals := [7] }
def down1 : ShPart := { step := 3, recvs := [(0, [(0, 16385)])], mode := 2 }
def down0 (n : Nat) : ShPart := { step := 3, sends := [(1, [(0, n)])], mode := 2 }
def chunk1 : ShChunk := { head := head 0, step := 3, chunk := 1, ebs := [], data := [1, 2], crc := crc32c [1, 2] }
def chunkBad : ShChunk := { chunk1 with crc := 0 }
def opNaks (n : Nat) (x : ShOut) : ShOp := { opSending n x with naks := [(1, 0)] }
def chunkKv : ShChunk := { chunk1 with step := 0 }
def opIn (ph : Nat) : ShOp := { op0 with phase := ph }
/-- The signed part of a full image: Vat 0 at position 0 in partition 0, no file regions, VOCAB 1. -/
def imageBody : List Byte :=
  leBytes 8 0x700014c564c49 ++ leBytes 2 0xd80 ++ List.replicate 2 0 ++ leBytes 5 0x500ff0016 ++ List.replicate 111 0 ++
    leBytes 1 0x1 ++ List.replicate 4 0 ++ leBytes 1 0x1 ++ List.replicate 10 0 ++ leBytes 1 0x2 ++
    List.replicate 4 0 ++ leBytes 1 0x1 ++ List.replicate 2 0 ++ leBytes 1 0x18 ++ List.replicate 7 0 ++
    leBytes 1 0x3 ++ List.replicate 3 0 ++ leBytes 2 0x140 ++ List.replicate 2 0 ++ leBytes 1 0x20 ++
    List.replicate 7 0 ++ leBytes 1 0x4 ++ List.replicate 3 0 ++ leBytes 2 0x180 ++ List.replicate 2 0 ++
    leBytes 2 0x120 ++ List.replicate 6 0 ++ leBytes 1 0x7 ++ List.replicate 3 0 ++ leBytes 2 0x2c0 ++
    List.replicate 2 0 ++ leBytes 2 0x228 ++ List.replicate 6 0 ++ leBytes 1 0x9 ++ List.replicate 4 0 ++
    leBytes 1 0x5 ++ List.replicate 2 0 ++ leBytes 2 0x809 ++ List.replicate 6 0 ++ leBytes 1 0x5 ++
    List.replicate 3 0 ++ leBytes 2 0xd40 ++ List.replicate 2 0 ++ leBytes 1 0x40 ++ List.replicate 41 0 ++
    leBytes 1 0x6 ++ List.replicate 46 0 ++ leBytes 1 0x80 ++ List.replicate 958 0 ++ leBytes 1 0x1 ++
    List.replicate 2111 0 ++ leBytes 1 0x1 ++ List.replicate 2 0 ++ leBytes 1 0x1 ++ List.replicate 4 0 ++
    leBytes 1 0x1 ++ List.replicate 7 0 ++ leBytes 1 0xf ++ List.replicate 47 0
/-- Its signature block: both scalars of the check are 1. -/
def imageSig : List Byte :=
  beBytes 48 0xdfacd8da7f0e222c17bd92f98962b8ce11fb4629517711225041f6a2948841cf80e31e2842187deb019eb6d19b4ed7c9 ++
  beBytes 48 0x9c66ec5bfa8a404071fd06f9d369bb14aa9ca6dc5b475fc70324eb7957693e003305128b598586502b12bc8e9de2e8f1 ++
  beBytes 48 0xff8034cf337f2b83ecba6905ab630726e100947dce2cac2ddc6127bc55947503925fe48b32a73327e3474a9632b8c409 ++
  beBytes 48 0xff8034cf337f2b83ecba6905ab630726e100947dce2cac2ddc6127bc55947503925fe48b32a73327e3474a9632b8c409
/-- The block in a phase of its sequence after a reset of a level (none: no sequence runs), power good. -/
def bootSt (phase : Nat) (level : Option Nat) (lfail : Nat := 0) : State :=
  sets { at1s State.reset with doms := p0Doms ++ p3Doms ++ (List.range 18).flatMap vatDoms, boot := { input := true, granted := true, good := true, slot := 5, bpos := 8191, phase := phase, level := level } }
    [(.RST_STATUS, RST_STATUS.LFAIL, lfail), (.RST_STATUS, RST_STATUS.EPOCH, 2 ^ 32 - 1)]
/-- Waiting for power, for a grant, or for a third read of the fuses. -/
def coldSt : State := { State.reset with boot := { input := true, granted := true } }
def triesSt (n : Nat) : State := { bootSt 1 (some 0) with boot := { (bootSt 1 (some 0)).boot with tries := n } }
def fuses0 : Fuses :=
  { trim := 0, opt := 15, serial := 1, vatDis := 2 ^ 17, laneDis := 2 ^ 359 + 2 ^ 9, bankDis := 2 ^ 575, keyHash := 0, secState := 1 }
def fuses1 : Fuses := { fuses0 with serial := 2 }
/-- P2 with the image in slot A; with nothing in the slot being read. -/
def withFlash (s : State) (img : List Byte) : State := { s with flash := Tab.setAll flashByte [] 0 img }
def imageSt : State := withFlash (bootSt 2 (some 1)) (imageBody ++ imageSig)
def badSt (slot lfail : Nat) : State :=
  { bootSt 2 (some 1) lfail with boot := { (bootSt 2 (some 1) lfail).boot with imgSlot := slot, bad := slot }
                                 flash := Tab.setAll flashByte [] (0x200000 * slot + 8) [1, 0, 0, 0] }
/-- P3 with the image accepted. -/
def p3St : State := { bootSt 3 (some 1) with layout := { layoutOf imageBody with applied := false } }
/-- The module at work with something in every place a core reset clears or keeps. -/
def workSt : State :=
  (sets (withReq vat (req0 qsPrefill)) [(.HBM_STATUS 5, HBM_STATUS.TRAINED, 1), (.PWR_CTRL, PWR_CTRL.THERM_TARGET_C, 90), (.GLB_TIME, VAT_CTX_PS.VALUE, 10 ^ 12)]).setBytes
    0x1000 [1, 2, 3]
/-- Vat 0 FAULTED; with its other context at work; position 17 free. -/
def faultedSt (st : Nat) : State :=
  sets { vat with layout := { vat.layout with vatMap := [2 ^ 15] } } [(.VAT_STATUS 0, VAT_STATUS.STATE, vsFaulted), (.VAT_CTX_STATUS 0 0, VAT_CTX_STATUS.STATE, st)]
/-- Readings of all sensors, in 1/16 °C; sensor `i` at `x`. -/
def heat (i x : Nat) : List W16 := (List.replicate 52 (BitVec.ofNat 16 960)).set i (BitVec.ofNat 16 x)
def clocks (l : List (Reg × Fld × Nat)) : State :=
  sets (at1s vat) ([(.PWR_CLOCK, PWR_CLOCK.F_MAX_MHZ, 1600), (.PWR_CLOCK, PWR_CLOCK.F_T_MHZ, 1600), (.PWR_CLOCK, PWR_CLOCK.F_FIXED_MHZ, 1500),
    (.PWR_CAP, PWR_CAP.CAP_W, 600)] ++ l)
def hotSt : State :=
  { bootSt 0 (some 1) with boot := { (bootSt 0 (some 1)).boot with hot := true, cool := some 0 } }
/-- Sensor 51 reads this, regulation lowers by 25 MHz. -/
def regulSt (x : Nat) : State :=
  { sets (clocks [(.PWR_STATUS, PWR_STATUS.THERM_REG, 1)]) [(.PWR_THERM 51, PWR_THERM.TEMP, x)] with pwr := { lowered := 25 } }
/-- The command key of slots 0 and 63. -/
def cmdKey : List Byte := leBytes 32 0x201f1e1d1c1b1a191817161514131211100f0e0d0c0b0a090807060504030201
/-- The class has this block in its buffer and is at the head of the engine's queue; slots 0 and 63 are keyed. -/
def cmdIn (s : State) (k : Nat) (b : List (Nat × W64)) : State :=
  let s := b.foldl (fun s x => s.wr (.SEC_CMD_BUF k x.1) x.2) s
  { sets s [(.SEC_SLOT 0, SEC_SLOT.KEYED, 1), (.SEC_SLOT 0, SEC_SLOT.PERM, 65535), (.SEC_SLOT 0, SEC_SLOT.MASTERS, 7), (.SEC_SLOT 63, SEC_SLOT.KEYED, 1),
      (.SEC_SLOT 63, SEC_SLOT.PERM, 65535), (.SEC_SLOT 63, SEC_SLOT.MASTERS, 7)] with
    sec := { queue := [k], keys := [(0, cmdKey), (63, cmdKey)], high := [(0, 9), (63, 9)] } }
def blkResetSys : List (Nat × W64) :=
  [(0, 0x23f014c564343), (2, 0x9), (4, 0x292c491f77e365f6), (5, 0xa07279d26f7bf743)]
def blkResetCore : List (Nat × W64) :=
  [(0, 0x13f014c564343), (2, 0x9), (4, 0x4cef9bc5e1980c44), (5, 0x43f099c2ebb7d195), (8, 0x1)]
def blkResetPart : List (Nat × W64) :=
  [(0, 0x23f014c564343), (2, 0x9), (4, 0xbc296edb84d5f4d8), (5, 0x1e03323dbc463d79), (8, 0x2)]
def blkResetPart16 : List (Nat × W64) :=
  [(0, 0x23f014c564343), (2, 0x9), (4, 0x75b575928fd62ead), (5, 0x6ffb61606f386ca1), (8, 0x1002)]
def blkRelayout : List (Nat × W64) :=
  [(0, 0xc3f024c564343), (2, 0x9), (4, 0x4b56bf1f9666b875), (5, 0x275febb574b51660), (8, 0x100000), (9, 0x1c0)]
def blkKeySlot : List (Nat × W64) :=
  [(0, 0x3000034c564343), (2, 0x9), (4, 0x744f654b9f63298e), (5, 0xe33f50741fa9ad15), (8, 0x7000100000000), (9, 0x8532cba00d624c92), (10, 0x6c2798ff2a9e994d), (11, 0x4c0fc6ec92734a60), (12, 0x9ca1b7833e1355b1), (13, 0x48e3e339e4a22920)]
def blkKeyErase : List (Nat × W64) :=
  [(0, 0x3000034c564343), (2, 0x9), (4, 0x29334af86ae0e75a), (5, 0xe5f59758df74edd7), (8, 0x7000100010000)]
def blkKeyTenant : List (Nat × W64) :=
  [(0, 0x203f034c564343), (2, 0x9), (4, 0xbbb19468acfdf5c8), (5, 0xdd3f5b7e51fe04d2), (8, 0xff01), (9, 0x17c1dba9f29ed6d8), (10, 0x8f823f88f05614d6), (11, 0x805aa56be0a3cff9)]
def blkCap800 : List (Nat × W64) :=
  [(0, 0x23f044c564343), (2, 0x9), (4, 0xcbbb68942f1ac53e), (5, 0x93131b8c53f47eeb), (8, 0x320)]
def blkCap2000 : List (Nat × W64) :=
  [(0, 0x23f044c564343), (2, 0x9), (4, 0x1e6179d5fb821d7c), (5, 0x580eb1772877cd27), (8, 0x7d0)]
def blkCap799 : List (Nat × W64) :=
  [(0, 0x23f044c564343), (2, 0x9), (4, 0x790ef0efe0169ae8), (5, 0xfb945b9cf78b4e95), (8, 0x31f)]
def blkCap2001 : List (Nat × W64) :=
  [(0, 0x23f044c564343), (2, 0x9), (4, 0xd0b0259cea0f2996), (5, 0x199d8e756b3db839), (8, 0x7d1)]
def blkFw : List (Nat × W64) :=
  [(0, 0xd3f054c564343), (2, 0x9), (4, 0x49b7a50f1338e017), (5, 0x8af37a1d1f1cdc65), (8, 0x100000), (9, 0x100000180)]
def blkWinOpen : List (Nat × W64) :=
  [(0, 0x103f064c564343), (2, 0x9), (4, 0xc099f99284d08f83), (5, 0x498ee06d06e1130), (8, 0x7ffe03ff0000), (9, 0x201020100000002)]
def blkWinOff : List (Nat × W64) :=
  [(0, 0x103f064c564343), (2, 0x9), (4, 0x54d80d41ff8bf70), (5, 0x4879118f51521ad8), (8, 0x1ffff03ff0000), (9, 0x201020100000002)]
def blkWinClose : List (Nat × W64) :=
  [(0, 0x33f064c564343), (2, 0x9), (4, 0x54122ebe1b52248e), (5, 0xb490a01b46914283), (8, 0xff0001)]
def blkKill : List (Nat × W64) :=
  [(0, 0x13f074c564343), (2, 0x9), (4, 0x999de8cd8ec19b19), (5, 0xfd566e0dbb41092c)]
def blkBad : List (Nat × W64) :=
  [(0, 0x23f044c564343), (2, 0x9), (4, 0x66e438538da96c6a), (5, 0x8fddb63c448881c7), (8, 0x384)]
def blkEnrol : List (Nat × W64) :=
  [(0, 0x2800034c564343), (2, 0x9), (8, 0x2), (9, 0x807060504030201), (10, 0x100f0e0d0c0b0a09), (11, 0x1817161514131211), (12, 0x201f1e1d1c1b1a19)]
/-- The signed part of a partial image of partition 0 as it is. -/
def partBody : List Byte :=
  leBytes 7 0x100014c564c49 ++ List.replicate 2 0 ++ leBytes 1 0x1 ++ List.replicate 2 0 ++ leBytes 5 0x201ff0016 ++
    List.replicate 111 0 ++ leBytes 1 0x5 ++ List.replicate 3 0 ++ leBytes 1 0xc0 ++ List.replicate 3 0 ++
    leBytes 1 0x40 ++ List.replicate 55 0 ++ leBytes 1 0x1 ++ List.replicate 2 0 ++ leBytes 1 0x1 ++
    List.replicate 4 0 ++ leBytes 1 0x1 ++ List.replicate 7 0 ++ leBytes 1 0xf ++ List.replicate 47 0
/-- Its signature block: both scalars of the check are 1. -/
def partSig : List Byte :=
  beBytes 48 0xf7396a2dc637cd09972b95589a0c537d0302bc3cb1bc35a8996913e98ca3f124611887ee7c9746e2f18d878e661a3e80 ++
  beBytes 48 0x2ff93a962610fc192f74440ee4735b4bcf9298812931bbb96968e022133ccf387f067af905fc2fec6e6387cce0c417ee ++
  beBytes 48 0xddb0fcfd8596fb3b3be8fb7bc7275936f06b2293cdddf8faac012a75c41147a8abb3ab36694f9749a8e1a4ba6bec0fb ++
  beBytes 48 0xddb0fcfd8596fb3b3be8fb7bc7275936f06b2293cdddf8faac012a75c41147a8abb3ab36694f9749a8e1a4ba6bec0fb
/-- The signed part of an image whose header alone is that of a full one. -/
def fwBody : List Byte :=
  leBytes 8 0x100014c564c49 ++ leBytes 1 0xc0 ++ List.replicate 3 0 ++ leBytes 5 0x100ff0016 ++ List.replicate 111 0 ++
    leBytes 1 0x1 ++ List.replicate 3 0 ++ leBytes 1 0xc0 ++ List.replicate 59 0
/-- Its signature block: both scalars of the check are 1. -/
def fwSig : List Byte :=
  beBytes 48 0x77b4fb16892487cb486f46fd8d90c0ba5e0ff34e25c523bad5389b04be3ccb6d0efdb30e01b72a0145f5ae7f840b8f59 ++
  beBytes 48 0xe7904abb4d9e82fdcb58de6757dd467baf920f9460e10a473802e10cb2f07c29f797be7ce7979b0ad307f331ae0d49ef ++
  beBytes 48 0x504ca3eb76ca9b37183ce7ad27e0c8676ebf53505cd31ec86ca2d098f826d9254621d82963ab5a25ef97809a8128daa1 ++
  beBytes 48 0x504ca3eb76ca9b37183ce7ad27e0c8676ebf53505cd31ec86ca2d098f826d9254621d82963ab5a25ef97809a8128daa1
/-- Host memory with these bytes from an address on. -/
def hostOf (a : Nat) (bs : List Byte) : Tab Byte := (((List.range bs.length).map (a + ·)).zip bs).filter fun p => p.2 ≠ 0
/-- A layout of one partition and its serving group; the partial image lies in host memory. -/
def relaySt : State :=
  let s := { vat with layout := { journalSize := 393216, vatMap := [2 ^ 15], model := 1, groups := [(0, {})]
                                  parts := [(0, { vats := 1, allowed := 1, funcs := 1, groups := 15 })] } }
  { s with host := hostOf 0x100000 (partBody ++ partSig) }
def relayingSt (img : List Byte) : State :=
  { sets relaySt [(.VAT_CTX_STATUS 0 0, VAT_CTX_STATUS.STATE, csPaused)] with relaying := some { cls := 1, part := 0, img := img }, closed := [0] }
/-- A partial image that reinstates position 3. -/
def backBody : List Byte := (partBody.set 6 2).take 144 ++ leBytes 2 3 ++ leBytes 2 0 ++ leBytes 4 256 ++ leBytes 4 32 ++ leBytes 4 0 ++ partBody.drop 160 ++ leBytes 2 (2 ^ 14 + 3) ++ List.replicate 30 0
def fwSt (good : Bool) : State :=
  { up with host := hostOf 0x100000 (fwBody ++ if good then fwSig else List.replicate 192 0) }
def enrolSt : State :=
  { blkEnrol.foldl (fun s x => s.wr (.SEC_CMD_BUF 0 x.1) x.2) up with sec := { queue := [0], high := [(0, 9)] } }
def openWin : State := sets vat [(.THR_WIN_A 0 255, THR_WIN_A.STATE, 1)]
/-- Partition 0 with regions, killed and zeroed. -/
def regionSt : State := { vat with layout := { vat.layout with parts := [(0, { vats := 1, groups := 15, regions := [{ kind := 1, base := 0x2000, size := 16 }] })] } }.setBytes 0x1FFF [1, 2, 3]
def killedSt : State := { vat with closed := [0] }
/-- A counter close to its mark. -/
def nearSt : State := { up.wr (.SEC_SLOT_LAST 63) 40000 with sec := { high := [(63, 65536)], recSeq := 4 } }
def throttledSt : State := { sets (at1s up) [(.SEC_STATUS, thrFld 2, 1)] with sec := { until_ := [(2, 1000000000)] } }
/-- A host function has VFs; a message of vector 1 of function 63 is held; a launch of it waits in its window. -/
def hostSt : State :=
  { sets (at1s vat) [(.HOST_STATUS, HOST_STATUS.TOTAL_VFS, 63), (.HOST_STATUS, HOST_STATUS.NUM_VFS, 63), (.REEVE_RING_CFG 63, REEVE_RING_CFG.ENABLE, 1), (.REEVE_RING_PTR 63, REEVE_RING_PTR.FAULT, 1)] with
    numVfs := 63, vfEnable := true, msi := [(127, { last := some 999995000, held := true })], rings := [(63, { prod := 7, cons := 3 })] }
/-- Partition 0 serves function 63. -/
def funcSt : State := { sets hostSt [(.REEVE_RING_CFG 63, REEVE_RING_CFG.PARTS, 1)] with layout := { hostSt.layout with parts := [(0, { vats := 1, groups := 15, funcs := 2 ^ 63, regions := [{ kind := 1, base := 0, size := 0x100000 }] })] } }
def bar2Mem : BitVec 38 := 0x3000
def bar2Out : BitVec 38 := BitVec.ofNat 38 (memTop - 4096)
def bar2Row : BitVec 38 := BitVec.ofNat 38 (memTop + 512 * 5)
def stackSt (spares copying : Nat) : State :=
  sets (at1s up) [(.HBM_STATUS 5, HBM_STATUS.TRAINED, 1), (.HBM_STATUS 5, HBM_STATUS.PC_SPARES, spares), (.HBM_STATUS 5, HBM_STATUS.COPYING, copying)]
def scrubOff : BitVec 35 := BitVec.ofNat 35 (63 * 2048 + 100)
def alertSt : State := sets up [(.MGMT_ALERT, VAT_CTX_PS.VALUE, 5), (.MGMT_ALERT_EN, VAT_CTX_PS.VALUE, 4)]
def clearAlert : RegWrite := { master := .mgmt, off := BitVec.ofNat 26 (Reg.off .MGMT_ALERT), size := 8, val := 4 }
/-- An SMBus request for a register, with a value to write. -/
def smb (r : Reg) (v : List Byte) : List Byte := leBytes 4 r.off ++ v
/-- A REGACC transfer. -/
def regacc (w off val : Nat) : BitVec 91 := BitVec.ofNat 91 (w * 2 ^ 90 + off * 2 ^ 64 + val)
def lockedTap : State := { up with boot := { up.boot with fuses := { Fuses.blank with opt := 4 } } }
/-- Fifteen failures within the last second. -/
def failing : State :=
  let s := at1s (cmdIn up 0 [])
  { s with sec := { s.sec with queue := [], fails := List.replicate 15 (0, 500000000) } }
def unlockSt (mark : W64) : State :=
  let s := cmdIn up 0 []
  { s with sec := { s.sec with queue := [], high := [(0, mark), (63, 9)] } }
/-- An UNLOCK block under the command key; a block of zeros. -/
def unlockBlk : List Byte := leBytes 48 0x3d2021859ad595bc1d2f1a8ce06f378c000000000000000000000000000000090000000000000000000000004c564455 ++ List.replicate 400 0
def zeroBlk : List Byte := List.replicate 448 0
/-- A write of 8 bytes. -/
def wr8 (m : Master) (r : Reg) (val : W64) : RegWrite := { master := m, off := BitVec.ofNat 26 r.off, size := 8, val := val }
/-- Every Vat idle, none valid but 0. -/
def idleSt : State := sets vat [(.VAT_STATUS 0, VAT_STATUS.STATE, vsIdle), (.VAT_CTX_STATUS 0 0, VAT_CTX_STATUS.STATE, 0)]
/-- A map whose entry is valid at a position; two entries of one word valid at one position. -/
def mapTo (v p : Nat) : W64 := (mapPhys v).put ((mapValid v).put 0 1) p
def mapTwice (u v p : Nat) : W64 := (mapPhys u).put ((mapValid u).put (mapTo v p) 1) p
def dumpOff : W64 := 2 ^ 40 * 0 + 1
/-- Recording runs; three counter samples of Vat 15 wait; bytes have passed port 17. -/
def perfSt : State :=
  { sets (at1s vat) [(.PERF_DUMP_CFG, PERF_DUMP_CFG.EN, 1), (.PERF_DUMP_CFG, PERF_DUMP_CFG.SLOTS, 2), (.PERF_TRACE_CFG, PERF_TRACE_CFG.EN, 1),
      (.PERF_TRACE_CFG, PERF_TRACE_CFG.SLOTS, 4), (.PERF_TRACE_CFG, PERF_TRACE_CFG.HEAD, 2 ^ 32 - 1), (.PERF_DUMP_STAT, PERF_DUMP_STAT.MISSED, 3)] with
    dumpSeq := 3, bw := [(34, 10 ^ 6), (35, 2 * 10 ^ 6)], vats := [(15, { samples := [(15, 77, [(5, 3), (9, 1)])] })] }
def frozenSt : State := sets up [(.PERF_CTL, PERF_CTL.FREEZE, 1)]
/-- Something in every register that a CLEAR zeroes. -/
def countedSt : State :=
  ([.GLB_DNET_ERR, .VAT_CHK_STAT 0, .VAT_ECC_STAT 0, .CELLAR_ERR_STAT 0, .SKIM_STAT 0, .KVX_STAT, .PFX_STAT, .PFX_SPILL_STAT, .THR_PORT_ERR 17, .SHEAF_STAT,
    .HBM_ECC 5, .HOST_ACC 63, .PWR_STAT, .PWR_DROOP 64] : List Reg).foldl (fun s r => s.wr r 0x1111) hostSt


/-! The hypotheses of every clause of each statement, met. -/

theorem witness_StepRunsFront :
    (let s := {up with pending := [.thermalStep, .mrstNAssert]}
     let c : Instr := .thermalStep
     let rest : List Instr := [.mrstNAssert]
     s.pending = c :: rest) :=
  by decide +kernel

theorem witness_StepKeepsInv : Inv up ∧ ∃ t, step up = .next t :=
  ⟨⟨by decide, by decide, by decide, by decide, by decide, by decide, by decide, by decide, by decide, by decide⟩, _, rfl⟩

theorem witness_WellFormedRuns :
    Instr.wf (.bar2Read 0 4095 1) = true ∧ Instr.wf (.bar2Read 0 4095 2) = false := by decide

theorem witness_SemFenceRun :
    (let s := ins opSemw (5*2^70)
     let v : VatId := 0
     let c : CtxId := 0
     let w : Nat := opSemw*2^120+5*2^70
     (bits w 68 0 = 0 ∧ semOk (semwKind w) (semwIdx w) = true ∧ s.sem v (semwKind w) (semwIdx w) < semwVal w ∧ s.leaving v c = false) ∧
     Issues s v c opSemw w) ∧
    (let s := ins opSemw (5*2^70) [pausing]
     let v : VatId := 0
     let c : CtxId := 0
     let w : Nat := opSemw*2^120+5*2^70
     (bits w 68 0 = 0 ∧ semOk (semwKind w) (semwIdx w) = true ∧ s.sem v (semwKind w) (semwIdx w) < semwVal w ∧ s.leaving v c = true) ∧
     Issues s v c opSemw w) ∧
    (let s := ins opSemw (5*2^70+2^69+63*2^102) [(.VAT_SEM_FULL 0 63, semFld, 5)]
     let v : VatId := 0
     let c : CtxId := 0
     let w : Nat := opSemw*2^120+5*2^70+2^69+63*2^102
     (bits w 68 0 = 0 ∧ semOk (semwKind w) (semwIdx w) = true ∧ semwVal w ≤ s.sem v (semwKind w) (semwIdx w)) ∧
     Issues s v c opSemw w) ∧
    (let s := ins opSemp (5*2^70) [(.VAT_SEM_FULL 0 0, semFld, 2^32-6)]
     let v : VatId := 0
     let c : CtxId := 0
     let w : Nat := opSemp*2^120+5*2^70
     (bits w 63 0 = 0 ∧ semOk (semwKind w) (semwIdx w) = true ∧ bit w 68 = false ∧ (semwTake w = false → s.sem v (semwKind w) (semwIdx w) + semwVal w < 2 ^ 32)) ∧
     Issues s v c opSemp w) ∧
    (let s := ins opSemp (5*2^70+2^68)
     let v : VatId := 0
     let c : CtxId := 0
     let w : Nat := opSemp*2^120+5*2^70+2^68
     (bits w 63 0 = 0 ∧ semOk (semwKind w) (semwIdx w) = true ∧ bit w 68 = true ∧ semwKind w ≠ 2 ∧ s.valid (bits w 67 64) = true ∧ s.part (bits w 67 64) = s.part v) ∧
     Issues s v c opSemp w) ∧
    (let s := ins opFence (2^111)
     let v : VatId := 0
     let c : CtxId := 0
     let w : Nat := opFence*2^120+2^111
     (bits w 110 0 = 0 ∧ (bit w 111 && s.outstanding v c) = false) ∧
     Issues s v c opFence w) ∧
    (let s := {ins opFence (2^111) with streams := [(0, {queue := [{hdr := 0, ctx := 0}]})]}
     let v : VatId := 0
     let c : CtxId := 0
     let w : Nat := opFence*2^120+2^111
     (bits w 110 0 = 0 ∧ (bit w 111 && s.outstanding v c) = true ∧ s.leaving v c = false) ∧
     Issues s v c opFence w) ∧
    (let s := {ins opFence (2^111) [pausing] with streams := [(0, {queue := [{hdr := 0, ctx := 0}]})]}
     let v : VatId := 0
     let c : CtxId := 0
     let w : Nat := opFence*2^120+2^111
     (bits w 110 0 = 0 ∧ (bit w 111 && s.outstanding v c) = true ∧ s.leaving v c = true) ∧
     Issues s v c opFence w) :=
  by
  and_intros <;> first | decide +kernel | (constructor <;> decide +kernel)

theorem witness_LoopBrcRun :
    (let s := ins opLoop (9*2^74)
     let v : VatId := 0
     let c : CtxId := 0
     let w : Nat := opLoop*2^120+9*2^74
     (bits w 73 0 = 0 ∧ s.inRegionPc v c (bits w 87 74) = true ∧ s.pc v c < bits w 87 74 ∧ bits w 111 88 = 0) ∧
     Issues s v c opLoop w) ∧
    (let s := ins opLoop (9*2^74+3*2^88)
     let v : VatId := 0
     let c : CtxId := 0
     let w : Nat := opLoop*2^120+9*2^74+3*2^88
     (bits w 73 0 = 0 ∧ s.inRegionPc v c (bits w 87 74) = true ∧ s.pc v c < bits w 87 74 ∧ bits w 111 88 ≠ 0 ∧ s.depth v c < 4) ∧
     Issues s v c opLoop w) ∧
    (let s := ins opBrc (7*2^94)
     let v : VatId := 0
     let c : CtxId := 0
     let w : Nat := opBrc*2^120+7*2^94
     s.brcOk v c w = true ∧
     Issues s v c opBrc w) :=
  by
  and_intros <;> first | decide +kernel | (constructor <;> decide +kernel)

theorem witness_EndlRuns :
    (let s := ins opEndl 0
     let v : VatId := 0
     let c : CtxId := 0
     let w : Nat := opEndl*2^120
     (bits w 111 0 = 0 ∧ s.depth v c ≤ 4 ∧ (s.depth v c = 0 ∨ s.pc v c ≠ s.levelEnd v c)) ∧
     Issues s v c opEndl w ∧
     LogFree s) ∧
    (let s := ins opEndl 0 [(.VAT_CTX_STATUS 0 0, VAT_CTX_STATUS.DEPTH, 1), (.VAT_CTX_LOOP 0 0 0, VAT_CTX_LOOP.COUNT, 2)]
     let v : VatId := 0
     let c : CtxId := 0
     let w : Nat := opEndl*2^120
     let r := Reg.VAT_CTX_LOOP v c (s.depth v c - 1)
     let it := s.get r VAT_CTX_LOOP.ITER + 1
     (bits w 111 0 = 0 ∧ s.depth v c ≤ 4 ∧ s.depth v c ≠ 0 ∧ s.pc v c = s.levelEnd v c ∧ it < s.get r VAT_CTX_LOOP.COUNT) ∧
     Issues s v c opEndl w) ∧
    (let s := ins opEndl 0 [(.VAT_CTX_STATUS 0 0, VAT_CTX_STATUS.DEPTH, 4), (.VAT_CTX_LOOP 0 0 3, VAT_CTX_LOOP.COUNT, 1)]
     let v : VatId := 0
     let c : CtxId := 0
     let w : Nat := opEndl*2^120
     let r := Reg.VAT_CTX_LOOP v c (s.depth v c - 1)
     let it := s.get r VAT_CTX_LOOP.ITER + 1
     (bits w 111 0 = 0 ∧ s.depth v c ≤ 4 ∧ s.depth v c ≠ 0 ∧ s.pc v c = s.levelEnd v c ∧ s.get r VAT_CTX_LOOP.COUNT ≤ it) ∧
     Issues s v c opEndl w) :=
  by
  and_intros <;> first | decide +kernel | (constructor <;> decide +kernel) | (unfold LogFree; decide +kernel)

theorem witness_TickFlagsSeedRun :
    (let s := ins opTick (63*2^106)
     let v : VatId := 0
     let c : CtxId := 0
     let w : Nat := opTick*2^120+63*2^106
     bits w 89 0 = 0 ∧
     Issues s v c opTick w) ∧
    (let s := ins opFlags (2^107+15*2^108) [(.VAT_FLAGS 0, semFld, 6)]
     let v : VatId := 0
     let c : CtxId := 0
     let w : Nat := opFlags*2^120+2^107+15*2^108
     bits w 100 0 = 0 ∧
     Issues s v c opFlags w) ∧
    (let s := ins opSeed (7*2^48)
     let v : VatId := 0
     let c : CtxId := 0
     let w : Nat := opSeed*2^120+7*2^48
     (bits w 37 0 = 0 ∧ (bit w 47 = true → bits w 111 48 = 0 ∧ bits w 40 38 ≤ 4)) ∧
     Issues s v c opSeed w) :=
  by
  and_intros <;> first | decide +kernel | (constructor <;> decide +kernel)

theorem witness_HaltWagonRun :
    (let s := ins opHalt (9*2^96+2^95)
     let v : VatId := 0
     let c : CtxId := 0
     let w : Nat := opHalt*2^120+9*2^96+2^95
     (bits w 94 0 = 0 ∧ s.outstanding v c = false) ∧
     Issues s v c opHalt w) ∧
    (let s := ins opWagon (63*2^100) [(.WAGON_STREAM_CFG 0 63, WAGON_STREAM_CFG.ENABLE, 1)]
     let v : VatId := 0
     let c : CtxId := 0
     let w : Nat := opWagon*2^120+63*2^100
     (bits w 99 0 = 0 ∧ (∀ (h : Nat × Nat), h ∈ (s.vat v).hdrs → h.fst ≠ c)) ∧
     Issues s v c opWagon w) ∧
    (let s := ins opWagon (63*2^100) [(.WAGON_STREAM_CFG 0 63, WAGON_STREAM_CFG.ENABLE, 1)]
     let v : VatId := 0
     let c : CtxId := 0
     let w : Nat := opWagon*2^120+63*2^100
     let a := s.wagonAddr v c w
     let i := bits w 105 100
     (bits w 99 0 = 0 ∧ a % 64 = 0 ∧ s.get (Reg.WAGON_STREAM_CFG v i) WAGON_STREAM_CFG.ENABLE = 1 ∧ s.inHbm (s.part v) a 64 = true ∧ s.wagonReady v i = true) ∧
     Issues s v c opWagon w) ∧
    (let s := {ins opWagon (63*2^100) [(.WAGON_STREAM_CFG 0 63, WAGON_STREAM_CFG.ENABLE, 1)] with streams := [(63, {stopped := true})]}
     let v : VatId := 0
     let c : CtxId := 0
     let w : Nat := opWagon*2^120+63*2^100
     let a := s.wagonAddr v c w
     let i := bits w 105 100
     (bits w 99 0 = 0 ∧ a % 64 = 0 ∧ s.get (Reg.WAGON_STREAM_CFG v i) WAGON_STREAM_CFG.ENABLE = 1 ∧ s.inHbm (s.part v) a 64 = true ∧ s.wagonReady v i = false ∧ s.leaving v c = false) ∧
     Issues s v c opWagon w) ∧
    (let s := {ins opWagon (63*2^100) [(.WAGON_STREAM_CFG 0 63, WAGON_STREAM_CFG.ENABLE, 1), pausing] with streams := [(63, {stopped := true})]}
     let v : VatId := 0
     let c : CtxId := 0
     let w : Nat := opWagon*2^120+63*2^100
     let a := s.wagonAddr v c w
     let i := bits w 105 100
     (bits w 99 0 = 0 ∧ a % 64 = 0 ∧ s.get (Reg.WAGON_STREAM_CFG v i) WAGON_STREAM_CFG.ENABLE = 1 ∧ s.inHbm (s.part v) a 64 = true ∧ s.wagonReady v i = false ∧ s.leaving v c = true) ∧
     Issues s v c opWagon w) :=
  by
  and_intros <;> first | decide +kernel | (constructor <;> decide +kernel)

theorem witness_SwitchAndBadFetch :
    (let s := sets vat [(.VAT_CTX_STATUS 0 1, VAT_CTX_STATUS.STATE, csReady), (.VAT_CTX_STATUS 0 2, VAT_CTX_STATUS.STATE, csReady), (.VAT_CTX_CTRL 0 2, VAT_CTX_CTRL.PRIO, 3)]
     let v : VatId := 0
     let c : Nat := 2
     s.switchTo v = some c) ∧
    (let s := vat
     let v : VatId := 0
     s.switchTo v = none) ∧
    (let s := sets vat [(.VAT_CTX_PROG 0 0, VAT_CTX_PROG.BASE, 1)]
     let v : VatId := 0
     let c : CtxId := 0
     (s.canIssue v c = true ∧ s.fetch v c = none) ∧
     LogFree s) ∧
    (let s := ins opTick 0
     let v : VatId := 0
     let c : CtxId := 0
     let ecc : Bool := true
     let w : Nat := opTick*2^120
     (s.canIssue v c = true ∧ s.fetch v c = some w ∧ ecc = true) ∧
     LogFree s) ∧
    (let s := ins 0 0
     let v : VatId := 0
     let c : CtxId := 0
     let ecc : Bool := false
     let w : Nat := 0
     (s.canIssue v c = true ∧ s.fetch v c = some w ∧ ecc = false ∧ opcodes.contains (hOpc w) = false) ∧
     LogFree s) :=
  by
  and_intros <;> first | decide +kernel | (constructor <;> decide +kernel) | (unfold LogFree; decide +kernel)

theorem witness_IssueChecksRaise :
    (let s := ins opTile (wTile+1) slots4
     let v : VatId := 0
     let c : CtxId := 0
     let w : Nat := opTile*2^120+wTile+1
     s.tileErr v c w (s.readSlots v c (tlSlots w)) ≠ 0 ∧
     LogFree s ∧
     Issues s v c opTile w) ∧
    (let s := ins opMould (wMould+1) slots4
     let v : VatId := 0
     let c : CtxId := 0
     let w : Nat := opMould*2^120+wMould+1
     mouldErr w (s.readSlots v c [moWp w]) ≠ 0 ∧
     LogFree s ∧
     Issues s v c opMould w) ∧
    (let s := insM opPress (wPress+2^112) slots4
     let v : VatId := 0
     let c : CtxId := 0
     let w : Nat := opPress*2^120+wPress+2^112
     s.pressErr v c w (s.readSlots v c [prXp w]) ≠ 0 ∧
     LogFree s ∧
     Issues s v c opPress w) ∧
    (let s := ins opDrain (wDrain+4*2^112) slots4
     let v : VatId := 0
     let c : CtxId := 0
     let w : Nat := opDrain*2^120+wDrain+4*2^112
     (s.drainErr v c w (s.readSlots v c (drSlots w)) ≠ 0 ∧ drFill w = false) ∧
     LogFree s ∧
     Issues s v c opDrain w) ∧
    (let s := ins opDrain (wFill+1) slots4
     let v : VatId := 0
     let c : CtxId := 0
     let w : Nat := opDrain*2^120+wFill+1
     (s.drainErr v c w (s.readSlots v c (drSlots w)) ≠ 0 ∧ drFill w = true) ∧
     LogFree s ∧
     Issues s v c opDrain w) ∧
    (let s := ins opAttn (wAttn+1) attnSlots
     let v : VatId := 0
     let c : CtxId := 0
     let w : Nat := opAttn*2^120+wAttn+1
     s.attnErr v c w (s.readSlots v c (atSlots w)) ≠ 0 ∧
     LogFree s ∧
     Issues s v c opAttn w) ∧
    (let s := ins opAttn (wAttn+3*2^73) (attnSlots ++ [ps 4 64])
     let v : VatId := 0
     let c : CtxId := 0
     let w : Nat := opAttn*2^120+wAttn+3*2^73
     s.attnErr v c w (s.readSlots v c (atSlots w)) ≠ 0 ∧
     LogFree s ∧
     Issues s v c opAttn w) ∧
    (let s := ins opRind (wRind+1) slots4
     let v : VatId := 0
     let c : CtxId := 0
     let w : Nat := opRind*2^120+wRind+1
     s.rindErr w (s.readSlots v c (rdSlots w)) ≠ 0 ∧
     LogFree s ∧
     Issues s v c opRind w) ∧
    (let s := ins opSkim (wSkim+2*2^112) slots4
     let v : VatId := 0
     let c : CtxId := 0
     let w : Nat := opSkim*2^120+wSkim+2*2^112
     skimErr w (s.readSlots v c (skSlots w)) ≠ 0 ∧
     LogFree s ∧
     Issues s v c opSkim w) :=
  by
  and_intros <;> first | decide +kernel | (constructor <;> decide +kernel) | (unfold LogFree; decide +kernel)

theorem witness_InstructionsComplete :
    (let s := ins opTile wTile slots4
     let v : VatId := 0
     let c : CtxId := 0
     let run : Run := run0
     let w : Nat := opTile*2^120+wTile
     (s.tileErr v c w (s.readSlots v c (tlSlots w)) = 0 ∧ ((s.issued v c opTile).tileRun v c run w).live = true) ∧
     Issues s v c opTile w) ∧
    (let s := insM opPress wPress slots4
     let v : VatId := 0
     let c : CtxId := 0
     let run : Run := run0
     let w : Nat := opPress*2^120+wPress
     (s.pressErr v c w (s.readSlots v c [prXp w]) = 0 ∧ ((s.issued v c opPress).pressRun v c run w).live = true) ∧
     Issues s v c opPress w) ∧
    (let s := ins opDrain wDrain slots4
     let v : VatId := 0
     let c : CtxId := 0
     let run : Run := run0
     let w : Nat := opDrain*2^120+wDrain
     (s.drainErr v c w (s.readSlots v c (drSlots w)) = 0 ∧ drFill w = false ∧ ((s.issued v c opDrain).drainRun v c run w).live = true) ∧
     Issues s v c opDrain w) ∧
    (let s := ins opDrain wFill slots4
     let v : VatId := 0
     let c : CtxId := 0
     let run : Run := run0
     let w : Nat := opDrain*2^120+wFill
     (s.drainErr v c w (s.readSlots v c (drSlots w)) = 0 ∧ drFill w = true ∧ ((s.issued v c opDrain).fillRun v c run w).live = true) ∧
     Issues s v c opDrain w) ∧
    (let s := ins opAttn wAttn attnSlots
     let v : VatId := 0
     let c : CtxId := 0
     let run : Run := run0
     let w : Nat := opAttn*2^120+wAttn
     (s.attnErr v c w (s.readSlots v c (atSlots w)) = 0 ∧ ((s.issued v c opAttn).attnRun v c run w).live = true) ∧
     Issues s v c opAttn w) ∧
    (let s := ins opRind wRind slots4
     let v : VatId := 0
     let c : CtxId := 0
     let run : Run := run0
     let w : Nat := opRind*2^120+wRind
     (s.rindErr w (s.readSlots v c (rdSlots w)) = 0 ∧ ((s.issued v c opRind).rindRun v c run w).live = true) ∧
     Issues s v c opRind w) ∧
    (let s := ins opSkim wSkim slots4
     let v : VatId := 0
     let c : CtxId := 0
     let run : Run := run0
     let w : Nat := opSkim*2^120+wSkim
     (skimErr w (s.readSlots v c (skSlots w)) = 0 ∧ s.copying v (s.skimRows v c w (s.skimOuts v c run w).fst (s.skimOuts v c run w).snd) = false ∧ ((s.issued v c opSkim).skimRun v c run w).live = true) ∧
     Issues s v c opSkim w) :=
  by
  and_intros <;> first | decide +kernel | (constructor <;> decide +kernel)

theorem witness_InstructionsStayInTheirVat :
    (let s := ins opTile wTile (chkOff :: slots4)
     let v : VatId := 0
     let c : CtxId := 0
     let run : Run := run0
     let w : Nat := opTile*2^120+wTile
     (run.faults = [] ∧ s.checksOn v (hChk w) = false ∧ s.tileErr v c w (s.readSlots v c (tlSlots w)) = 0 ∧ ((s.issued v c opTile).tileRun v c run w).live = true) ∧
     Issues s v c opTile w) ∧
    (let s := ins opMould wMould (chkOff :: slots4)
     let v : VatId := 0
     let c : CtxId := 0
     let run : Run := run0
     let w : Nat := opMould*2^120+wMould
     (run.faults = [] ∧ s.checksOn v (hChk w) = false ∧ mouldErr w (s.readSlots v c [moWp w]) = 0 ∧ ((s.issued v c opMould).mouldRun v c run w).live = true) ∧
     Issues s v c opMould w) ∧
    (let s := insM opPress wPress (chkOff :: slots4)
     let v : VatId := 0
     let c : CtxId := 0
     let run : Run := run0
     let w : Nat := opPress*2^120+wPress
     (run.faults = [] ∧ s.checksOn v (hChk w) = false ∧ s.pressErr v c w (s.readSlots v c [prXp w]) = 0 ∧ ((s.issued v c opPress).pressRun v c run w).live = true) ∧
     Issues s v c opPress w) ∧
    (let s := ins opDrain wDrain (chkOff :: slots4)
     let v : VatId := 0
     let c : CtxId := 0
     let run : Run := run0
     let w : Nat := opDrain*2^120+wDrain
     (run.faults = [] ∧ s.checksOn v (hChk w) = false ∧ s.drainErr v c w (s.readSlots v c (drSlots w)) = 0 ∧ drFill w = false ∧ ((s.issued v c opDrain).drainRun v c run w).live = true) ∧
     Issues s v c opDrain w) ∧
    (let s := ins opDrain wFill (chkOff :: slots4)
     let v : VatId := 0
     let c : CtxId := 0
     let run : Run := run0
     let w : Nat := opDrain*2^120+wFill
     (run.faults = [] ∧ s.checksOn v (hChk w) = false ∧ s.drainErr v c w (s.readSlots v c (drSlots w)) = 0 ∧ drFill w = true ∧ ((s.issued v c opDrain).fillRun v c run w).live = true) ∧
     Issues s v c opDrain w) ∧
    (let s := ins opAttn wAttn (chkOff :: attnSlots)
     let v : VatId := 0
     let c : CtxId := 0
     let run : Run := run0
     let w : Nat := opAttn*2^120+wAttn
     (run.faults = [] ∧ s.checksOn v (hChk w) = false ∧ s.attnErr v c w (s.readSlots v c (atSlots w)) = 0 ∧ swRing ((s.readSlots v c (atSlots w)).val (atMp w + 4)) = 0 ∧ ((s.issued v c opAttn).attnRun v c run w).live = true) ∧
     Issues s v c opAttn w) ∧
    (let s := ins opRind wRind (chkOff :: slots4)
     let v : VatId := 0
     let c : CtxId := 0
     let run : Run := run0
     let w : Nat := opRind*2^120+wRind
     (run.faults = [] ∧ s.checksOn v (hChk w) = false ∧ s.rindErr w (s.readSlots v c (rdSlots w)) = 0 ∧ ((s.issued v c opRind).rindRun v c run w).live = true) ∧
     Issues s v c opRind w) ∧
    (let s := ins opSkim wSkim (chkOff :: slots4)
     let v : VatId := 0
     let c : CtxId := 0
     let run : Run := run0
     let w : Nat := opSkim*2^120+wSkim
     (run.faults = [] ∧ s.checksOn v (hChk w) = false ∧ skimErr w (s.readSlots v c (skSlots w)) = 0 ∧ s.copying v (s.skimRows v c w (s.skimOuts v c run w).fst (s.skimOuts v c run w).snd) = false ∧ ((s.issued v c opSkim).skimRun v c run w).live = true) ∧
     Issues s v c opSkim w) :=
  by
  and_intros <;> first | decide +kernel | (constructor <;> decide +kernel)

theorem witness_MouldPressFillValues :
    (let s := ins opMould wMould slots4
     let v : VatId := 0
     let c : CtxId := 0
     let run : Run := run0
     let w : Nat := opMould*2^120+wMould
     (run.faults = [] ∧ mouldErr w (s.readSlots v c [moWp w]) = 0 ∧ ((s.issued v c opMould).mouldRun v c run w).live = true) ∧
     Issues s v c opMould w) ∧
    (let s := insM opPress wPress (chkOff :: slots4)
     let v : VatId := 0
     let c : CtxId := 0
     let run : Run := run0
     let w : Nat := opPress*2^120+wPress
     let m : Mould := { fmt := 0, kv := 1, cols := [0x3F80 :: List.replicate 255 0] }
     (run.faults = [] ∧ s.pressErr v c w (s.readSlots v c [prXp w]) = 0 ∧ s.checksOn v (hChk w) = false ∧ prCount w = 1 ∧ prHow w = 0 ∧ (s.vat v).mould = some m ∧ ((s.issued v c opPress).pressRun v c run w).live = true) ∧
     Issues s v c opPress w) ∧
    (let s := ins opDrain wFill slots4
     let v : VatId := 0
     let c : CtxId := 0
     let run : Run := run0
     let w : Nat := opDrain*2^120+wFill
     (run.faults = [] ∧ drFill w = true ∧ s.drainErr v c w (s.readSlots v c (drSlots w)) = 0 ∧ ((s.issued v c opDrain).fillRun v c run w).live = true) ∧
     Issues s v c opDrain w) :=
  by
  and_intros <;> first | decide +kernel | (constructor <;> decide +kernel)

theorem witness_SegmentVerdict :
    (let s := vat
     let v : VatId := 0
     let g : Segment := seg0
     s.canIssue v (↑g.ctx : Nat) = true ∧ (s.vat v).staged = [] ∧ attPasses g.first = true ∧ (List.flatMap (fun x ↦ curdKey v (↑x.slot : Nat) (↑x.col : Nat) :: if 2 ≤ (↑x.how : Nat) then [curdKey v (((↑x.slot : Nat) + 1) % 4096) (↑x.col : Nat)] else []) g.writes).Nodup) ∧
    (let s := sets vat [(.VAT_CHK_CTRL 0, VAT_CHK_CTRL.LOG_TRANSIENT, 0)]
     let v : VatId := 0
     let g : Segment := seg1
     s.canIssue v (↑g.ctx : Nat) = true ∧ (s.vat v).staged = [] ∧ attPasses g.first = false ∧ attPasses g.again = true ∧ s.get (Reg.VAT_CHK_CTRL v) VAT_CHK_CTRL.LOG_TRANSIENT = 0 ∧ (List.flatMap (fun x ↦ curdKey v (↑x.slot : Nat) (↑x.col : Nat) :: if 2 ≤ (↑x.how : Nat) then [curdKey v (((↑x.slot : Nat) + 1) % 4096) (↑x.col : Nat)] else []) g.writes).Nodup) ∧
    (let s := vat
     let v : VatId := 0
     let g : Segment := seg3
     s.canIssue v (↑g.ctx : Nat) = true ∧ (s.vat v).staged = [] ∧ attPasses g.first = false ∧ attPasses g.again = false ∧ attNamed g.again ≠ [] ∧ (attNamed g.again).length ≤ 2 ∧ (attNamed g.again).length ≤ sparesFree (s.rd (Reg.VAT_LANE_REMAP v)) ∧ s.get Reg.ERR_STATUS ERR_STATUS.PROD < 1000) ∧
    (let s := vat
     let v : VatId := 0
     let g : Segment := seg2
     (s.canIssue v (↑g.ctx : Nat) = true ∧ (s.vat v).staged = [] ∧ attPasses g.first = false ∧ attPasses g.again = false ∧ attNamed g.again = []) ∧
     LogFree s) :=
  by
  and_intros <;> first | decide +kernel | (constructor <;> decide +kernel) | (unfold LogFree; decide +kernel)

theorem witness_CtxStartRuns :
    (let s := ctxIn csEmpty
     let m : Master := .reeve
     let v : VatId := 0
     let c : CtxId := 0
     let val : W64 := 0
     (VAT_CTX_CTRL.RESUME.get val = 0 ∧ VAT_CTX_CTRL.ABORT.get val = 0 ∧ VAT_CTX_CTRL.PAUSE.get val = 0 ∧ (s.cst v c = csEmpty ∨ s.cst v c = csHalted ∨ s.cst v c = csError)) ∧
     Writes s m (Reg.VAT_CTX_CTRL v c) (withBit VAT_CTX_CTRL.START val true)) ∧
    (let s := ctxIn csHalted
     let m : Master := .host 0
     let v : VatId := 0
     let c : CtxId := 0
     let val : W64 := 5*2^8
     (VAT_CTX_CTRL.RESUME.get val = 0 ∧ VAT_CTX_CTRL.ABORT.get val = 0 ∧ VAT_CTX_CTRL.PAUSE.get val = 0 ∧ (s.cst v c = csEmpty ∨ s.cst v c = csHalted ∨ s.cst v c = csError)) ∧
     Writes s m (Reg.VAT_CTX_CTRL v c) (withBit VAT_CTX_CTRL.START val true)) :=
  by
  and_intros <;> first | decide +kernel | (constructor <;> decide +kernel)

theorem witness_CtxPauseResumeRun :
    (let s := ctxIn csRun
     let m : Master := .reeve
     let v : VatId := 0
     let c : CtxId := 0
     let val : W64 := 0
     (VAT_CTX_CTRL.START.get val = 0 ∧ VAT_CTX_CTRL.RESUME.get val = 0 ∧ VAT_CTX_CTRL.ABORT.get val = 0 ∧ (s.vat v).abortWait.contains c = false ∧ (s.vat v).aborts.contains c = false ∧ s.cst v c = csRun) ∧
     Writes s m (Reg.VAT_CTX_CTRL v c) (withBit VAT_CTX_CTRL.PAUSE val true)) ∧
    (let s := ctxIn csWait
     let m : Master := .reeve
     let v : VatId := 0
     let c : CtxId := 0
     let val : W64 := 0
     (VAT_CTX_CTRL.START.get val = 0 ∧ VAT_CTX_CTRL.RESUME.get val = 0 ∧ VAT_CTX_CTRL.ABORT.get val = 0 ∧ (s.vat v).abortWait.contains c = false ∧ (s.vat v).aborts.contains c = false ∧ (s.cst v c = csReady ∨ s.cst v c = csWait)) ∧
     Writes s m (Reg.VAT_CTX_CTRL v c) (withBit VAT_CTX_CTRL.PAUSE val true)) ∧
    (let s := sets vat [(.VAT_CTX_CTRL 0 0, VAT_CTX_CTRL.PAUSE, 1)]
     let v : VatId := 0
     let c : CtxId := 0
     s.get (Reg.VAT_CTX_CTRL v c) VAT_CTX_CTRL.PAUSE = 1 ∧ s.cst v c = csRun ∧ (s.vat v).aborts.contains c = false) ∧
    (let s := ctxIn csPaused
     let m : Master := .reeve
     let v : VatId := 0
     let c : CtxId := 0
     let val : W64 := 0
     (VAT_CTX_CTRL.START.get val = 0 ∧ VAT_CTX_CTRL.ABORT.get val = 0 ∧ VAT_CTX_CTRL.PAUSE.get val = 0 ∧ s.cst v c = csPaused) ∧
     Writes s m (Reg.VAT_CTX_CTRL v c) (withBit VAT_CTX_CTRL.RESUME val true)) :=
  by
  and_intros <;> first | decide +kernel | (constructor <;> decide +kernel)

theorem witness_CtxAbortRuns :
    (let s := ctxIn csRun
     let m : Master := .reeve
     let v : VatId := 0
     let c : CtxId := 0
     let val : W64 := 0
     (VAT_CTX_CTRL.START.get val = 0 ∧ VAT_CTX_CTRL.RESUME.get val = 0 ∧ VAT_CTX_CTRL.PAUSE.get val = 0 ∧ s.cst v c = csRun) ∧
     Writes s m (Reg.VAT_CTX_CTRL v c) (withBit VAT_CTX_CTRL.ABORT val true)) ∧
    (let s := batchOf (ctxIn csWait)
     let m : Master := .reeve
     let v : VatId := 0
     let c : CtxId := 0
     let val : W64 := 0
     (VAT_CTX_CTRL.START.get val = 0 ∧ VAT_CTX_CTRL.RESUME.get val = 0 ∧ VAT_CTX_CTRL.PAUSE.get val = 0 ∧ (s.cst v c = csReady ∨ s.cst v c = csWait ∨ s.cst v c = csPaused)) ∧
     Writes s m (Reg.VAT_CTX_CTRL v c) (withBit VAT_CTX_CTRL.ABORT val true)) ∧
    (let s := ctxIn csPaused
     let m : Master := .reeve
     let v : VatId := 0
     let c : CtxId := 0
     let val : W64 := 0
     (VAT_CTX_CTRL.START.get val = 0 ∧ VAT_CTX_CTRL.RESUME.get val = 0 ∧ VAT_CTX_CTRL.PAUSE.get val = 0 ∧ (s.cst v c = csReady ∨ s.cst v c = csWait ∨ s.cst v c = csPaused)) ∧
     Writes s m (Reg.VAT_CTX_CTRL v c) (withBit VAT_CTX_CTRL.ABORT val true)) ∧
    (let s := aborting
     let v : VatId := 0
     let c : CtxId := 0
     (s.vat v).aborts.contains c = true ∧ s.cst v c = csRun) ∧
    (let s := zeroing
     let v : VatId := 0
     (s.vat v).zeroing = true) :=
  by
  and_intros <;> first | decide +kernel | (constructor <;> decide +kernel)

theorem witness_SemaphoresRun :
    (let s := semWait 7 true
     let v : VatId := 0
     let c : CtxId := 0
     let w : Nat := opSemw*2^120+3 * 2 ^ 102 + 2 ^ 69 + 7 * 2 ^ 70
     s.cst v c = csWait ∧ s.get (Reg.VAT_CTX_STATUS v c) VAT_CTX_STATUS.WAIT_ON = 1 ∧ s.fetch v c = some w ∧ hOpc w = opSemw ∧ semOk (semwKind w) (semwIdx w) = true ∧ semwVal w ≤ s.sem v (semwKind w) (semwIdx w) ∧ (∀ (d : Nat), d < 4 → d ≠ c → s.cst v d ≠ csWait) ∧ (∀ (i : Nat), i < 64 → (s.stream v i).head = none)) ∧
    (let s := semWait 8 false
     let v : VatId := 0
     let c : CtxId := 0
     let w : Nat := opSemw*2^120+3 * 2 ^ 102 + 2 ^ 69 + 7 * 2 ^ 70
     s.cst v c = csWait ∧ s.get (Reg.VAT_CTX_STATUS v c) VAT_CTX_STATUS.WAIT_ON = 1 ∧ s.fetch v c = some w ∧ hOpc w = opSemw ∧ semOk (semwKind w) (semwIdx w) = true ∧ semwVal w ≤ s.sem v (semwKind w) (semwIdx w) ∧ (∀ (d : Nat), d < 4 → d ≠ c → s.cst v d ≠ csWait) ∧ (∀ (i : Nat), i < 64 → (s.stream v i).head = none)) ∧
    (let s := semStreamSt
     let v : VatId := 0
     let i : StreamId := 5
     let d : Desc := dArr
     (∀ (c : Nat), c < 4 → s.cst v c ≠ csWait) ∧ (∀ (j : Nat), j < 64 → j ≠ i → (s.stream v j).head = none) ∧ (s.stream v i).head = some d ∧ (s.stream v i).stopped = false ∧ d.taken = false ∧ orderOk (s.stream v i) d = true ∧ dWkind d.bytes ≠ 0 ∧ semOk (dWkind d.bytes - 1) (dWidx d.bytes) = true ∧ dWval d.bytes ≤ s.sem v (dWkind d.bytes - 1) (dWidx d.bytes)) ∧
    (let s := postSt 2 255 9 false
     let n : Nat := 0
     let k : Nat := 0
     let kind : Nat := 2
     let i : Nat := 255
     let val : Nat := 9
     let stop : Nat := 6
     let w : Nat := 0
     let set : Bool := false
     let p : DPkt := { src := 6, part := 0, dest := .stop 6, load := .post 2 255 9 false }
     s.copyAt n = some (k, p, stop) ∧ s.dnetFirst k p stop = true ∧ p.load = Load.post kind i val set ∧ semOk kind i = true ∧ i < 256 ∧ 6 ≤ stop ∧ stop < 24 ∧ s.domOn (Domain.periphery (stop - 6)) = true ∧ s.logical (stop - 6) = some w ∧ (p.src < 6 ∨ 24 ≤ p.src ∨ s.part w = p.part) ∧ (if set = true then val else s.sem w kind i + val) < 2 ^ 32) ∧
    (let s := postSt 1 63 (2^32-1) true
     let n : Nat := 0
     let k : Nat := 0
     let kind : Nat := 1
     let i : Nat := 63
     let val : Nat := 2^32-1
     let stop : Nat := 6
     let w : Nat := 0
     let set : Bool := true
     let p : DPkt := { src := 6, part := 0, dest := .stop 6, load := .post 1 63 (2^32-1) true }
     s.copyAt n = some (k, p, stop) ∧ s.dnetFirst k p stop = true ∧ p.load = Load.post kind i val set ∧ semOk kind i = true ∧ i < 256 ∧ 6 ≤ stop ∧ stop < 24 ∧ s.domOn (Domain.periphery (stop - 6)) = true ∧ s.logical (stop - 6) = some w ∧ (p.src < 6 ∨ 24 ≤ p.src ∨ s.part w = p.part) ∧ (if set = true then val else s.sem w kind i + val) < 2 ^ 32) ∧
    (let s := vat
     let m : Master := .reeve
     let v : VatId := 0
     let e : Bool := true
     let i : Fin 64 := 63
     let val : W64 := 2^40+5
     Writes s m (semReg v (if e = true then 1 else 0) i) val) ∧
    (let s := vat
     let m : Master := .host 0
     let v : VatId := 0
     let i : Fin 256 := 255
     let val : W64 := 2^40+5
     Writes s m (Reg.VAT_ARRIVAL v i) val) :=
  by
  and_intros <;> first | decide +kernel | (constructor <;> decide +kernel)

theorem witness_WagonStarts :
    (let s := hdrSt
     let v : VatId := 0
     let i : StreamId := 7
     let b : Batch := bat0
     let q : List Batch := []
     (s.stream v i).queue = b :: q ∧ b.fetched = false ∧ (s.stream v i).stopped = false ∧ s.poisoned b.hdr 64 = false ∧ s.headerErr v (s.bytes b.hdr 64) = 0) ∧
    (let s := headSt
     let v : VatId := 0
     let i : StreamId := 7
     let b : Batch := bat2
     let q : List Batch := []
     let bs : List Byte := dCopy
     let held : List (List Byte × Bool) := []
     (s.stream v i).queue = b :: q ∧ b.held = (bs, false) :: held ∧ b.fetched = true ∧ (s.stream v i).stopped = false ∧ (s.stream v i).nextIdx ≠ b.count ∧ (s.stream v i).head = none ∧ s.descErr v bs = 0) ∧
    (let s := eighthSt
     let v : VatId := 0
     let i : StreamId := 7
     let d : Desc := { idx := 7, bytes := dZero, taken := true }
     let u := s.semCycle v
     (s.vat v).killed = false ∧ (u.stream v i).head = some d ∧ (u.stream v i).stopped = false ∧ orderOk (u.stream v i) d = true ∧ (dKind d.bytes = dkProg → u.progFree v d.bytes = true) ∧ u.claimsErr v (u.descBanks v d.bytes) = 0 ∧ (d.taken = true ∨ dWkind d.bytes = 0)) ∧
    (let s := startSt dZero false
     let v : VatId := 0
     let i : StreamId := 7
     let d : Desc := { idx := 0, bytes := dZero, taken := true }
     let u := s.semCycle v
     (s.vat v).killed = false ∧ (u.stream v i).head = some d ∧ (u.stream v i).stopped = false ∧ orderOk (u.stream v i) d = true ∧ (dKind d.bytes = dkProg → u.progFree v d.bytes = true) ∧ u.claimsErr v (u.descBanks v d.bytes) = 0 ∧ (d.taken = true ∨ dWkind d.bytes = 0)) ∧
    (let s := startSt dCopy false
     let v : VatId := 0
     let i : StreamId := 7
     let d : Desc := { idx := 0, bytes := dCopy }
     let u := s.semCycle v
     (s.vat v).killed = false ∧ (u.stream v i).head = some d ∧ (u.stream v i).stopped = false ∧ orderOk (u.stream v i) d = true ∧ (dKind d.bytes = dkProg → u.progFree v d.bytes = true) ∧ u.claimsErr v (u.descBanks v d.bytes) = 0 ∧ (d.taken = true ∨ dWkind d.bytes = 0)) ∧
    (let s := startSt dZero true
     let v : VatId := 0
     let i : StreamId := 7
     let d : Desc := { idx := 0, bytes := dZero, taken := true }
     let u := s.semCycle v
     (s.vat v).killed = false ∧ (u.stream v i).head = some d ∧ (u.stream v i).stopped = false ∧ orderOk (u.stream v i) d = true ∧ (dKind d.bytes = dkProg → u.progFree v d.bytes = true) ∧ u.claimsErr v (u.descBanks v d.bytes) = 0 ∧ (d.taken = true ∨ dWkind d.bytes = 0)) :=
  by
  and_intros <;> first | decide +kernel | (constructor <;> decide +kernel)

theorem witness_ChunkGrantCopies :
    (let s := copySt
     let v : VatId := 0
     let i : Nat := 7
     let d : Desc := copyD
     let a : Nat := 0x1000
     let x : Nat := 0x2000
     let n : Nat := 64
     let p : DPkt := cpRead
     (s.vat (↑v : Nat)).killed = false ∧ s.grantee (↑v : Nat) = some i ∧ s.readyDesc (↑v : Nat) i = some d ∧ List.find? (fun e ↦ decide (e.idx = d.idx) && decide (e.err = 0)) (s.stream (↑v : Nat) i).descs = some d ∧ dKind d.bytes = dkCopy ∧ d.moved + 1 = dPieces d.bytes ∧ dSources d.bytes d.moved = [(a, n)] ∧ dDest d.bytes d.moved = some (x, n) ∧ s.place (s.part (↑v : Nat)) a n = Place.hbm ∧ s.place (s.part (↑v : Nat)) x n = Place.hbm ∧ 0 < n ∧ a % 2048 + n ≤ 2048 ∧ x % 2048 + n ≤ 2048 ∧ s.pieceUses (some ((↑v : Nat), i, d.idx)) d.moved = [] ∧ p = { src := s.stopOf (↑v : Nat), part := s.part (↑v : Nat), dest := DTo.stop (hbmStop a), load := Load.read a n, owner := some ((↑v : Nat), i, d.idx), tag := some s.newTag }) ∧
    (let s := flySt cpRead cpRead
     let n : Nat := 0
     let k : Nat := 0
     let a : Nat := 0x1000
     let m : Nat := 64
     let stop : Nat := 2
     let p : DPkt := cpRead
     s.copyAt n = some (k, p, stop) ∧ s.dnetFirst k p stop = true ∧ p.load = Load.read a m ∧ stop < 6 ∧ s.domOn (Domain.hbmCtl stop) = true) ∧
    (let s := flySt cpWrite cpWrite
     let n : Nat := 0
     let k : Nat := 0
     let a : Nat := 0x2000
     let stop : Nat := 4
     let data : List Byte := List.replicate 64 7
     let p : DPkt := cpWrite
     s.copyAt n = some (k, p, stop) ∧ s.dnetFirst k p stop = true ∧ p.load = Load.bytes a data ∧ stop < 6 ∧ s.domOn (Domain.hbmCtl stop) = true) ∧
    (let s := flySt cpGot cpRead
     let n : Nat := 0
     let k : Nat := 0
     let stop : Nat := 6
     let w : Nat := 0
     let i : Nat := 7
     let idx : Nat := 0
     let a : Nat := 0x1000
     let m : Nat := 64
     let x : Nat := 0x2000
     let r : Nat := 64
     let v : VatId := 0
     let p : DPkt := cpGot
     let q : DPkt := cpRead
     let u : DPkt := cpWrite
     let tg : TagUse := cpTag cpRead
     let d : Desc := { copyD with moved := 1 }
     let data : List Byte := List.replicate 64 7
     s.copyAt n = some (k, p, stop) ∧ s.dnetFirst k p stop = true ∧ p.load = Load.got data false ∧ 6 ≤ stop ∧ stop < 24 ∧ s.domOn (Domain.periphery (stop - 6)) = true ∧ s.logical (stop - 6) = some w ∧ (physOfStop p.src = none ∨ s.part w = p.part) ∧ s.dnetTag p = some tg ∧ tg.owner = some ((↑v : Nat), i, idx) ∧ tg.req = TagReq.dnet q ∧ q.load = Load.read a m ∧ s.ownerDesc tg.owner = some d ∧ d.err = 0 ∧ d.idx = idx ∧ s.pieceUses tg.owner tg.piece = [tg] ∧ (∀ (y : TagUse), y ∈ s.tags → y.id = tg.id → y = tg) ∧ dKind d.bytes = dkCopy ∧ dDest d.bytes tg.piece = some (x, r) ∧ data.length = r ∧ s.place (s.part (↑v : Nat)) x r = Place.hbm ∧ 0 < r ∧ x % 2048 + r ≤ 2048 ∧ u = { src := s.stopOf (↑v : Nat), part := s.part (↑v : Nat), dest := DTo.stop (hbmStop x), load := Load.bytes x data, owner := tg.owner, tag := some tg.id, seq := tg.seq }) ∧
    (let s := flySt cpDone cpWrite
     let n : Nat := 0
     let k : Nat := 0
     let stop : Nat := 6
     let w : Nat := 0
     let p : DPkt := cpDone
     let tg : TagUse := cpTag cpWrite
     (s.copyAt n = some (k, p, stop) ∧ s.dnetFirst k p stop = true ∧ p.load = Load.done eOk ∧ 6 ≤ stop ∧ stop < 24 ∧ s.domOn (Domain.periphery (stop - 6)) = true ∧ s.logical (stop - 6) = some w ∧ (physOfStop p.src = none ∨ s.part w = p.part) ∧ s.dnetTag p = some tg ∧ tg.left = [p.src]) ∧
     (∀ (u : Nat), (s.vat u).killed = false)) :=
  ⟨by decide +kernel,
    by decide +kernel,
    by decide +kernel,
    by decide +kernel,
    ⟨by decide +kernel, fun _ => rfl⟩⟩

theorem witness_DescriptorsComplete :
    (let s := doneSt dZero 1 0
     let v : VatId := 0
     let i : StreamId := 7
     let d : Desc := doneD dZero 1
     let b : Batch := { bat1 with count := 1, next := 0 }
     let q : List Batch := [bat0]
     (s.stream (↑v : Nat) (↑i : Nat)).descs = [d] ∧ d.started = true ∧ d.complete = false ∧ d.err = 0 ∧ d.moved = dPieces d.bytes ∧ (∀ (x : TagUse), x ∈ s.tags → x.owner ≠ some ((↑v : Nat), (↑i : Nat), d.idx)) ∧ dIrq d.bytes = false ∧ (s.stream (↑v : Nat) (↑i : Nat)).queue = b :: q ∧ b.fetched = true ∧ b.irq = false ∧ (s.stream (↑v : Nat) (↑i : Nat)).stopped = false ∧ (∀ (c : Nat), c < 4 → s.cst (↑v : Nat) c ≠ csWait) ∧ (dPkind d.bytes = 0 ∨ dPtgt d.bytes / 16 % 2 = 1 ∨ (dPkind d.bytes = 1 ∨ dPkind d.bytes = 2) ∧ dPidx d.bytes < 64 ∧ s.sem (↑v : Nat) (dPkind d.bytes - 1) (dPidx d.bytes) + dPval d.bytes < 2 ^ 32)) ∧
    (let s := doneSt dZero 1 128
     let v : VatId := 0
     let i : StreamId := 7
     let d : Desc := doneD dZero 1
     let b : Batch := { bat1 with count := 1, next := 128 }
     let q : List Batch := [bat0]
     (s.stream (↑v : Nat) (↑i : Nat)).descs = [d] ∧ d.started = true ∧ d.complete = false ∧ d.err = 0 ∧ d.moved = dPieces d.bytes ∧ (∀ (x : TagUse), x ∈ s.tags → x.owner ≠ some ((↑v : Nat), (↑i : Nat), d.idx)) ∧ dIrq d.bytes = false ∧ (s.stream (↑v : Nat) (↑i : Nat)).queue = b :: q ∧ b.fetched = true ∧ b.irq = false ∧ (s.stream (↑v : Nat) (↑i : Nat)).stopped = false ∧ (∀ (c : Nat), c < 4 → s.cst (↑v : Nat) c ≠ csWait) ∧ (dPkind d.bytes = 0 ∨ dPtgt d.bytes / 16 % 2 = 1 ∨ (dPkind d.bytes = 1 ∨ dPkind d.bytes = 2) ∧ dPidx d.bytes < 64 ∧ s.sem (↑v : Nat) (dPkind d.bytes - 1) (dPidx d.bytes) + dPval d.bytes < 2 ^ 32)) ∧
    (let s := doneSt dZero 2 0
     let v : VatId := 0
     let i : StreamId := 7
     let d : Desc := doneD dZero 1
     let b : Batch := { bat1 with count := 2, next := 0 }
     let q : List Batch := [bat0]
     (s.stream (↑v : Nat) (↑i : Nat)).descs = [d] ∧ d.started = true ∧ d.complete = false ∧ d.err = 0 ∧ d.moved = dPieces d.bytes ∧ (∀ (x : TagUse), x ∈ s.tags → x.owner ≠ some ((↑v : Nat), (↑i : Nat), d.idx)) ∧ dIrq d.bytes = false ∧ (s.stream (↑v : Nat) (↑i : Nat)).queue = b :: q ∧ b.fetched = true ∧ b.irq = false ∧ (s.stream (↑v : Nat) (↑i : Nat)).stopped = false ∧ (∀ (c : Nat), c < 4 → s.cst (↑v : Nat) c ≠ csWait) ∧ (dPkind d.bytes = 0 ∨ dPtgt d.bytes / 16 % 2 = 1 ∨ (dPkind d.bytes = 1 ∨ dPkind d.bytes = 2) ∧ dPidx d.bytes < 64 ∧ s.sem (↑v : Nat) (dPkind d.bytes - 1) (dPidx d.bytes) + dPval d.bytes < 2 ^ 32)) ∧
    (let s := doneSt dCopy 1 0
     let v : VatId := 0
     let i : StreamId := 7
     let d : Desc := doneD dCopy 1
     let b : Batch := { bat1 with count := 1, next := 0 }
     let q : List Batch := [bat0]
     (s.stream (↑v : Nat) (↑i : Nat)).descs = [d] ∧ d.started = true ∧ d.complete = false ∧ d.err = 0 ∧ d.moved = dPieces d.bytes ∧ (∀ (x : TagUse), x ∈ s.tags → x.owner ≠ some ((↑v : Nat), (↑i : Nat), d.idx)) ∧ dIrq d.bytes = false ∧ (s.stream (↑v : Nat) (↑i : Nat)).queue = b :: q ∧ b.fetched = true ∧ b.irq = false ∧ (s.stream (↑v : Nat) (↑i : Nat)).stopped = false ∧ (∀ (c : Nat), c < 4 → s.cst (↑v : Nat) c ≠ csWait) ∧ (dPkind d.bytes = 0 ∨ dPtgt d.bytes / 16 % 2 = 1 ∨ (dPkind d.bytes = 1 ∨ dPkind d.bytes = 2) ∧ dPidx d.bytes < 64 ∧ s.sem (↑v : Nat) (dPkind d.bytes - 1) (dPidx d.bytes) + dPval d.bytes < 2 ^ 32)) :=
  by
  and_intros <;> first | decide +kernel | (constructor <;> decide +kernel)

theorem witness_StreamsResetAndLate :
    (let s := stoppedSt
     let m : Master := .reeve
     let v : VatId := 0
     let i : StreamId := 7
     let val : W64 := 0
     ((s.stream v i).stopped = true ∧ (∀ (c : Nat), c < 4 → s.cst v c ≠ csWait)) ∧
     Writes s m (Reg.WAGON_STREAM_CFG v i) (withBit WAGON_STREAM_CFG.RESET val true)) ∧
    (let s := lateSt false
     let v : VatId := 0
     let c : CtxId := 0
     let i : Nat := 3
     s.waitStream v c = some i ∧ s.strict v = false) ∧
    (let s := lateSt true
     let v : VatId := 0
     let c : CtxId := 0
     let i : Nat := 3
     (s.strict v = true ∧ (s.waitStream v c).isSome = true ∧ (s.semCycle v).waitStream v c = some i) ∧
     LogFree (s.semCycle v)) ∧
    (let s := rowSt 5
     let n : Nat := 0
     let x : TagUse := rowTag 5
     let p : DPkt := pkRow 5
     s.tags[n]? = some x ∧ x.again = false ∧ x.req = TagReq.dnet p ∧ (∀ (o : Nat × Nat × Nat), x.owner = some o → (s.vat o.fst).killed = false)) :=
  by
  and_intros <;> first | decide +kernel | (constructor <;> decide +kernel) | (unfold LogFree; decide +kernel)

theorem witness_DnetArrives :
    (let s := rowSt 5
     let n : Nat := 0
     let k : Nat := 0
     let r : Nat := 5
     let stop : Nat := 6
     let w : Nat := 0
     let v : Nat := 0
     let i : Nat := 7
     let idx : Nat := 0
     let p : DPkt := pkRow 5
     let d : Desc := doneD dZero 1
     let data : List Byte := List.replicate 512 7
     (s.copyAt n = some (k, p, stop) ∧ s.dnetFirst k p stop = true ∧ p.load = Load.row r data ∧ 6 ≤ stop ∧ stop < 24 ∧ s.domOn (Domain.periphery (stop - 6)) = true ∧ s.logical (stop - 6) = some w ∧ s.part w = p.part ∧ p.owner = some (v, i, idx) ∧ s.ownerDesc p.owner = some d ∧ d.refused.contains w = false ∧ r < rowsPerCellar ∧ data.length = 512 ∧ s.gs w (bankOf r / 32) ≠ gsOff ∧ (∀ (c : Claim), c ∈ s.claimsOn w (bankOf r) → c.holder ≠ p.holder) ∧ (∀ (b : Nat), b ∈ s.destBanks v w d.bytes → s.arriveErr w b portWagon portMould = 0)) ∧
     (∀ (u : Nat), (s.vat u).killed = false)) ∧
    (let s := toSt 1 5
     let n : Nat := 0
     let k : Nat := 0
     let r : Nat := 5
     let stop : Nat := 7
     let w : Nat := 1
     let v : Nat := 0
     let i : Nat := 7
     let idx : Nat := 0
     let p : DPkt := pkTo 1 5
     let d : Desc := doneD dMc 1
     let data : List Byte := List.replicate 512 7
     (s.copyAt n = some (k, p, stop) ∧ s.dnetFirst k p stop = true ∧ p.load = Load.row r data ∧ 6 ≤ stop ∧ stop < 24 ∧ s.domOn (Domain.periphery (stop - 6)) = true ∧ s.logical (stop - 6) = some w ∧ s.part w = p.part ∧ p.owner = some (v, i, idx) ∧ s.ownerDesc p.owner = some d ∧ d.refused.contains w = false ∧ r < rowsPerCellar ∧ data.length = 512 ∧ s.gs w (bankOf r / 32) ≠ gsOff ∧ (∀ (c : Claim), c ∈ s.claimsOn w (bankOf r) → c.holder ≠ p.holder) ∧ (∀ (b : Nat), b ∈ s.destBanks v w d.bytes → s.arriveErr w b portWagon portMould = 0)) ∧
     (∀ (u : Nat), (s.vat u).killed = false)) ∧
    (let s := rowSt 32767
     let n : Nat := 0
     let k : Nat := 0
     let r : Nat := 32767
     let stop : Nat := 6
     let w : Nat := 0
     let v : Nat := 0
     let i : Nat := 7
     let idx : Nat := 0
     let p : DPkt := pkRow 32767
     let d : Desc := doneD dZero 1
     let data : List Byte := List.replicate 512 7
     (s.copyAt n = some (k, p, stop) ∧ s.dnetFirst k p stop = true ∧ p.load = Load.row r data ∧ 6 ≤ stop ∧ stop < 24 ∧ s.domOn (Domain.periphery (stop - 6)) = true ∧ s.logical (stop - 6) = some w ∧ s.part w = p.part ∧ p.owner = some (v, i, idx) ∧ s.ownerDesc p.owner = some d ∧ d.refused.contains w = false ∧ r < rowsPerCellar ∧ data.length = 512 ∧ s.gs w (bankOf r / 32) ≠ gsOff ∧ (∀ (c : Claim), c ∈ s.claimsOn w (bankOf r) → c.holder ≠ p.holder) ∧ (∀ (b : Nat), b ∈ s.destBanks v w d.bytes → s.arriveErr w b portWagon portMould = 0)) ∧
     (∀ (u : Nat), (s.vat u).killed = false)) ∧
    (let s := rowSt 5
     let n : Nat := 0
     let k : Nat := 0
     let stop : Nat := 6
     let p : DPkt := pkRow 5
     (s.copyAt n = some (k, p, stop) ∧ s.dnetFirst k p stop = true) ∧
     LogFree s) :=
  ⟨⟨by decide +kernel, fun _ => rfl⟩,
    ⟨by decide +kernel, fun _ => rfl⟩,
    ⟨by decide +kernel, fun _ => rfl⟩,
    ⟨by decide +kernel, by unfold LogFree; decide +kernel⟩⟩

theorem witness_GroupPowerRuns :
    (let s := up
     let v : VatId := 0
     s.valid v = false) ∧
    (let s := grp 3 gsOff 0
     let v : VatId := 0
     let g : Fin 4 := 3
     s.valid v = true ∧ s.gs v g = gsOff) ∧
    (let s := grp 0 gsOn 1
     let v : VatId := 0
     let g : Fin 4 := 0
     s.valid v = true ∧ s.gs v g = gsOn) ∧
    (let s := grp 3 gsWaking 0
     let v : VatId := 0
     let g : Fin 4 := 3
     s.gs v g = gsWaking) ∧
    (let s := grp 3 gsClosing 0
     let v : VatId := 0
     let g : Fin 4 := 3
     let late : Bool := false
     s.gs v g = gsClosing ∧ (late || !s.groupTags v g) = true ∧ s.get (Reg.CELLAR_GROUP_CTRL v) (pwrFld g) = 0 ∧ (∀ (i : Nat), i < 4 → s.get (Reg.CELLAR_BANK_MAP v) (bmCopying i) = 0)) :=
  by
  and_intros <;> first | decide +kernel | (constructor <;> decide +kernel)

theorem witness_ScrubsRun :
    (let s := vat
     let v : VatId := 0
     let r : BitVec 17 := 0
     s.rowLive v r.toNat = true) ∧
    (let s := vat
     let v : VatId := 0
     let r : BitVec 17 := 32767
     s.rowLive v r.toNat = true) ∧
    (let s := vat
     let v : VatId := 0
     let r : BitVec 17 := 32767
     let k : Nat := 0
     (s.rowLive v r.toNat = true ∧ s.copyOf v (bankOf r.toNat) = none ∧ s.spareOf v (bankOf r.toNat) = none ∧ s.freeSpare v = some k) ∧
     LogFree s) ∧
    (let s := sets vat [(.CELLAR_STATUS 0, CELLAR_STATUS.SCRUB_BUSY, 1)]
     let v : VatId := 0
     s.get (Reg.CELLAR_STATUS v) CELLAR_STATUS.SCRUB_BUSY = 1) ∧
    (let s := copying0
     let v : VatId := 0
     let i : Fin 4 := 3
     s.get (Reg.CELLAR_BANK_MAP v) (bmCopying i) = 1) :=
  by
  and_intros <;> first | decide +kernel | (constructor <;> decide +kernel) | (unfold LogFree; decide +kernel)

theorem witness_RingsRun :
    (let s := vat
     let m : Master := .host 0
     let f : FuncId := 0
     let val : W64 := 4
     let b : Bool := true
     s.get (Reg.REEVE_RING_CFG f) REEVE_RING_CFG.ENABLE ≠ b.toNat ∧
     Lands s m (Reg.REEVE_RING_CFG f) (withBit REEVE_RING_CFG.ENABLE val b)) ∧
    (let s := ringSt []
     let m : Master := .reeve
     let f : FuncId := 0
     let val : W64 := 2^39+4
     let b : Bool := false
     s.get (Reg.REEVE_RING_CFG f) REEVE_RING_CFG.ENABLE ≠ b.toNat ∧
     Lands s m (Reg.REEVE_RING_CFG f) (withBit REEVE_RING_CFG.ENABLE val b)) ∧
    (let s := ringSt []
     let f : FuncId := 0
     let val : W32 := 16
     let ahead := (BitVec.toNat val + 2 ^ 32 - (s.ring f).cons) % 2 ^ 32
     s.ringOn f = true ∧ s.phase ≠ 7 ∧ 0 < ahead ∧ ahead ≤ s.ringSizeOf f ∧ ahead < 2 ^ 31) ∧
    (let s := ringSt []
     let f : FuncId := 0
     let val : W32 := 17
     let ahead := (BitVec.toNat val + 2 ^ 32 - (s.ring f).cons) % 2 ^ 32
     (s.ringOn f = true ∧ s.phase ≠ 7 ∧ s.ringSizeOf f < ahead ∧ ahead < 2 ^ 31) ∧
     LogFree s) ∧
    (let s := ringSt []
     let f : FuncId := 0
     let val : W32 := 0
     let ahead := (BitVec.toNat val + 2 ^ 32 - (s.ring f).cons) % 2 ^ 32
     s.ringOn f = true ∧ s.phase ≠ 7 ∧ (ahead = 0 ∨ 2 ^ 31 ≤ ahead)) ∧
    (let s := ringSt (cmdDesc 0)
     let f : FuncId := 0
     s.ringNext = some f) ∧
    (let s := ringSt (cmdDesc 0)
     let u := taken (cmdDesc 0)
     let f : FuncId := 0
     let b : List Byte := cmdDesc 0
     s.ringTake f = some (b, u)) ∧
    (let s := ringSt (cmdDesc 5)
     let u := taken (cmdDesc 5)
     let f : FuncId := 0
     let b : List Byte := cmdDesc 5
     s.ringTake f = some (b, u)) :=
  by
  and_intros <;> first | decide +kernel | (constructor <;> decide +kernel) | (unfold LogFree; decide +kernel)

theorem witness_SubmitRuns :
    (let s := ringSt reqDesc
     let u := taken reqDesc
     let f : FuncId := 0
     let b : List Byte := reqDesc
     let x : ReqX := { func := f, desc := b }
     s.ringTake f = some (b, u) ∧ dfield b 0 1 = 1 ∧ x.statusAddr % 8 = 0 ∧ u.subErr x = eOk ∧ x.prefix_ = false ∧ x.sheaf = none) ∧
    (let s := ringSt (reqDesc.take 30 ++ reqDesc.drop 31 ++ [0])
     let u := taken (reqDesc.take 30 ++ reqDesc.drop 31 ++ [0])
     let f : FuncId := 0
     let b : List Byte := reqDesc.take 30 ++ reqDesc.drop 31 ++ [0]
     let x : ReqX := { func := f, desc := b }
     s.ringTake f = some (b, u) ∧ dfield b 0 1 = 1 ∧ x.statusAddr % 8 = 0 ∧ u.subErr x ≠ eOk ∧ x.notify = false) :=
  by
  and_intros <;> first | decide +kernel | (constructor <;> decide +kernel)

theorem witness_RequestCommandsRun :
    (let s := cmdSt 2 qsPaused 1
     let u := cmdTaken 2 qsPaused 1
     let f : FuncId := 0
     let b : List Byte := cmdDesc 2
     let i : Nat := 4095
     let cpl := dfield b 8 8
     (s.ringTake f = some (b, u) ∧ cpl % 8 = 0 ∧ u.findTag f (dfield b 4 4) = some i ∧ (cpl + 8 ≤ (u.req i).statusAddr ∨ (u.req i).statusAddr + 8 ≤ cpl) ∧ dfield b 0 1 = 2 ∧ (u.req i).st ≠ qsExporting ∧ (u.req i).want = none) ∧
     Alone u i) ∧
    (let s := cmdSt 3 qsTail 1
     let u := cmdTaken 3 qsTail 1
     let f : FuncId := 0
     let b : List Byte := cmdDesc 3
     let i : Nat := 4095
     let cpl := dfield b 8 8
     (s.ringTake f = some (b, u) ∧ cpl % 8 = 0 ∧ u.findTag f (dfield b 4 4) = some i ∧ (cpl + 8 ≤ (u.req i).statusAddr ∨ (u.req i).statusAddr + 8 ≤ cpl) ∧ dfield b 0 1 = 3 ∧ (u.req i).st ≤ qsTail ∧ (u.req i).want = none) ∧
     Alone u i) ∧
    (let s := cmdSt 4 qsPaused 2
     let u := cmdTaken 4 qsPaused 2
     let f : FuncId := 0
     let b : List Byte := cmdDesc 4
     let i : Nat := 4095
     let cpl := dfield b 8 8
     (s.ringTake f = some (b, u) ∧ cpl % 8 = 0 ∧ u.findTag f (dfield b 4 4) = some i ∧ (cpl + 8 ≤ (u.req i).statusAddr ∨ (u.req i).statusAddr + 8 ≤ cpl) ∧ dfield b 0 1 = 4 ∧ (u.req i).st = qsPaused ∧ (u.req i).spill = none) ∧
     Alone u i) ∧
    (let s := wantSt
     let r : ReqId := 4095
     let a : Nat := 0x2000
     ((s.req r).st ≤ qsTail ∧ (s.req r).want = some { cpl := some a } ∧ (a + 8 ≤ (s.req r).statusAddr ∨ (s.req r).statusAddr + 8 ≤ a)) ∧
     Alone s r) :=
  by
  and_intros <;> first | decide +kernel | (constructor <;> decide +kernel)

theorem witness_PassPausesAsUnit :
    (let s := passSt
     let r : ReqId := 4095
     let p : Pass := pass0
     s.mayPause r = true ∧ s.passOf r = some p ∧ p.paused = false) :=
  by decide +kernel

theorem witness_SpillsRun :
    (let s := spillSt
     let r : ReqId := 4095
     let u : Nat := 0
     let body := (s.spillBody r).fst
     let n := (64 + body.length + 4095) / 4096
     (s.req r).used = true ∧ (s.req r).st = qsPaused ∧ (s.req r).spill = none ∧ s.isOut 2 = false ∧ s.spillDue (s.req r) = true ∧ s.get (Reg.PFX_FUNC_CFG (s.req r).func) PFX_FUNC_CFG.SPILL_EN = 1 ∧ s.spillFit (s.req r).func n = some u) ∧
    (let s := spilled true false
     let r : ReqId := 4095
     let x : Spill := spill0 true
     (s.req r).spill = some x ∧ x.writing = true) ∧
    (let s := spilled false false
     let r : ReqId := 4095
     let x : Spill := spill0 false
     (s.req r).spill = some x ∧ x.expiry ≤ BitVec.toNat s.now) ∧
    (let s := spilled false true
     let r : ReqId := 4095
     let x : Spill := spill0 false
     (s.req r).spill = some x ∧ (s.req r).restoring = true ∧ fieldN (s.hostBytes x.addr 64) 24 4 = BitVec.toNat (crc32c (s.hostBytes (x.addr + 64) (fieldN (s.hostBytes x.addr 64) 8 8)))) ∧
    (let s := spilled false true
     let r : ReqId := 4095
     let x : Spill := spill0 false
     (s.req r).spill = some x ∧ (s.req r).restoring = true ∧ (s.req r).live = true ∧ (s.req r).dest = none ∧ (s.req r).reruns < s.get Reg.REEVE_SCHED REEVE_SCHED.RERUN_LIMIT) :=
  by
  and_intros <;> first | decide +kernel | (constructor <;> decide +kernel)

theorem witness_PassesRun :
    (let s := queued
     let p : PartId := 0
     let i : Nat := 4095
     let l : List Nat := []
     s.waiting (↑p : Nat) = i :: l ∧ (s.req i).queuedAt + s.getLive (Reg.REEVE_PART_CFG (↑p : Nat)) REEVE_PART_CFG.PACK_WAIT_US * 1000 ≤ BitVec.toNat s.now) ∧
    (let s := queued
     let p : PartId := 0
     let l : List (Nat × Nat) := [(4095, 1)]
     s.passOn (↑p : Nat) = none ∧ s.stepsOn (↑p : Nat) = [] ∧ s.closed.contains (↑p : Nat) = false ∧ s.vatsOf (↑p : Nat) ≠ [] ∧ (∀ (i : Nat), i ∈ s.liveReqs → s.tailReady i = false) ∧ s.dutyOf (↑p : Nat) ≠ dutyTail ∧ (∀ (w : Nat × Nat), w ∈ s.dutyWant → w.fst ≠ (↑p : Nat)) ∧ (s.apply (Reg.REEVE_PART_CFG (↑p : Nat))).nextPass (↑p : Nat) = l ∧ l ≠ [] ∧ (s.apply (Reg.REEVE_PART_CFG (↑p : Nat))).resumable (↑p : Nat) = none ∧ (∀ (j : Nat), j ∈ s.liveReqs → (s.req j).st = qsPaused → (s.req j).err ≠ ePaused) ∧ (∀ (x : Nat × Nat), x ∈ l → (s.req x.fst).hits = [])) ∧
    (let s := passing
     let p : PartId := 0
     let q : Pass := lone
     let i : ReqId := 4095
     let n : Nat := 1
     (s.passOn (↑p : Nat) = some q ∧ q.members = [((↑i : Nat), n)] ∧ q.byReeve = false ∧ (s.req (↑i : Nat)).st = qsPrefill ∧ (s.req (↑i : Nat)).sheaf = none ∧ (s.req (↑i : Nat)).prefix_ = false ∧ (s.req (↑i : Nat)).want = none ∧ (s.req (↑i : Nat)).ids = [] ∧ (s.req (↑i : Nat)).pos + n = (s.req (↑i : Nat)).promptLen ∧ (∀ (w : Nat × Nat), w ∈ s.dutyWant → w.fst ≠ (↑p : Nat))) ∧
     Alone { s with passes := [] } (↑i : Nat)) ∧
    (let s := hitSt
     let p : PartId := 0
     let i : ReqId := 4095
     let n : Nat := 6
     s.passOn (↑p : Nat) = none ∧ s.stepsOn (↑p : Nat) = [] ∧ s.closed.contains (↑p : Nat) = false ∧ s.vatsOf (↑p : Nat) ≠ [] ∧ (∀ (j : Nat), j ∈ s.liveReqs → s.tailReady j = false) ∧ s.dutyOf (↑p : Nat) ≠ dutyTail ∧ (∀ (w : Nat × Nat), w ∈ s.dutyWant → w.fst ≠ (↑p : Nat)) ∧ (s.apply (Reg.REEVE_PART_CFG (↑p : Nat))).nextPass (↑p : Nat) = [((↑i : Nat), n)] ∧ (s.apply (Reg.REEVE_PART_CFG (↑p : Nat))).resumable (↑p : Nat) = none ∧ (∀ (j : Nat), j ∈ s.liveReqs → (s.req j).st = qsPaused → (s.req j).err ≠ ePaused) ∧ (s.req (↑i : Nat)).st = qsQueued ∧ (s.req (↑i : Nat)).sheaf = none ∧ 64 * (s.req (↑i : Nat)).hits.length ≤ (s.req (↑i : Nat)).promptLen) :=
  by
  and_intros <;> first | decide +kernel | (constructor <;> decide +kernel)

theorem witness_ReeveSchedules :
    (let s := preempting
     let r : ReqId := 7
     let q : Pass := lone
     (s.req r).live = true ∧ (s.req r).st = qsQueued ∧ ((s.groupParts (s.req r).group).all fun p ↦ !(s.eligible (s.req r)).contains p || (s.passOn p).isSome || !(s.stepsOn p).isEmpty || decide (s.dutyOf p = dutyTail) || s.closed.contains p) = true ∧ s.victim r = some q ∧ s.getLive (Reg.REEVE_PART_CFG q.part) REEVE_PART_CFG.PREEMPT_US ≠ 0 ∧ (s.req r).queuedAt + s.getLive (Reg.REEVE_PART_CFG q.part) REEVE_PART_CFG.PREEMPT_US * 1000 ≤ BitVec.toNat s.now ∧ s.ops = []) ∧
    (let s := preempting
     let p : PartId := 0
     let i : Nat := 4095
     s.atWork p = [i] ∧ (s.req i).live = true ∧ (s.req i).dest = none ∧ (s.req i).reruns < s.get Reg.REEVE_SCHED REEVE_SCHED.RERUN_LIMIT) ∧
    (let s := preempting
     let p : PartId := 0
     let i : Nat := 4095
     s.atWork p = [i] ∧ (s.req i).live = true ∧ (s.req i).dest = none ∧ (s.req i).misses < s.get Reg.REEVE_SCHED REEVE_SCHED.MISS_LIMIT) ∧
    (let s := filling
     let g : Fin 16 := 15
     let i : Nat := 5
     (s.fills.any fun x ↦ decide (x.fst = g) && decide (x.snd.fst = i)) = true ∧ s.pfxState g i = peFilling) ∧
    (let s := dutySt
     let g : Fin 16 := 0
     let p : Nat := 0
     let waits : List Nat := [501]
     s.partSec 16 = none ∧ (∀ (h : Nat), h < 16 → h ≠ g → s.groupParts h = []) ∧ (s.partSec ((s.groupParts g).headD 16)).isSome = true ∧ s.get Reg.REEVE_SCHED REEVE_SCHED.TAIL_HI_US < waits.getD g 0 ∧ s.tailVats g < ((s.groupSec g).getD { }).tailMax ∧ s.smallest g dutyPrefill = some p ∧ s.passOn p = none) :=
  by
  and_intros <;> first | decide +kernel | (constructor <;> decide +kernel)

theorem witness_TailStepsRun :
    (let s := tailSt [] none
     let p : PartId := 0
     let i : Nat := 4095
     let drafts : List (ReqId × List (List W32)) := []
     let zs := (Option.map (fun d ↦ d.snd) (List.find? (fun d ↦ decide ((↑d.fst : Nat) = i)) drafts)).getD []
     s.passOn p = none ∧ s.stepsOn p = [] ∧ s.closed.contains p = false ∧ s.vatsOf p ≠ [] ∧ s.byPrio (List.filter (fun j ↦ s.tailReady j && decide (s.tailPart (s.req j) = p)) s.liveReqs) = [i] ∧ s.gathers p [i] = false ∧ (s.newStep p (s.req i) zs).nodes.length ≤ 256) ∧
    (let s := tailSt [7] none
     let p : PartId := 0
     let i : Nat := 4095
     let drafts : List (ReqId × List (List W32)) := []
     let zs := (Option.map (fun d ↦ d.snd) (List.find? (fun d ↦ decide ((↑d.fst : Nat) = i)) drafts)).getD []
     s.passOn p = none ∧ s.stepsOn p = [] ∧ s.closed.contains p = false ∧ s.vatsOf p ≠ [] ∧ s.byPrio (List.filter (fun j ↦ s.tailReady j && decide (s.tailPart (s.req j) = p)) s.liveReqs) = [i] ∧ s.gathers p [i] = false ∧ (s.newStep p (s.req i) zs).nodes.length ≤ 256) ∧
    (let s := tailSt [] (some step0)
     let r : ReqId := 4095
     let x : TailStep := step0
     let y : TailStep := step1
     let zs : List (List W32) := [[0x3F800000]]
     (s.req r).step = some x ∧ x.chosen = false ∧ s.walk (s.req r) x.nodes zs 65 0 { part := x.part, first := x.first, nodes := x.nodes, ends := x.ends, gstate := (s.req r).gstate, chosen := x.chosen, compacting := x.compacting, layers := x.layers, draftSteps := x.draftSteps, staging := x.staging, copies := x.copies } = (y, true)) ∧
    (let s := tailSt [] (some { step1 with compacting := true, chosen := true })
     let r : ReqId := 4095
     let x : TailStep := { step1 with compacting := true, chosen := true }
     (s.req r).step = some x ∧ x.compacting = true) ∧
    (let s := tailSt [] (some { step1 with ends := false, chosen := true })
     let p : PartId := 0
     let i : Nat := 4095
     let x : TailStep := { step1 with ends := false, chosen := true }
     s.stepsOn p = [i] ∧ (s.req i).step = some x ∧ x.chosen = true ∧ x.compacting = false ∧ x.ends = false ∧ (s.req i).dest = none ∧ (s.req i).mute = false ∧ (∀ (w : Nat × Nat), w ∈ s.dutyWant → w.fst ≠ p) ∧ (s.req i).ids.length + x.ids.length ≤ 256 ∧ ((s.req i).statusAddr + 8 ≤ (s.req i).resultAddr ∨ (s.req i).resultAddr + 1088 ≤ (s.req i).statusAddr)) :=
  by
  and_intros <;> first | decide +kernel | (constructor <;> decide +kernel)

theorem witness_ReeveServes :
    (let s := budgeted
     s.budgets.Nodup) ∧
    (let s := sets vat [(.REEVE_STATUS, REEVE_STATUS.STATE, 2), (.REEVE_STATUS, REEVE_STATUS.HEARTBEAT, 65535)]
     s.get Reg.REEVE_STATUS REEVE_STATUS.STATE = 2) ∧
    (let s := mboxSt 1 9
     let op := s.get Reg.REEVE_MBOX_CMD REEVE_MBOX_CMD.OPCODE
     let i : Nat := 4095
     s.get Reg.REEVE_MBOX_CMD REEVE_MBOX_CMD.GO = 1 ∧ op = 1 ∧ s.mboxMay (s.arg 1) = true ∧ s.findTag (s.arg 1) (s.arg 0) = some i) ∧
    (let s := mboxSt 2 0
     let op := s.get Reg.REEVE_MBOX_CMD REEVE_MBOX_CMD.OPCODE
     s.get Reg.REEVE_MBOX_CMD REEVE_MBOX_CMD.GO = 1 ∧ op = 2) ∧
    (let s := mboxSt 3 0
     let op := s.get Reg.REEVE_MBOX_CMD REEVE_MBOX_CMD.OPCODE
     s.get Reg.REEVE_MBOX_CMD REEVE_MBOX_CMD.GO = 1 ∧ op = 3 ∧ s.mboxMay (s.arg 0) = true) ∧
    (let s := mboxSt 4 4095
     let op := s.get Reg.REEVE_MBOX_CMD REEVE_MBOX_CMD.OPCODE
     s.get Reg.REEVE_MBOX_CMD REEVE_MBOX_CMD.GO = 1 ∧ op = 4 ∧ s.mboxFunc = 0 ∧ s.arg 0 < 4096 ∧ s.arg 1 < 2 ^ 63) ∧
    (let s := mboxSt 5 0
     let op := s.get Reg.REEVE_MBOX_CMD REEVE_MBOX_CMD.OPCODE
     let i : Nat := 4095
     (s.get Reg.REEVE_MBOX_CMD REEVE_MBOX_CMD.GO = 1 ∧ op = 5 ∧ s.mboxFunc = 0 ∧ List.filter (fun j ↦ decide ((s.req j).func = s.arg 0) && decide ((s.req j).st ≠ qsExporting)) s.liveReqs = [i] ∧ (s.req i).want = none) ∧
     Alone s i) :=
  by
  and_intros <;> first | decide +kernel | (constructor <;> decide +kernel)

theorem witness_GrammarsRun :
    (let s := gramSt 0
     let m : Master := .reeve
     let g : Fin 256 := 255
     let val : W64 := 2^62 + 2^32 + 1
     let b : Bool := true
     Lands s m (Reg.REEVE_GRAM_CFG g) (withBit REEVE_GRAM_CFG.ENABLE val b)) ∧
    (let s := gramSt 1
     let m : Master := .host 0
     let g : Fin 256 := 255
     let val : W64 := 2^62 + 2^32 + 1
     let b : Bool := false
     Lands s m (Reg.REEVE_GRAM_CFG g) (withBit REEVE_GRAM_CFG.ENABLE val b)) :=
  by
  and_intros <;> first | decide +kernel | (constructor <;> decide +kernel)

theorem witness_KvxRecordsGo :
    (let s := destSt 1 0 [mark0, end0]
     let d : DestId := 255
     let r : Rec := mark0
     let rs : List Rec := [end0]
     s.mayStart d = true ∧ (s.dest d).queue = r :: rs) ∧
    (let s := destSt 1 1 [end0]
     let d : DestId := 255
     let r : Rec := end0
     let rs : List Rec := []
     s.mayStart d = true ∧ (s.dest d).queue = r :: rs) ∧
    (let s := destSt 1 1 [page0]
     let d : DestId := 255
     let r : Rec := page0
     let rs : List Rec := []
     s.mayStart d = true ∧ (s.dest d).queue = r :: rs) ∧
    (let s := destSt 1 0 [page0]
     let d : DestId := 255
     let r : Rec := page0
     let rs : List Rec := []
     s.mayStart d = true ∧ (s.dest d).queue = r :: rs) :=
  by
  and_intros <;> first | decide +kernel | (constructor <;> decide +kernel)

theorem witness_DestinationsRun :
    (let s := destSt 0 0 [page0, mark0, end0]
     let m : Master := .host 0
     let d : DestId := 255
     let val : W64 := 0x240602010064
     s.get (Reg.KVX_DEST_CFG d) KVX_DEST_CFG.ENABLE = 0 ∧
     Writes s m (Reg.KVX_DEST_CFG d) (withBit KVX_DEST_CFG.ENABLE val true)) ∧
    (let s := destSt 1 0 [page0, mark0, end0]
     let m : Master := .host 0
     let d : DestId := 255
     let val : W64 := 0x240602010064
     Lands s m (Reg.KVX_DEST_CFG d) (withBit KVX_DEST_CFG.ENABLE val false)) ∧
    (let s := destSt 1 0 [page0]
     let d : DestId := 255
     let val : W64 := 9
     let m : Master := .host 0
     (s.rd (Reg.KVX_DEST_CREDIT d) ≤ val ∧ val ≤ s.rd (Reg.KVX_DEST_SEQ d)) ∧
     Writes s m (Reg.KVX_DEST_CREDIT d) val) ∧
    (let s := destSt 1 0 [page0]
     let d : DestId := 255
     let val : W64 := 5
     let x : W16 := 513
     s.rd (Reg.KVX_DEST_CREDIT d) ≤ val ∧ val ≤ s.rd (Reg.KVX_DEST_SEQ d) ∧ s.get (Reg.KVX_DEST_CFG d) KVX_DEST_CFG.PATH = 0 ∧ s.get (Reg.KVX_DEST_CFG d) KVX_DEST_CFG.MODULE = BitVec.toNat x) ∧
    (let s := creditOut
     let d : DestId := 255
     ((s.dest d).waiting = true ∧ s.needsCredit d = true ∧ s.get (Reg.KVX_DEST_CFG d) KVX_DEST_CFG.CREDIT_TIMEOUT_MS ≠ 0 ∧ (s.dest d).since + s.get (Reg.KVX_DEST_CFG d) KVX_DEST_CFG.CREDIT_TIMEOUT_MS * 1000000 ≤ BitVec.toNat s.now ∧ (∀ (i : Nat), i ∈ s.liveReqs → s.kvxOwes d (handleOf i (s.req i)) = false)) ∧
     LogFree s) :=
  by
  and_intros <;> first | decide +kernel | (constructor <;> decide +kernel) | (unfold LogFree; decide +kernel)

theorem witness_RoceRuns :
    (let s := roceSt
     let d : DestId := 255
     let psn : BitVec 24 := 0
     let f : Flight := flight0
     s.isRoce d = true ∧ (psn.toNat + 2 ^ 24 - (s.dest d).una) % 2 ^ 24 < ((s.dest d).psn + 2 ^ 24 - (s.dest d).una) % 2 ^ 24 ∧ List.filter (fun g ↦ psnLe g.psn1 psn.toNat) (s.dest d).flight = [f] ∧ f.item.kind = 0 ∧ (s.req f.item.req).live = true ∧ handleOf f.item.req (s.req f.item.req) = f.item.handle ∧ (s.req f.item.req).st ≠ qsExporting) ∧
    (let s := roceSt
     let d : DestId := 255
     s.isRoce d = true ∧ (s.dest d).flight ≠ [] ∧ (s.dest d).retry < 7) ∧
    (let s := roceSt
     let d : DestId := 255
     let psn : BitVec 24 := 0
     s.isRoce d = true ∧ (s.dest d).flight ≠ [] ∧ psn.toNat = (s.dest d).una ∧ (s.dest d).retry < 7) ∧
    (let s := roceSt
     let d : DestId := 255
     let psn : BitVec 24 := 0
     s.isRoce d = true ∧ (s.dest d).flight ≠ [] ∧ psn.toNat = (s.dest d).una) ∧
    (let s := roceSt
     let d : DestId := 255
     s.isRoce d = true ∧ (s.dest d).flight ≠ [] ∧ (s.dest d).rnrWait = true ∧ (s.dest d).rnr < 7) ∧
    (let s := roceSt
     let d : DestId := 255
     s.isRoce d = true) ∧
    (let s := roceSt
     let x : Fin 2 := 0
     s.isEth x = true) ∧
    (let s := roceSt
     let x : Fin 2 := 0
     let prio : BitVec 3 := 3
     s.isEth x = true ∧ s.get (Reg.KVX_PORT_CFG x) KVX_PORT_CFG.PFC_PRIO = prio.toNat) :=
  by
  and_intros <;> first | decide +kernel | (constructor <;> decide +kernel)

theorem witness_FabricAccessesRun :
    (let s := inSt
     let k : Pkt := pkIn
     let a := BitVec.toNat k.addr
     let ok := a + k.data.length ≤ memTop ∧ s.mayWrite (BitVec.toNat k.src) k.vc.toNat a k.data.length = true
     k.wf = true ∧ s.isOut 0 = false ∧ s.forMe k pkMemWrite = true ∧ ok) ∧
    (let s := inSt
     let k : Pkt := pkOut
     let a := BitVec.toNat k.addr
     let ok := a + k.data.length ≤ memTop ∧ s.mayWrite (BitVec.toNat k.src) k.vc.toNat a k.data.length = true
     (k.wf = true ∧ s.isOut 0 = false ∧ s.forMe k pkMemWrite = true ∧ ¬ok) ∧
     LogFree s) ∧
    (let s := winSt 1
     let k : Pkt := pkWin 1
     let v := winVat k
     let w := winIdx k
     let r := s.get (Reg.THR_WIN_A v w) THR_WIN_A.BASE + winRow k
     let ctr := s.get (Reg.THR_WIN_A v w) THR_WIN_A.CTR
     k.wf = true ∧ s.isOut 0 = false ∧ s.forMe k pkWinWrite = true ∧ s.winErr k = 0 ∧ s.heldErr v (bankOf r) = 0 ∧ (s.vat v).killed = false ∧ s.sem v 2 ctr + 1 < 2 ^ 32) ∧
    (let s := winSt 1
     let k : Pkt := pkWin 2
     (k.wf = true ∧ s.isOut 0 = false ∧ s.forMe k pkWinWrite = true ∧ s.winErr k ≠ 0 ∧ (s.winErr k ≠ eWindowClosed ∨ s.winOff k = false)) ∧
     LogFree s) ∧
    (let s := { winSt 1 with withdrawn := [(0, 0)] }
     let k : Pkt := pkWin 1
     let v := winVat k
     let w := winIdx k
     let r := s.get (Reg.THR_WIN_A v w) THR_WIN_A.BASE + winRow k
     (k.wf = true ∧ s.isOut 0 = false ∧ s.forMe k pkWinWrite = true ∧ s.winErr k = 0 ∧ s.heldErr v (bankOf r) ≠ 0) ∧
     LogFree s) ∧
    (let s := sets (winSt 0) [(.CELLAR_STATUS 0, gsFld 0, gsOff)]
     let k : Pkt := pkWin 0
     (k.wf = true ∧ s.isOut 0 = false ∧ s.forMe k pkWinWrite = true ∧ s.winErr k = eWindowClosed ∧ s.winOff k = true) ∧
     LogFree s) ∧
    (let s := getFull
     let k : Pkt := getIn
     k.wf = true ∧ s.isOut 0 = false ∧ s.forMe k pkGetReq = true ∧ BitVec.toNat k.aux ≤ 512 ∧ BitVec.toNat k.addr + BitVec.toNat k.aux ≤ memTop ∧ s.mayRead (BitVec.toNat k.src) (BitVec.toNat k.addr) (BitVec.toNat k.aux) = true ∧ 1024 ≤ s.gets.length) ∧
    (let s := inSt
     let k : Pkt := getIn
     k.wf = true ∧ s.isOut 0 = false ∧ s.forMe k pkGetReq = true ∧ BitVec.toNat k.aux ≤ 512 ∧ BitVec.toNat k.addr + BitVec.toNat k.aux ≤ memTop ∧ s.mayRead (BitVec.toNat k.src) (BitVec.toNat k.addr) (BitVec.toNat k.aux) = true ∧ s.gets.length < 1024 ∧ 0 < BitVec.toNat k.aux) ∧
    (let s := getBack
     let n : Nat := 0
     let j : Nat := 0
     let stop : Nat := 24
     let id : Nat := 9
     let p : DPkt := getRsp
     let g : GetEntry := getEnt
     let data : List Byte := List.replicate 512 7
     s.isOut 0 = false ∧ s.copyAt n = some (j, p, stop) ∧ s.dnetFirst j p stop = true ∧ p.load = Load.got data false ∧ 24 ≤ stop ∧ p.get = some id ∧ List.find? (fun g ↦ decide (g.id = id)) s.gets = some g ∧ g.parts = [(p.src, none)] ∧ data.length = BitVec.toNat g.pkt.aux) ∧
    (let s := winSt 2
     let v : VatId := 0
     let w : Fin 256 := 255
     s.get (Reg.THR_WIN_A v w) THR_WIN_A.STATE = 2) :=
  by
  and_intros <;> first | decide +kernel | (constructor <;> decide +kernel) | (unfold LogFree; decide +kernel)

theorem witness_FabricAnswersRun :
    (let s := getSt
     let k : Pkt := pk0 pkGetData 4 (List.replicate 64 9)
     let g : Pkt := getG
     let x : TagUse := getTag
     let dst : Nat := 0x3000
     let r : Nat := 64
     let i : Nat := 7
     let idx : Nat := 0
     let v : VatId := 0
     let d : Desc := getD
     let u : DPkt := getPut
     k.wf = true ∧ s.forMe k pkGetData = true ∧ s.answered k = some x ∧ x.req = TagReq.get g ∧ x.owner = some ((↑v : Nat), i, idx) ∧ pktPoison k = false ∧ s.ownerDesc x.owner = some d ∧ d.err = 0 ∧ d.idx = idx ∧ s.pieceUses x.owner x.piece = [x] ∧ (∀ (y : TagUse), y ∈ s.tags → y.id = x.id → y = x) ∧ dKind d.bytes = dkGet ∧ dDest d.bytes x.piece = some (dst, r) ∧ k.data.length = r ∧ s.place (s.part (↑v : Nat)) dst r = Place.hbm ∧ 0 < r ∧ dst % 2048 + r ≤ 2048 ∧ u = { src := s.stopOf (↑v : Nat), part := s.part (↑v : Nat), dest := DTo.stop (hbmStop dst), load := Load.bytes dst k.data, owner := x.owner, tag := some x.id, seq := x.seq }) ∧
    (let s := tagSt putTag
     let k : Pkt := pkAck1
     let g : Pkt := putG
     let x : TagUse := putTag
     (k.wf = true ∧ s.forMe k pkAck = true ∧ s.answered k = some x ∧ x.req = TagReq.put g ∧ g.dst = k.src ∧ BitVec.toNat k.aux ≤ 1) ∧
     (∀ (u : Nat), (s.vat u).killed = false)) ∧
    (let s := tagSt getTag
     let k : Pkt := pkNakC eCapacityDegraded
     let g : Pkt := getG
     let x : TagUse := getTag
     k.wf = true ∧ s.isOut 0 = false ∧ s.forMe k pkNak = true ∧ s.answered k = some x ∧ x.req = TagReq.get g ∧ (∀ (o : Nat × Nat × Nat), x.owner = some o → (s.vat o.fst).killed = false) ∧ BitVec.toNat k.aux % 256 = eCapacityDegraded) ∧
    (let s := tagSt getTag
     let k : Pkt := pkNakC eQueueFull
     let g : Pkt := getG
     let x : TagUse := getTag
     k.wf = true ∧ s.isOut 0 = false ∧ s.forMe k pkNak = true ∧ s.answered k = some x ∧ x.req = TagReq.get g ∧ (∀ (o : Nat × Nat × Nat), x.owner = some o → (s.vat o.fst).killed = false) ∧ BitVec.toNat k.aux % 256 = eQueueFull) ∧
    (let s := retrySt
     let v : VatId := 0
     let mine := List.filter   (fun t ↦     s.getRetry.contains t.id &&       match t.owner with       | some (w, _, _) => decide (w = (↑v : Nat))       | none => false)   s.tags
     (s.isOut 0 = false ∧ (s.vat (↑v : Nat)).killed = false) ∧
     (∀ (x : TagUse), x ∈ mine → ∃ g, x.req = TagReq.get g)) :=
  ⟨by decide +kernel,
    ⟨by decide +kernel, fun _ => rfl⟩,
    by decide +kernel,
    by decide +kernel,
    ⟨by decide +kernel, fun x hx => by
      have e : x = getTag := by simpa [retrySt, tagSt, getTag, copySt, vat] using hx
      exact ⟨getG, by rw [e]; rfl⟩⟩⟩

theorem witness_RegPacketsRun :
    (let s := regSt 1
     let k : Pkt := pkR
     let write : Bool := false
     let off : BitVec 26 := BitVec.ofNat 26 (Reg.off .PWR_CTRL)
     let open_ := s.get Reg.THR_GLB_CFG THR_GLB_CFG.FABRIC_REG = 1 ∧ BitVec.toNat k.src / 8 = s.me / 8
     k.wf = true ∧ s.isOut 0 = false ∧ s.forMe k pkReg = true ∧ open_ ∧ off.toNat % 8 = 0 ∧ write = false) ∧
    (let s := regSt 1
     let k : Pkt := pkR
     let write : Bool := true
     let off : BitVec 26 := BitVec.ofNat 26 (Reg.off .PWR_CTRL)
     let val : W64 := 105
     let m := if (↑k.port : Nat) < 9 then Master.thrA else Master.thrB
     let open_ := s.get Reg.THR_GLB_CFG THR_GLB_CFG.FABRIC_REG = 1 ∧ BitVec.toNat k.src / 8 = s.me / 8
     (k.wf = true ∧ s.isOut 0 = false ∧ s.forMe k pkReg = true ∧ open_ ∧ write = true ∧ off.toNat = Reg.PWR_CTRL.off) ∧
     Writes s m Reg.PWR_CTRL val) ∧
    (let s := regSt 0
     let k : Pkt := pkR
     let open_ := s.get Reg.THR_GLB_CFG THR_GLB_CFG.FABRIC_REG = 1 ∧ BitVec.toNat k.src / 8 = s.me / 8
     k.wf = true ∧ s.isOut 0 = false ∧ s.forMe k pkReg = true ∧ ¬open_) ∧
    (let s := rspSt
     let k : Pkt := pk0 pkRegRsp 7 [1]
     let rest : List Pkt := [pk0 pkRegRsp 7 [2]]
     s.isOut 0 = false ∧ s.regOut = k :: rest) :=
  by
  and_intros <;> first | decide +kernel | (constructor <;> decide +kernel)

theorem witness_LinksRun :
    (let s := portSt 17 psRamp
     let p : PortId := 17
     let f : Frame := badFrame
     s.carries p = true ∧ f.wf = true ∧ frameGood f = false) ∧
    (let s := portSt 17 psUp { rxNext := 4095 }
     let p : PortId := 17
     let f : Frame := frame0
     s.carries p = true ∧ f.wf = true ∧ frameGood f = true ∧ f.nak = false ∧ f.seq.toNat = (s.port p).rxNext ∧ f.flits = List.replicate 7 none) ∧
    (let s := portSt 14 psUp { rxNext := 4095 }
     let p : PortId := 14
     let f : Frame := frame1
     let k : Pkt := pkAck1
     s.carries p = true ∧ f.wf = true ∧ frameGood f = true ∧ f.nak = false ∧ f.seq.toNat = (s.port p).rxNext ∧ p < 15 ∧ f.flits = some (k, 0) :: List.replicate 6 none ∧ pktFlits k = 1 ∧ BitVec.toNat k.dst = s.me ∧ (pkVcs k.kind.toNat).contains k.vc.toNat = true ∧ creditClass k < (s.port p).freed.length) ∧
    (let s := tickSt
     let p : PortId := 17
     let k : Pkt := putG
     let x : PortX := tickX
     s.pending = [] ∧ s.passes = [] ∧ s.liveReqs = [] ∧ s.carries p = true ∧ (∀ (q : Nat), q < 18 → q ≠ p → s.carries q = false) ∧ (s.port p).queue = [k] ∧ PortX.pick (s.weight p) 128 (s.port p) = some (k, x) ∧ x.queue = [k]) ∧
    (let s := portSt 17 psUp { stuck := 8 }
     let p : PortId := 17
     let m : W16 := 1
     let q : BitVec 5 := 17
     let late := List.filter (fun t ↦ decide (BitVec.toNat s.now < t + 1000000000)) (s.port p).retrains
     s.carries p = true ∧ 8 ≤ (s.port p).stuck ∧ late.length < 2 ∧ s.partnerIs p (BitVec.toNat m) q.toNat = true) ∧
    (let s := portSt 17 psUp { stuck := 8 }
     let p : PortId := 17
     let m : W16 := 1
     let q : BitVec 5 := 16
     let late := List.filter (fun t ↦ decide (BitVec.toNat s.now < t + 1000000000)) (s.port p).retrains
     s.carries p = true ∧ 8 ≤ (s.port p).stuck ∧ late.length < 2 ∧ s.partnerIs p (BitVec.toNat m) q.toNat = false) ∧
    (let s := sets (portSt 16 psUp { stuck := 8, retrains := [0, 0] }) [(.THR_GLB_CFG, THR_GLB_CFG.SPARE_COVER, 2 ^ 16)]
     let p : PortId := 16
     let late := List.filter (fun t ↦ decide (BitVec.toNat s.now < t + 1000000000)) (s.port p).retrains
     s.carries p = true ∧ 8 ≤ (s.port p).stuck ∧ 2 ≤ late.length ∧ s.coverable p = true) ∧
    (let s := portSt 0 psTraining
     let p : PortId := 0
     let m : W16 := 1
     let q : BitVec 5 := 6
     s.portSt p = psTraining ∧ (s.port p).was = 0 ∧ s.partnerIs p (BitVec.toNat m) q.toNat = true) ∧
    (let s := coverSt
     let p : PortId := 16
     s.portSt p = psFailed ∧ s.coverable p = true) ∧
    (let s := portSt 17 psDetour
     let p : PortId := 17
     (s.portSt p = psFailed ∨ s.portSt p = psSpared ∨ s.portSt p = psDetour)) ∧
    (let s := sets (portSt 17 psRamp) [(.THR_PORT_STATUS 17, THR_PORT_STATUS.RAMP, 7)]
     let p : PortId := 17
     s.portSt p = psRamp) ∧
    (let s := returnSt
     let vc : Fin 8 := 7
     let p := s.get Reg.THR_SPARE THR_SPARE.FOR
     s.get Reg.THR_SPARE THR_SPARE.ACTIVE = 1 ∧ s.get Reg.THR_SPARE THR_SPARE.FOR < 17 ∧ s.carries p = true ∧ (s.port p).returning.contains vc = true ∧ (∀ (k : Pkt), k ∈ (s.port 17).held → k.vc.toNat ≠ vc)) :=
  by
  and_intros <;> first | decide +kernel | exact frameOf_good _ | (constructor <;> decide +kernel)

theorem witness_TimeRuns :
    (let s := lockedSt
     s.get Reg.THR_TIME THR_TIME.STATE = tsLocked ∧ s.lastSync + 100000 ≤ BitVec.toNat s.now) ∧
    (let s := masterSt
     s.isOut 0 = false ∧ s.get Reg.THR_GLB_ID THR_GLB_ID.MASTER = 1) ∧
    (let s := lockedSt
     let slot : Fin 8 := 0
     let m : Nat := 1
     s.get Reg.THR_GLB_ID THR_GLB_ID.MASTER_SLOT = slot ∧ List.find? (fun k ↦ !(addOnce slot s.bpresLost).contains k) (List.range 8) = some m) :=
  by
  and_intros <;> first | decide +kernel | (constructor <;> decide +kernel)

theorem witness_SheafsBegin :
    (let s := launchSt (shDesc 5 0)
     let f : FuncId := 16
     let val : W64 := 0
     let u := { s with shWin := Tab.set (fun _ ↦ 0) s.shWin (8 * f + 7) val }
     let b := u.shWindow f
     lCpl b % 8 = 0 ∧ u.lErr f b = eOk) ∧
    (let s := launchSt (shDesc 3 4)
     let f : FuncId := 16
     let val : W64 := 9
     let u := { s with shWin := Tab.set (fun _ ↦ 0) s.shWin (8 * f + 7) val }
     let b := u.shWindow f
     lCpl b % 8 = 0 ∧ u.lErr f b = eOk) ∧
    (let s := launchSt (shDesc 3 0)
     let f : FuncId := 16
     let val : W64 := 9
     let u := { s with shWin := Tab.set (fun _ ↦ 0) s.shWin (8 * f + 7) val }
     let b := u.shWindow f
     lCpl b % 8 = 0 ∧ u.lErr f b ≠ eOk) ∧
    (let s := { sheafSt 1 2 with launches := [launch0] }
     let d : SheafId := 1023
     let l : Launch := launch0
     let rest : List Launch := []
     let p : Nat := 0
     s.isOut 0 = false ∧ s.launches = l :: rest ∧ l.d = d ∧ s.ops.length < 16 ∧ (∀ (o : ShOp), o ∈ s.ops → o.d ≠ d) ∧ treeChildren (s.shNs d) (s.shMy d) = [] ∧ treeParent (s.shNs d) (s.shMy d) = some p) ∧
    (let s := shSt 4 8 op0
     let h : ShHead := head 6
     let o : ShOp := op0
     s.shOf h = some o ∧ o.phase = 0 ∧ o.helloSent = false ∧ s.isLead o.d = false ∧ s.shRank o.d (BitVec.toNat h.src) ∈ treeChildren (s.shNs o.d) (s.shMy o.d) ∧ (∀ (x : Nat × Bool), x ∈ o.hellos → x.fst ≠ s.shRank o.d (BitVec.toNat h.src)) ∧ (∃ c, c ∈ treeChildren (s.shNs o.d) (s.shMy o.d) ∧ c ≠ s.shRank o.d (BitVec.toNat h.src) ∧ ∀ (x : Nat × Bool), x ∈ o.hellos → x.fst ≠ c)) ∧
    (let s := shSt 1 2 (opReq 0)
     let h : ShHead := head 0
     let o : ShOp := opReq 0
     s.shOf h = some o ∧ o.phase = 0 ∧ o.req.isSome = true) ∧
    (let s := shSt 1 2 op0
     let h : ShHead := head 0
     let o : ShOp := op0
     let p : Nat := 0
     s.shOf h = some o ∧ o.phase = 0 ∧ s.isOut 0 = false ∧ o.req = none ∧ lOp o.desc = opBarrier ∧ o.paused = false ∧ o.dones = [] ∧ o.stage = 0 ∧ subtree (s.shNs o.d) (s.shMy o.d) = 1 ∧ treeParent (s.shNs o.d) (s.shMy o.d) = some p) :=
  by
  and_intros <;> first | decide +kernel | (constructor <;> decide +kernel)

theorem witness_SheafChunksRun :
    (let s := shSt 1 2 (opDown 16385)
     let k : ShChunk := chunk1
     let o : ShOp := opDown 16385
     let p : ShPart := down1
     let rs : List (Nat × Nat) := [(0, 16385)]
     let from_ := s.shRank o.d (BitVec.toNat k.head.src)
     let c := BitVec.toNat k.chunk
     let o' : ShOp := { f := o.f, d := o.d, k := o.k, desc := o.desc, req := o.req, phase := o.phase, hellos := o.hellos, helloSent := o.helloSent, step := o.step, stage := o.stage, merged := o.merged, sending := o.sending, vals := o.vals, counts := o.counts, outs := o.outs, inbox := o.inbox ++ [(BitVec.toNat k.step, from_, c, chunkVals o.desc p.wire k.ebs k.data)], bad := List.filter (fun x ↦ !isChunk (BitVec.toNat k.step) from_ c x) o.bad, early := o.early, naks := o.naks, flags := o.flags, dones := o.dones, paused := o.paused, pausers := o.pausers, resumers := o.resumers, since := o.since }
     s.isOut 0 = false ∧ s.shOf k.head = some o ∧ o.phase = 1 ∧ o.req = none ∧ s.shExpects o (BitVec.toNat k.step) from_ = some p ∧ (s.shParts o)[o.stage]? = some p ∧ o.step = BitVec.toNat k.step ∧ p.step = o.step ∧ List.find? (fun x ↦ decide (x.fst = from_)) p.recvs = some (from_, rs) ∧ c < chunksOf p.wire rs ∧ chunkGood o.desc p (min chunkLen (streamLen p.wire rs - c * chunkLen)) k = true ∧ ((o.got (BitVec.toNat k.step) from_).any fun x ↦ decide (x.fst = c)) = false ∧ o.counting = false ∧ o.merged = false ∧ o.sending = false ∧ p.after = true ∧ o'.full p = false ∧ o'.asRead.full p = false) ∧
    (let s := shSt 1 2 (opDown 16385)
     let k : ShChunk := chunkBad
     let o : ShOp := opDown 16385
     let p : ShPart := down1
     let rs : List (Nat × Nat) := [(0, 16385)]
     let from_ := s.shRank o.d (BitVec.toNat k.head.src)
     let c := BitVec.toNat k.chunk
     let n := min chunkLen (streamLen p.wire rs - c * chunkLen)
     let o' : ShOp := { f := o.f, d := o.d, k := o.k, desc := o.desc, req := o.req, phase := o.phase, hellos := o.hellos, helloSent := o.helloSent, step := o.step, stage := o.stage, merged := o.merged, sending := o.sending, vals := o.vals, counts := o.counts, outs := o.outs, inbox := o.inbox, bad := o.bad ++ [(BitVec.toNat k.step, from_, c, List.take n (chunkVals o.desc p.wire k.ebs k.data ++ List.replicate n 0))], early := o.early, naks := o.naks, flags := o.flags, dones := o.dones, paused := o.paused, pausers := o.pausers, resumers := o.resumers, since := o.since }
     s.isOut 0 = false ∧ s.shOf k.head = some o ∧ o.phase = 1 ∧ o.req = none ∧ s.shExpects o (BitVec.toNat k.step) from_ = some p ∧ (s.shParts o)[o.stage]? = some p ∧ o.step = BitVec.toNat k.step ∧ p.step = o.step ∧ List.find? (fun x ↦ decide (x.fst = from_)) p.recvs = some (from_, rs) ∧ c < chunksOf p.wire rs ∧ chunkGood o.desc p n k = false ∧ o.bad.any (isChunk (BitVec.toNat k.step) from_ c) = false ∧ o.counting = false ∧ o.merged = false ∧ o.sending = false ∧ p.after = true ∧ o.full p = false ∧ o'.asRead.full p = false) ∧
    (let s := shSt 1 2 (opReq 1)
     let k : ShChunk := chunkKv
     let o : ShOp := opReq 1
     let n := s.shN o.d
     let q := BitVec.toNat k.step % (2 * n)
     s.isOut 0 = false ∧ s.shOf k.head = some o ∧ o.phase = 1 ∧ o.req.isSome = true ∧ crc32c k.data = k.crc ∧ (s.shMy o.d + 1) % n = if q < n then q else 2 * n - 1 - q) ∧
    (let s := shSt 0 2 (opSending 16385 out2)
     let h : ShHead := head 1
     let step : W16 := 3
     let chunk : W16 := 1
     let o : ShOp := opSending 16385 out2
     let p : ShPart := down0 16385
     let x : ShOut := out2
     s.shOf h = some o ∧ o.phase = 1 ∧ o.req = none ∧ o.step = BitVec.toNat step ∧ (s.shParts o)[o.stage]? = some p ∧ p.step ≤ o.step ∧ o.counting = false ∧ o.merged = true ∧ o.sending = true ∧ o.outs = [x] ∧ x.rank = s.shRank o.d (BitVec.toNat h.src) ∧ chunksOf p.wire ((Option.map Prod.snd (List.find? (fun y ↦ decide (y.fst = x.rank)) p.sends)).getD []) ≤ x.next ∧ List.filter (fun u ↦ decide (u.fst ≠ BitVec.toNat chunk)) x.unacked ≠ []) ∧
    (let s := shSt 0 2 (opNaks 1 out1)
     let h : ShHead := head 1
     let step : W16 := 3
     let chunk : W16 := 0
     let o : ShOp := opNaks 1 out1
     let p : ShPart := down0 1
     let x : ShOut := out1
     s.shOf h = some o ∧ o.phase = 1 ∧ o.req = none ∧ o.step = BitVec.toNat step ∧ (s.shParts o)[o.stage]? = some p ∧ List.find? (fun y ↦ decide (y.rank = s.shRank o.d (BitVec.toNat h.src))) o.outs = some x ∧ List.find? (fun u ↦ decide (u.fst = BitVec.toNat chunk)) x.unacked = some (BitVec.toNat chunk, false) ∧ o.naks.contains (x.rank, BitVec.toNat chunk) = true) ∧
    (let s := shSt 0 2 (opSending 1 out1)
     let h : ShHead := head 1
     let step : W16 := 3
     let chunk : W16 := 0
     let o : ShOp := opSending 1 out1
     let p : ShPart := down0 1
     let x : ShOut := out1
     s.shOf h = some o ∧ o.phase = 1 ∧ o.req = none ∧ o.step = BitVec.toNat step ∧ (s.shParts o)[o.stage]? = some p ∧ List.find? (fun y ↦ decide (y.rank = s.shRank o.d (BitVec.toNat h.src))) o.outs = some x ∧ List.find? (fun u ↦ decide (u.fst = BitVec.toNat chunk)) x.unacked = some (BitVec.toNat chunk, false) ∧ o.naks.contains (x.rank, BitVec.toNat chunk) = false) :=
  by
  and_intros <;> first | decide +kernel | (constructor <;> decide +kernel)

theorem witness_SheafsEnd :
    (let s := shSt 1 2 op0
     let h : ShHead := head 0
     let o : ShOp := op0
     s.shOf h = some o ∧ o.req = none) ∧
    (let s := shSt 1 2 op0
     let h : ShHead := head 0
     let o : ShOp := op0
     s.shOf h = some o ∧ o.req = none ∧ o.phase = 0) ∧
    (let s := shSt 1 2 op0
     let h : ShHead := head 0
     let o : ShOp := op0
     let code : Byte := BitVec.ofNat 8 eSheafAbort
     s.shOf h = some o ∧ o.req = none ∧ s.isLead o.d = false ∧ BitVec.toNat code ≠ eOk ∧ BitVec.toNat code ≠ eMismatch) ∧
    (let s := shSt 4 8 op0
     let h : ShHead := head 6
     let o : ShOp := op0
     let flags : BitVec 4 := 8
     let n : Nat := 2
     let o' : ShOp := { f := o.f, d := o.d, k := o.k, desc := o.desc, req := o.req, phase := o.phase, hellos := o.hellos, helloSent := o.helloSent, step := o.step, stage := o.stage, merged := o.merged, sending := o.sending, vals := o.vals, counts := o.counts, outs := o.outs, inbox := o.inbox, bad := o.bad, early := o.early, naks := o.naks, flags := o.flags ||| flags, dones := o.dones ++ [(s.shRank o.d (BitVec.toNat h.src), n)], paused := o.paused, pausers := o.pausers, resumers := o.resumers, since := o.since }
     s.shOf h = some o ∧ o.req = none ∧ s.isLead o.d = false ∧ (∀ (x : Nat × Nat), x ∈ o.dones → x.fst ≠ s.shRank o.d (BitVec.toNat h.src)) ∧ (o.phase ≠ 2 ∨ 1 + List.foldl (fun x1 x2 ↦ x1 + x2) 0 (List.map Prod.snd o'.dones) < subtree (s.shNs o.d) (s.shMy o.d))) ∧
    (let s := shSt 2 4 (opIn 2)
     let h : ShHead := head 3
     let o : ShOp := opIn 2
     let flags : BitVec 4 := 8
     let n : Nat := 1
     let o' : ShOp := { f := o.f, d := o.d, k := o.k, desc := o.desc, req := o.req, phase := o.phase, hellos := o.hellos, helloSent := o.helloSent, step := o.step, stage := o.stage, merged := o.merged, sending := o.sending, vals := o.vals, counts := o.counts, outs := o.outs, inbox := o.inbox, bad := o.bad, early := o.early, naks := o.naks, flags := o.flags ||| flags, dones := o.dones ++ [(s.shRank o.d (BitVec.toNat h.src), n)], paused := o.paused, pausers := o.pausers, resumers := o.resumers, since := o.since }
     let p : Nat := 0
     s.shOf h = some o ∧ o.req = none ∧ s.isLead o.d = false ∧ (∀ (x : Nat × Nat), x ∈ o.dones → x.fst ≠ s.shRank o.d (BitVec.toNat h.src)) ∧ o.phase = 2 ∧ treeParent (s.shNs o.d) (s.shMy o.d) = some p ∧ subtree (s.shNs o.d) (s.shMy o.d) ≤ 1 + List.foldl (fun x1 x2 ↦ x1 + x2) 0 (List.map Prod.snd o'.dones) ∧ s.isOut 0 = false) ∧
    (let s := shSt 1 2 op0
     let d : SheafId := 1023
     let o : ShOp := op0
     List.find? (fun o ↦ decide (o.d = (↑d : Nat))) s.ops = some o ∧ o.req = none ∧ o.paused = false ∧ o.since + shLimit ≤ BitVec.toNat s.now ∧ o.phase < 2 ∧ s.isLead (↑d : Nat) = false) ∧
    (let s := shSt 1 2 (opIn 3)
     let d : SheafId := 1023
     let o : ShOp := opIn 3
     List.find? (fun o ↦ decide (o.d = (↑d : Nat))) s.ops = some o ∧ o.req = none ∧ o.paused = false ∧ o.since + shLimit ≤ BitVec.toNat s.now ∧ o.phase = 3) :=
  by
  and_intros <;> first | decide +kernel | (constructor <;> decide +kernel)

theorem witness_SheafsPause :
    (let s := shSt 1 2 op0
     let h : ShHead := head 0
     let o : ShOp := op0
     s.isOut 0 = false ∧ s.shOf h = some o) ∧
    (let s := shSt 0 2 { op0 with paused := true}
     let h : ShHead := head 1
     let o : ShOp := { op0 with paused := true}
     s.isOut 0 = false ∧ s.shOf h = some o ∧ o.paused = true ∧ (o.phase ≠ 1 ∨ o.req.isSome = true)) ∧
    (let s := shSt 0 2 op0
     let h : ShHead := head 1
     let o : ShOp := op0
     s.isOut 0 = false ∧ s.shOf h = some o ∧ s.isLead o.d = true ∧ o.pausers = []) ∧
    (let s := shSt 0 2 { op0 with pausers := [1] }
     let h : ShHead := head 1
     let o : ShOp := { op0 with pausers := [1] }
     s.isOut 0 = false ∧ s.shOf h = some o ∧ s.isLead o.d = true ∧ o.pausers = [s.shRank o.d (BitVec.toNat h.src)] ∧ (o.phase ≠ 1 ∨ o.req.isSome = true)) :=
  by
  and_intros <;> first | decide +kernel | (constructor <;> decide +kernel)

theorem witness_PowerUpRuns :
    (let s := coldSt
     s.boot.phase = 0 ∧ s.boot.good = false) ∧
    (let s := coldSt
     s.boot.phase = 0 ∧ s.boot.good = false ∧ s.boot.input = true) ∧
    (let s := coldSt
     s.boot.phase = 0 ∧ s.boot.input = true ∧ s.boot.granted = true ∧ s.boot.good = false ∧ s.boot.pinLow = false ∧ s.boot.hot = false) ∧
    (let s := bootSt 1 (some 0)
     let a : Fuses := fuses0
     s.boot.phase = 1 ∧ s.get Reg.RST_STATUS RST_STATUS.FUSE_BAD = 0 ∧ a.secState ≠ 3 ∧ s.boot.level ≠ some 2) ∧
    (let s := triesSt 1
     let a : Fuses := fuses0
     let b : Fuses := fuses1
     s.boot.phase = 1 ∧ s.get Reg.RST_STATUS RST_STATUS.FUSE_BAD = 0 ∧ a ≠ b ∧ s.boot.tries ≠ 2) ∧
    (let s := triesSt 2
     let a : Fuses := fuses0
     let b : Fuses := fuses1
     s.boot.phase = 1 ∧ s.get Reg.RST_STATUS RST_STATUS.FUSE_BAD = 0 ∧ a ≠ b ∧ s.boot.tries = 2) ∧
    (let s := workSt
     2 ≤ s.boot.phase ∧ s.boot.level = none) ∧
    (let s := workSt
     2 ≤ s.boot.phase ∧ s.boot.level = none ∧ s.boot.pinLow = false ∧ s.boot.hot = false) ∧
    (let s := bootSt 0 (some 1)
     s.boot.phase = 0 ∧ s.boot.good = true ∧ s.boot.hot = false) :=
  by
  and_intros <;> first | decide +kernel | (constructor <;> decide +kernel)

theorem getAll_take {α : Type} (d : Nat → α) (t : Tab α) (k n m : Nat) (h : n ≤ m) :
    Tab.getAll d t k n = (Tab.getAll d t k m).take n := by
  induction n generalizing k m with
  | zero => rfl
  | succ n ih =>
    cases m with
    | zero => omega
    | succ m => simp only [Tab.getAll, List.take_succ_cons]; rw [ih (k + 1) m (by omega)]
/-- An image in slot A is what a read of the slot gives. -/
theorem slotImage_withFlash (s : State) (img : List Byte) (h : imgLen (img.take 128) + 192 = img.length)
    (l : 128 ≤ img.length) (u : img.length ≤ 0x200000) : (withFlash s img).slotImage 0 = img := by
  have r : Tab.getAll flashByte (withFlash s img).flash 0 img.length = img := Tab.getAll_setAll flashByte img [] 0
  simp only [State.slotImage, State.flashBytes, Nat.mul_zero]
  rw [getAll_take flashByte _ 0 128 _ l, r, h, Nat.min_eq_right u, r]
theorem image_length : (imageBody ++ imageSig).length = 3648 := by decide +kernel
theorem image_sized : imgLen ((imageBody ++ imageSig).take 128) + 192 = 3648 := by decide +kernel
theorem image_in_slot : imageSt.slotImage 0 = imageBody ++ imageSig :=
  slotImage_withFlash _ _ (image_sized.trans image_length.symm) (by rw [image_length]; decide) (by rw [image_length]; decide)
theorem image_good : imageSt.imgErr (imageBody ++ imageSig) = eOk := by decide +kernel

theorem witness_ImagesReleaseAndWatchdogRun :
    (let s := imageSt
     let img := s.slotImage s.boot.imgSlot
     s.boot.phase = 2 ∧ s.imgErr img = eOk) ∧
    (let s := badSt 0 0
     let img := s.slotImage s.boot.imgSlot
     s.boot.phase = 2 ∧ s.imgErr img ≠ eOk ∧ s.boot.imgSlot = 0) ∧
    (let s := badSt 1 1
     let img := s.slotImage s.boot.imgSlot
     s.boot.phase = 2 ∧ s.imgErr img ≠ eOk ∧ s.boot.imgSlot ≠ 0 ∧ s.get Reg.RST_STATUS RST_STATUS.LFAIL = 1) ∧
    (let s := p3St
     s.boot.phase = 3 ∧ s.boot.journal = [] ∧ s.boot.seqs = [] ∧ s.boot.level ≠ some 2 ∧ (∀ (v : Nat), v ∈ s.layout.vats → s.retiredVats.contains (s.layout.phys v) = false)) ∧
    (let s := bootSt 4 (some 1)
     s.boot.phase = 4 ∧ s.boot.level ≠ some 2) ∧
    (let s := bootSt 4 (some 2)
     s.boot.phase = 4 ∧ s.boot.level = some 2) ∧
    (let s := bootSt 2 (some 1)
     s.boot.pinLow = false ∧ s.boot.hot = false ∧ s.boot.phase = 2 ∧ s.get Reg.RST_STATUS RST_STATUS.LFAIL = 0) ∧
    (let s := bootSt 3 (some 1)
     s.boot.pinLow = false ∧ s.boot.hot = false ∧ s.boot.phase = 3) ∧
    (let s := workSt
     s.boot.phase = 5 ∧ s.boot.level = none ∧ s.relaying = none) ∧
    (let s := workSt
     s.boot.phase = 5 ∧ s.boot.level = none ∧ s.relaying = none ∧ s.boot.wdt + s.get Reg.RST_WDT RST_WDT.TIMEOUT_MS * 1000000 ≤ BitVec.toNat s.now) ∧
    (let s := workSt
     let m : Master := .reeve
     let val : W64 := 1000
     Writes s m Reg.RST_WDT (withBit RST_WDT.KICK val true)) ∧
    (let s := faultedSt csRun
     let v : VatId := 0
     s.boot.phase = 5 ∧ s.valid v = true ∧ s.mustLeave v = true ∧ s.relaying = none ∧ s.partStill (s.part v) = false) ∧
    (let s := faultedSt csPaused
     let v : VatId := 0
     let n : Nat := 1
     let rest : List Nat := [2,3,4,5,6,7,8,9,10,11,12,13,14,15,16,17]
     s.boot.phase = 5 ∧ s.valid v = true ∧ s.mustLeave v = true ∧ s.relaying = none ∧ s.partStill (s.part v) = true ∧ s.freePhys = n :: rest ∧ s.atWork (s.part v) = []) :=
  ⟨by
      show imageSt.boot.phase = 2 ∧ imageSt.imgErr (imageSt.slotImage 0) = eOk
      rw [image_in_slot]
      exact ⟨rfl, image_good⟩,
    by decide +kernel,
    by decide +kernel,
    by decide +kernel,
    by decide +kernel,
    by decide +kernel,
    by decide +kernel,
    by decide +kernel,
    by decide +kernel,
    by decide +kernel,
    by constructor <;> decide +kernel,
    by decide +kernel,
    by decide +kernel⟩

theorem witness_PowerAndHeatRun :
    (let mv : Nat := 27001
     let long : Bool := false
     (decide (mv < 21000) && long || decide (27000 < mv)) = true) ∧
    (let mv : Nat := 20999
     let long : Bool := true
     (decide (mv < 21000) && long || decide (27000 < mv)) = true) ∧
    (let mv : Nat := 26400
     21600 ≤ mv ∧ mv ≤ 26400) ∧
    (let mv : Nat := 27000
     let long : Bool := true
     (decide (mv < 21000) && long || decide (27000 < mv)) = false ∧ (mv < 21600 ∨ 26400 < mv)) ∧
    (let raw : List Nat := [100, 200, 300, 50, 50]
     raw.length = 5) ∧
    (let a : List Nat := [1, 2, 3, 4, 5]
     a.length = 5) ∧
    (let s := clocks []
     let a : List Nat := [1, 2, 3, 4, 5]
     a.length = 5 ∧ (∃ x, x ∈ a ∧ x ≠ 0) ∧ s.pwr.gains.length = 5 ∧ s.pwr.offs.length = 5) ∧
    (let s := clocks []
     let l : List W16 := heat 45 1840
     l.length = 52 ∧ (∃ i, i < 46 ∧ 16 * 115 ≤ BitVec.toInt (l.getD i 0)) ∧ 2 ≤ s.boot.phase) ∧
    (let s := clocks []
     let l : List W16 := heat 51 1520
     l.length = 52 ∧ s.boot.hot = false ∧ s.boot.phase = 5 ∧ (∀ (i : Nat), i < 52 → BitVec.toInt (l.getD i 0) ≤ s.limitOf i) ∧ (∀ (i : Nat), i < 46 → BitVec.toInt (l.getD i 0) ≤ 16 * 105)) ∧
    (let s := clocks []
     let l : List W16 := heat 45 1839
     l.length = 52 ∧ s.boot.hot = false ∧ s.boot.phase = 5 ∧ (∀ (i : Nat), i < 46 → BitVec.toInt (l.getD i 0) < 16 * 115) ∧ (∃ i, i < 46 ∧ 16 * 105 < BitVec.toInt (l.getD i 0))) ∧
    (let s := hotSt
     let l : List W16 := heat 51 1519
     let since : Nat := 0
     l.length = 52 ∧ s.boot.hot = true ∧ s.boot.phase = 0 ∧ s.boot.good = true ∧ s.boot.pinLow = false ∧ s.boot.cool = some since ∧ since + 1000000000 ≤ BitVec.toNat s.now ∧ (∀ (i : Nat), i < 52 → BitVec.toInt (l.getD i 0) < 16 * 95)) ∧
    (let s := regulSt 1521
     s.get Reg.PWR_STATUS PWR_STATUS.THERM_REG = 1 ∧ s.anyOver = true) ∧
    (let s := regulSt 1488
     s.get Reg.PWR_STATUS PWR_STATUS.THERM_REG = 1 ∧ s.anyOver = false ∧ s.allCool = true) ∧
    (let s := workSt
     2 ≤ s.boot.phase) ∧
    (let s := workSt
     let i : Fin 65 := 64
     s.pwr.stretched.contains i = false) :=
  by
  and_intros <;> first | decide +kernel | (constructor <;> decide +kernel)

theorem witness_CriticalCommandsRun_1 :
    (let s := cmdIn workSt 1 blkResetSys
     let k : SecClass := .host
     (s.boot.level = none ∧ s.boot.pinLow = false ∧ s.boot.hot = false) ∧
     CmdPasses s (clsIdx k) 1 fun a ↦ decide (a = 0)) :=
  ⟨by decide +kernel, by constructor <;> decide +kernel⟩

theorem witness_CriticalCommandsRun_2 :
    (let s := cmdIn workSt 0 blkResetCore
     let k : SecClass := .mgmt
     s.boot.level = none ∧
     CmdPasses s (clsIdx k) 1 fun a ↦ decide (a = 1)) :=
  ⟨by decide +kernel, by constructor <;> decide +kernel⟩

theorem witness_CriticalCommandsRun_3 :
    (let s := cmdIn vat 0 blkResetPart
     let k : SecClass := .mgmt
     (s.boot.level = none ∧ s.reqsOf (cbArg (s.secBlock (clsIdx k)) 1 1) = [] ∧ cbArg (s.secBlock (clsIdx k)) 1 1 < 16) ∧
     CmdPasses s (clsIdx k) 1 fun a ↦ decide (a = 2)) :=
  ⟨by decide +kernel, by constructor <;> decide +kernel⟩

theorem witness_CriticalCommandsRun_4 :
    (let s := cmdIn vat 1 blkResetPart16
     let k : SecClass := .host
     (s.boot.level = none ∧ s.reqsOf (cbArg (s.secBlock (clsIdx k)) 1 1) = [] ∧ 16 ≤ cbArg (s.secBlock (clsIdx k)) 1 1) ∧
     CmdPasses s (clsIdx k) 1 fun a ↦ decide (a = 2)) :=
  ⟨by decide +kernel, by constructor <;> decide +kernel⟩

theorem witness_CriticalCommandsRun_5 :
    (let s := cmdIn (sets relaySt [(.LAYOUT_STATUS, LAYOUT_STATUS.BUSY, 1)]) 1 blkRelayout
     let k : SecClass := .host
     s.get Reg.LAYOUT_STATUS LAYOUT_STATUS.BUSY = 1 ∧
     CmdPasses s (clsIdx k) 2 fun _ ↦ true) :=
  ⟨by decide +kernel, by constructor <;> decide +kernel⟩

theorem witness_CriticalCommandsRun_6 :
    (let s := cmdIn relaySt 1 blkRelayout
     let k : SecClass := .host
     let img := s.hostBytes (cbArg (s.secBlock (clsIdx k)) 0 8) (cbArg (s.secBlock (clsIdx k)) 8 4)
     (s.relaying = none ∧ s.get Reg.LAYOUT_STATUS LAYOUT_STATUS.BUSY = 0 ∧ cbArg (s.secBlock (clsIdx k)) 8 4 ≤ 65536 + 192 ∧ s.partErr img = eOk) ∧
     CmdPasses s (clsIdx k) 2 fun _ ↦ true) :=
  ⟨by decide +kernel, by constructor <;> decide +kernel⟩

theorem witness_CriticalCommandsRun_7 :
    (let s := relayingSt backBody
     let r : Relay := { cls := 1, part := 0, img := backBody }
     let ok : Bool := false
     s.relaying = some r ∧ r.cls < 3 ∧ r.part < 16 ∧ s.sec.queue = [] ∧ s.quiet r.part = true ∧ (reinstated r.img).isEmpty = false ∧ ok = false) :=
  by decide +kernel

theorem witness_CriticalCommandsRun_8 :
    (let s := relayingSt partBody
     let r : Relay := { cls := 1, part := 0, img := partBody }
     let ok : Bool := false
     s.relaying = some r ∧ r.cls < 3 ∧ r.part < 16 ∧ s.sec.queue = [] ∧ s.quiet r.part = true ∧ ((reinstated r.img).isEmpty = true ∨ ok = true)) :=
  by decide +kernel

theorem witness_CriticalCommandsRun_9 :
    (let s := cmdIn up 2 blkKeySlot
     let k : SecClass := .fabric
     let b := s.secBlock (clsIdx k)
     let key : List Byte := cmdKey
     (cbArg (s.secBlock (clsIdx k)) 1 1 < 64 ∧ cbArg (s.secBlock (clsIdx k)) 6 1 < 8 ∧ cbArg (s.secBlock (clsIdx k)) 2 1 = 0 ∧ kwUnwrap (s.kek 0 b) (cbArgBytes b 8 40) = some key) ∧
     CmdPasses s (clsIdx k) 3 fun a ↦ decide (a = 0)) :=
  ⟨by decide +kernel, by constructor <;> decide +kernel⟩

theorem witness_CriticalCommandsRun_10 :
    (let s := cmdIn up 2 blkKeyErase
     let k : SecClass := .fabric
     (cbArg (s.secBlock (clsIdx k)) 1 1 < 64 ∧ cbArg (s.secBlock (clsIdx k)) 6 1 < 8 ∧ cbArg (s.secBlock (clsIdx k)) 2 1 = 1) ∧
     CmdPasses s (clsIdx k) 3 fun a ↦ decide (a = 0)) :=
  ⟨by decide +kernel, by constructor <;> decide +kernel⟩

theorem witness_CriticalCommandsRun_11 :
    (let s := cmdIn up 2 blkKeyTenant
     let k : SecClass := .fabric
     let b := s.secBlock (clsIdx k)
     let key : List Byte := leBytes 16 0x100f0e0d0c0b0a090807060504030201
     kwUnwrap (s.kek (cbSlot b) b) (cbArgBytes b 8 24) = some key ∧
     CmdPasses s (clsIdx k) 3 fun a ↦ decide (a = 1)) :=
  ⟨by decide +kernel, by constructor <;> decide +kernel⟩

theorem witness_CriticalCommandsRun_12 :
    (let s := enrolSt
     CmdPasses s 0 3 fun a ↦ decide (a = 2)) :=
  by constructor <;> decide +kernel

theorem witness_CriticalCommandsRun_13 :
    (let s := cmdIn up 1 blkCap800
     let k : SecClass := .host
     (800 ≤ cbArg (s.secBlock (clsIdx k)) 0 2 ∧ cbArg (s.secBlock (clsIdx k)) 0 2 ≤ 2000) ∧
     CmdPasses s (clsIdx k) 4 fun _ ↦ true) :=
  ⟨by decide +kernel, by constructor <;> decide +kernel⟩

theorem witness_CriticalCommandsRun_14 :
    (let s := cmdIn up 1 blkCap2000
     let k : SecClass := .host
     (800 ≤ cbArg (s.secBlock (clsIdx k)) 0 2 ∧ cbArg (s.secBlock (clsIdx k)) 0 2 ≤ 2000) ∧
     CmdPasses s (clsIdx k) 4 fun _ ↦ true) :=
  ⟨by decide +kernel, by constructor <;> decide +kernel⟩

theorem witness_CriticalCommandsRun_15 :
    (let s := cmdIn up 1 blkCap799
     let k : SecClass := .host
     (cbArg (s.secBlock (clsIdx k)) 0 2 < 800 ∨ 2000 < cbArg (s.secBlock (clsIdx k)) 0 2) ∧
     CmdPasses s (clsIdx k) 4 fun _ ↦ true) :=
  ⟨by decide +kernel, by constructor <;> decide +kernel⟩

theorem witness_CriticalCommandsRun_16 :
    (let s := cmdIn up 1 blkCap2001
     let k : SecClass := .host
     (cbArg (s.secBlock (clsIdx k)) 0 2 < 800 ∨ 2000 < cbArg (s.secBlock (clsIdx k)) 0 2) ∧
     CmdPasses s (clsIdx k) 4 fun _ ↦ true) :=
  ⟨by decide +kernel, by constructor <;> decide +kernel⟩

theorem witness_CriticalCommandsRun_17 :
    (let s := cmdIn up 1 blkBad
     let k : SecClass := .host
     s.boot.phase = 5 ∧ s.sec.queue = [clsIdx k] ∧ s.throttled (clsIdx k) = false ∧ cbOp (s.secBlock (clsIdx k)) = 4 ∧ s.secCheck (clsIdx k) (s.secBlock (clsIdx k)) ≠ eOk) :=
  by decide +kernel

theorem witness_CriticalCommandsRun_18 :
    (let s := cmdIn (fwSt true) 1 blkFw
     let k : SecClass := .host
     let img := s.hostBytes (cbArg (s.secBlock (clsIdx k)) 0 8) (cbArg (s.secBlock (clsIdx k)) 8 4)
     (cbArg (s.secBlock (clsIdx k)) 8 4 ≤ 2097152 ∧ cbArg (s.secBlock (clsIdx k)) 12 1 < 2 ∧ imgSized img false = true ∧ s.imgSigned img = true ∧ s.imgHeader img false = true) ∧
     CmdPasses s (clsIdx k) 5 fun _ ↦ true) :=
  ⟨by decide +kernel, by constructor <;> decide +kernel⟩

theorem witness_CriticalCommandsRun_19 :
    (let s := cmdIn (fwSt false) 1 blkFw
     let k : SecClass := .host
     let img := s.hostBytes (cbArg (s.secBlock (clsIdx k)) 0 8) (cbArg (s.secBlock (clsIdx k)) 8 4)
     (cbArg (s.secBlock (clsIdx k)) 8 4 ≤ 2097152 ∧ cbArg (s.secBlock (clsIdx k)) 12 1 < 2 ∧ imgSized img false = true ∧ s.imgSigned img = false) ∧
     CmdPasses s (clsIdx k) 5 fun _ ↦ true) :=
  ⟨by decide +kernel, by constructor <;> decide +kernel⟩

theorem witness_CriticalCommandsRun_20 :
    (let s := cmdIn vat 1 blkWinOpen
     let k : SecClass := .host
     let v := cbArg (s.secBlock (clsIdx k)) 1 1
     let w := cbArg (s.secBlock (clsIdx k)) 2 1
     let e := s.openErr v w (cbArg (s.secBlock (clsIdx k)) 4 4) (cbArg (s.secBlock (clsIdx k)) 8 4)
     (v < 16 ∧ s.valid v = true ∧ s.get (Reg.CELLAR_STATUS v) CELLAR_STATUS.SCRUB_BUSY = 0 ∧ e = eOk) ∧
     CmdPasses s (clsIdx k) 6 fun a ↦ decide (a = 0)) :=
  ⟨by decide +kernel, by constructor <;> decide +kernel⟩

theorem witness_CriticalCommandsRun_21 :
    (let s := cmdIn vat 1 blkWinOff
     let k : SecClass := .host
     let v := cbArg (s.secBlock (clsIdx k)) 1 1
     let w := cbArg (s.secBlock (clsIdx k)) 2 1
     let e := s.openErr v w (cbArg (s.secBlock (clsIdx k)) 4 4) (cbArg (s.secBlock (clsIdx k)) 8 4)
     (v < 16 ∧ s.valid v = true ∧ s.get (Reg.CELLAR_STATUS v) CELLAR_STATUS.SCRUB_BUSY = 0 ∧ e ≠ eOk) ∧
     CmdPasses s (clsIdx k) 6 fun a ↦ decide (a = 0)) :=
  ⟨by decide +kernel, by constructor <;> decide +kernel⟩

theorem witness_CriticalCommandsRun_22 :
    (let s := cmdIn openWin 1 blkWinClose
     let k : SecClass := .host
     let v := cbArg (s.secBlock (clsIdx k)) 1 1
     let w := cbArg (s.secBlock (clsIdx k)) 2 1
     (v < 16 ∧ s.get (Reg.THR_WIN_A v w) THR_WIN_A.STATE = 1) ∧
     CmdPasses s (clsIdx k) 6 fun a ↦ decide (a = 1)) :=
  ⟨by decide +kernel, by constructor <;> decide +kernel⟩

theorem witness_CriticalCommandsRun_23 :
    (let s := cmdIn regionSt 1 blkKill
     let k : SecClass := .host
     (cbArg (s.secBlock (clsIdx k)) 0 1 < 16 ∧ s.reqsOf (cbArg (s.secBlock (clsIdx k)) 0 1) = []) ∧
     CmdPasses s (clsIdx k) 7 fun _ ↦ true) :=
  ⟨by decide +kernel, by constructor <;> decide +kernel⟩

theorem witness_CriticalCommandsRun_24 :
    (let s := killedSt
     let p : PartId := 0
     s.killClosed p = true ∧ (∀ (v : Nat), v ∈ s.vatsOf p → (s.vat v).zeroing = false ∧ s.get (Reg.CELLAR_STATUS v) CELLAR_STATUS.SCRUB_BUSY = 0)) :=
  by decide +kernel

theorem witness_CriticalCommandsRun_25 :
    (let s := nearSt
     s.boot.phase = 5 ∧ s.sec.queue = [] ∧ s.marksDue ≠ []) :=
  by decide +kernel

theorem witness_CriticalCommandsRun_26 :
    (let s := throttledSt
     let k : SecClass := .fabric
     s.throttled (clsIdx k) = true ∧ Tab.get (fun _ ↦ 0) s.sec.until_ (clsIdx k) ≤ BitVec.toNat s.now) :=
  by decide +kernel

theorem witness_HostLinkRuns :
    (let s := bootSt 4 (some 1)
     (s.served = true ∨ s.boot.phase = 4)) ∧
    (let s := bootSt 3 (some 1)
     let f : FuncId := 0
     s.boot.phase ≠ 0 ∧ s.funcOn f = true ∧ s.served = false) ∧
    (let s := hostSt
     let f : FuncId := 63
     s.boot.phase ≠ 0 ∧ s.funcOn f = true ∧ s.served = true) ∧
    (let s := hostSt
     let f : FuncId := 0
     s.boot.phase ≠ 0 ∧ s.funcOn f = true ∧ s.served = true ∧ f = 0) ∧
    (let s := hostSt
     let f : FuncId := 63
     s.boot.phase ≠ 0 ∧ s.funcOn f = true ∧ s.served = true ∧ f ≠ 0) ∧
    (let s := hostSt
     let f : FuncId := 0
     let n : Nat := 64
     s.boot.phase ≠ 0 ∧ s.funcOn f = true ∧ s.served = true ∧ (f ≠ 0 ∨ s.get Reg.HOST_STATUS HOST_STATUS.TOTAL_VFS < n)) ∧
    (let s := hostSt
     let f : FuncId := 0
     let n : Nat := 63
     s.boot.phase ≠ 0 ∧ s.funcOn f = true ∧ s.served = true ∧ f = 0 ∧ n ≤ s.get Reg.HOST_STATUS HOST_STATUS.TOTAL_VFS) ∧
    (let s := hostSt
     let f : FuncId := 63
     let vec : Fin 2 := 1
     let m : Msi := { last := some 999995000, held := true }
     let last : Nat := 999995000
     Tab.get (fun x ↦ { }) s.msi (2 * f + vec) = m ∧ m.last = some last ∧ m.held = true ∧ last + 5000 ≤ BitVec.toNat s.now) ∧
    (let s := hostSt
     let f : FuncId := 63
     s.served = true ∧ f ≠ 0 ∧ s.funcOn f = true ∧ (∀ (i : Nat), i ∈ s.liveReqs → (s.req i).func ≠ f) ∧ (∀ (l : Launch), l ∈ s.launches → l.f = f → l.req ≠ none) ∧ (∀ (o : ShOp), o ∈ s.ops → o.f = f → o.req ≠ none)) ∧
    (let s := hostSt
     s.served = true ∧ (∀ (f : Nat), f < 64 → (∀ (i : Nat), i ∈ s.liveReqs → (s.req i).func ≠ f) ∧ (∀ (l : Launch), l ∈ s.launches → l.f = f → l.req ≠ none) ∧ ∀ (o : ShOp), o ∈ s.ops → o.f = f → o.req ≠ none)) ∧
    (let s := funcSt
     let f : FuncId := 63
     let off : BitVec 38 := bar2Mem
     let x := off.toNat
     let n : Nat := 4096
     s.served = true ∧ s.funcOn f = true ∧ s.boot.phase ≠ 6 ∧ x < memTop ∧ bar2Shape off n 4096 = true ∧ s.reachMem f x n = true) ∧
    (let s := funcSt
     let f : FuncId := 63
     let off : BitVec 38 := bar2Out
     let x := off.toNat
     let n : Nat := 4
     s.served = true ∧ s.funcOn f = true ∧ s.boot.phase ≠ 6 ∧ x < memTop ∧ bar2Shape off n 4096 = true ∧ s.reachMem f x n = false) ∧
    (let s := funcSt
     let f : FuncId := 63
     let off : BitVec 38 := bar2Mem
     let x := off.toNat
     let data : List Byte := [1,2,3,4]
     s.served = true ∧ s.funcOn f = true ∧ s.boot.phase ≠ 6 ∧ x < memTop ∧ bar2Shape off data.length 512 = true ∧ s.reachMem f x data.length = true) ∧
    (let s := funcSt
     let f : FuncId := 63
     let off : BitVec 38 := bar2Out
     let x := off.toNat
     let data : List Byte := List.replicate 512 1
     s.served = true ∧ s.funcOn f = true ∧ s.boot.phase ≠ 6 ∧ x < memTop ∧ bar2Shape off data.length 512 = true ∧ s.reachMem f x data.length = false) ∧
    (let s := funcSt
     let f : FuncId := 63
     let off : BitVec 38 := bar2Row
     let x := off.toNat
     let v := (x - memTop) / 2 ^ 32
     let y := (x - memTop) % 2 ^ 32
     let n : Nat := 8
     s.served = true ∧ s.funcOn f = true ∧ s.boot.phase ≠ 6 ∧ memTop ≤ x ∧ s.reachVat f v = true ∧ s.claimErr v (bankOf (y / 512)) portRemote = 0 ∧ bar2Shape off n 4096 = true) ∧
    (let s := funcSt
     let f : FuncId := 63
     let off : BitVec 38 := bar2Row
     let x := off.toNat
     let v := (x - memTop) / 2 ^ 32
     let y := (x - memTop) % 2 ^ 32
     let data : List Byte := List.replicate 512 3
     s.served = true ∧ s.funcOn f = true ∧ s.boot.phase ≠ 6 ∧ memTop ≤ x ∧ s.reachVat f v = true ∧ s.claimErr v (bankOf (y / 512)) portRemote = 0 ∧ data.length = 512 ∧ y % 512 = 0 ∧ (s.vat v).killed = false) ∧
    (let s := stackSt 2 0
     let h : StackId := 5
     let pc : Fin 64 := 63
     let off : BitVec 35 := scrubOff
     s.get (Reg.HBM_STATUS h) HBM_STATUS.TRAINED = 1 ∧ off.toNat / 2048 % 64 = pc) ∧
    (let s := stackSt 2 0
     let h : StackId := 5
     let pc : Fin 64 := 63
     let off : BitVec 35 := scrubOff
     (s.get (Reg.HBM_STATUS h) HBM_STATUS.TRAINED = 1 ∧ off.toNat / 2048 % 64 = pc ∧ s.logDepth clsHbm h pc = 0) ∧
     LogFree s) ∧
    (let s := stackSt 2 0
     let h : StackId := 5
     let pc : Fin 64 := 63
     let off : BitVec 35 := scrubOff
     (s.get (Reg.HBM_STATUS h) HBM_STATUS.TRAINED = 1 ∧ off.toNat / 2048 % 64 = pc ∧ s.logDepth clsHbm h pc = 0 ∧ s.failedToday h pc = false) ∧
     LogFree s) ∧
    (let s := stackSt 2 0
     let h : StackId := 5
     let pc : Fin 64 := 63
     let off : BitVec 35 := scrubOff
     let room : Bool := false
     (s.get (Reg.HBM_STATUS h) HBM_STATUS.TRAINED = 1 ∧ off.toNat / 2048 % 64 = pc ∧ s.logDepth clsHbm h pc = 0 ∧ (room = false ∨ s.failedToday h pc = true) ∧ s.get (Reg.HBM_STATUS h) HBM_STATUS.PC_SPARES ≠ 0) ∧
     LogFree s) ∧
    (let s := { stackSt 2 0 with pcFailed := [(383, some 1)] }
     let h : StackId := 5
     let pc : Fin 64 := 63
     let off : BitVec 35 := scrubOff
     let room : Bool := true
     (s.get (Reg.HBM_STATUS h) HBM_STATUS.TRAINED = 1 ∧ off.toNat / 2048 % 64 = pc ∧ s.logDepth clsHbm h pc = 0 ∧ (room = false ∨ s.failedToday h pc = true) ∧ s.get (Reg.HBM_STATUS h) HBM_STATUS.PC_SPARES ≠ 0) ∧
     LogFree s) ∧
    (let s := stackSt 0 0
     let h : StackId := 5
     let pc : Fin 64 := 63
     let off : BitVec 35 := scrubOff
     let room : Bool := false
     (s.get (Reg.HBM_STATUS h) HBM_STATUS.TRAINED = 1 ∧ off.toNat / 2048 % 64 = pc ∧ s.logDepth clsHbm h pc = 0 ∧ (room = false ∨ s.failedToday h pc = true) ∧ s.get (Reg.HBM_STATUS h) HBM_STATUS.PC_SPARES = 0 ∧ s.liveReqs = [] ∧ s.get Reg.ERR_DEGRADED ERR_DEGRADED.MODULE_DOWN = 0) ∧
     LogFree s) ∧
    (let s := stackSt 1 1
     let h : StackId := 5
     s.get (Reg.HBM_STATUS h) HBM_STATUS.COPYING = 1) :=
  by
  and_intros <;> first | decide +kernel | (constructor <;> decide +kernel) | (unfold LogFree; decide +kernel)

theorem witness_AlertsRun :
    (let s := alertSt
     s.boot.phase ≠ 0) ∧
    (let s := alertSt
     let x : RegWrite := clearAlert
     (x.off.toNat = Reg.MGMT_ALERT.off ∧ x.size = 8 ∧ s.rd Reg.MGMT_ALERT &&& s.rd Reg.MGMT_ALERT_EN &&& ~~~x.val = 0 ∧ s.rd Reg.MGMT_ALERT &&& ~~~63 = 0) ∧
     Writes s x.master Reg.MGMT_ALERT x.val) :=
  by
  and_intros <;> first | decide +kernel | (constructor <;> decide +kernel)

theorem witness_ManagementAndTapRun :
    (let s := up
     let bytes : List Byte := smb .PWR_CTRL []
     let o := dfield bytes 0 4
     s.boot.phase ≠ 0 ∧ bytes.length = 4 ∧ o % 8 = 0 ∧ o < 67108864) ∧
    (let s := up
     let bytes : List Byte := [1,0,0,0]
     let o := dfield bytes 0 4
     s.boot.phase ≠ 0 ∧ ¬(bytes.length = 4 ∧ o % 8 = 0 ∧ o < 67108864)) ∧
    (let s := up
     let bytes : List Byte := smb .PWR_CTRL (leBytes 8 85)
     let o := dfield bytes 0 4
     let r : Reg := .PWR_CTRL
     let val : BitVec 64 := 85
     (s.boot.phase ≠ 0 ∧ bytes.length = 12 ∧ o % 8 = 0 ∧ o < 67108864 ∧ o = r.off ∧ aliasOf o = o ∧ val = BitVec.ofNat 64 (dfield bytes 4 8) ∧ (r = Reg.PWR_CTRL ∨ r = Reg.MGMT_ALERT_EN)) ∧
     Writes s Master.mgmt r val) ∧
    (let s := bootSt 6 none
     let bytes : List Byte := smb .PWR_CTRL (leBytes 8 85)
     let o := dfield bytes 0 4
     s.boot.phase ≠ 0 ∧ bytes.length = 12 ∧ o % 8 = 0 ∧ o < 67108864 ∧ s.writeRight Master.mgmt (aliasOf o) = eCfgLocked) ∧
    (let s := up
     let bytes : List Byte := []
     let o := dfield bytes 0 4
     s.boot.phase ≠ 0 ∧ ¬(bytes.length = 12 ∧ o % 8 = 0 ∧ o < 67108864)) ∧
    (let s := up
     s.boot.phase ≠ 0) ∧
    (let s := up
     let c : Instr := .smbusIdent false
     s.boot.phase ≠ 0 ∧
     ((∃ bytes, c = Instr.smbusRegRead bytes false) ∨ (∃ bytes, c = Instr.smbusRegWrite bytes false) ∨ c = Instr.smbusStatus false ∨ c = Instr.smbusIdent false ∨ c = Instr.alertResponse false)) ∧
    (let s := lockedTap
     s.tapLocked = true) ∧
    (let s := bootSt 0 none
     s.tapLocked = false ∧ s.boot.phase = 0) ∧
    (let s := up
     let dr : BitVec 91 := regacc 0 8 0
     let off := dr.toNat / 2 ^ 64 % 2 ^ 26
     s.tapLocked = false ∧ s.boot.phase ≠ 0 ∧ dr.getLsbD 90 = false ∧ off % 8 = 0) ∧
    (let s := up
     let dr : BitVec 91 := regacc 0 4 0
     let off := dr.toNat / 2 ^ 64 % 2 ^ 26
     s.tapLocked = false ∧ s.boot.phase ≠ 0 ∧ dr.getLsbD 90 = false ∧ off % 8 ≠ 0) ∧
    (let s := up
     let dr : BitVec 91 := regacc 1 (Reg.off .PWR_CTRL) 105
     let off := dr.toNat / 2 ^ 64 % 2 ^ 26
     (s.tapLocked = false ∧ s.boot.phase ≠ 0 ∧ dr.getLsbD 90 = true ∧ off = Reg.PWR_CTRL.off) ∧
     Writes s Master.tap Reg.PWR_CTRL (BitVec.truncate 64 dr)) ∧
    (let s := unlockSt 9
     let b : List Byte := unlockBlk
     b.length = 448 ∧ 4 ≤ s.boot.phase ∧ s.throttled 0 = false ∧ s.unlockErr b = eOk) ∧
    (let s := unlockSt 8
     let b : List Byte := unlockBlk
     b.length = 448 ∧ 4 ≤ s.boot.phase ∧ s.throttled 0 = false ∧ s.unlockErr b = eOk) ∧
    (let s := unlockSt 9
     let b : List Byte := zeroBlk
     b.length = 448 ∧ 4 ≤ s.boot.phase ∧ s.throttled 0 = false ∧ s.unlockErr b ≠ eOk) ∧
    (let s := failing
     let b : List Byte := zeroBlk
     b.length = 448 ∧ 4 ≤ s.boot.phase ∧ s.throttled 0 = false ∧ s.unlockErr b ≠ eOk) :=
  ⟨by decide +kernel,
    by decide +kernel,
    ⟨by decide +kernel, by constructor <;> decide +kernel⟩,
    by decide +kernel,
    by decide +kernel,
    by decide +kernel,
    ⟨by decide +kernel, .inr (.inr (.inr (.inl rfl)))⟩,
    by decide +kernel,
    by decide +kernel,
    by decide +kernel,
    by decide +kernel,
    ⟨by decide +kernel, by constructor <;> decide +kernel⟩,
    by decide +kernel,
    by decide +kernel,
    by decide +kernel,
    by decide +kernel⟩

theorem witness_VatMapRefusesImpossiblePositions :
    (let s := idleSt
     let x : RegWrite := wr8 .reeve .GLB_VAT_MAP_HI (mapTo 15 18)
     let r : Reg := .GLB_VAT_MAP_HI
     let w := regNew r (s.rd r) x.val
     let lo := if r = Reg.GLB_VAT_MAP_LO then w else s.rd Reg.GLB_VAT_MAP_LO
     let hi := if r = Reg.GLB_VAT_MAP_HI then w else s.rd Reg.GLB_VAT_MAP_HI
     ((r = Reg.GLB_VAT_MAP_LO ∨ r = Reg.GLB_VAT_MAP_HI) ∧ x.off.toNat = r.off ∧ x.size = 8 ∧ s.isOut 4 = false ∧ s.hostGone x.master = false ∧ s.writeRight x.master r.off = eOk ∧ (∀ (v : Nat), v < 16 → s.partIdle v = true)) ∧
     ((∃ v, v < 16 ∧ 18 ≤ (mapPhys v).get (if v < 8 then lo else hi)) ∨ ∃ u v, u < v ∧ v < 16 ∧ (mapValid u).get (if u < 8 then lo else hi) = 1 ∧ (mapValid v).get (if v < 8 then lo else hi) = 1 ∧ (mapPhys u).get (if u < 8 then lo else hi) = (mapPhys v).get (if v < 8 then lo else hi))) ∧
    (let s := idleSt
     let x : RegWrite := wr8 .reeve .GLB_VAT_MAP_HI (mapTwice 8 15 17)
     let r : Reg := .GLB_VAT_MAP_HI
     let w := regNew r (s.rd r) x.val
     let lo := if r = Reg.GLB_VAT_MAP_LO then w else s.rd Reg.GLB_VAT_MAP_LO
     let hi := if r = Reg.GLB_VAT_MAP_HI then w else s.rd Reg.GLB_VAT_MAP_HI
     ((r = Reg.GLB_VAT_MAP_LO ∨ r = Reg.GLB_VAT_MAP_HI) ∧ x.off.toNat = r.off ∧ x.size = 8 ∧ s.isOut 4 = false ∧ s.hostGone x.master = false ∧ s.writeRight x.master r.off = eOk ∧ (∀ (v : Nat), v < 16 → s.partIdle v = true)) ∧
     ((∃ v, v < 16 ∧ 18 ≤ (mapPhys v).get (if v < 8 then lo else hi)) ∨ ∃ u v, u < v ∧ v < 16 ∧ (mapValid u).get (if u < 8 then lo else hi) = 1 ∧ (mapValid v).get (if v < 8 then lo else hi) = 1 ∧ (mapPhys u).get (if u < 8 then lo else hi) = (mapPhys v).get (if v < 8 then lo else hi))) ∧
    (let s := idleSt
     let x : RegWrite := wr8 .reeve .GLB_VAT_MAP_HI (mapTo 15 0)
     let r : Reg := .GLB_VAT_MAP_HI
     let w := regNew r (s.rd r) x.val
     let lo := if r = Reg.GLB_VAT_MAP_LO then w else s.rd Reg.GLB_VAT_MAP_LO
     let hi := if r = Reg.GLB_VAT_MAP_HI then w else s.rd Reg.GLB_VAT_MAP_HI
     ((r = Reg.GLB_VAT_MAP_LO ∨ r = Reg.GLB_VAT_MAP_HI) ∧ x.off.toNat = r.off ∧ x.size = 8 ∧ s.isOut 4 = false ∧ s.hostGone x.master = false ∧ s.writeRight x.master r.off = eOk ∧ (∀ (v : Nat), v < 16 → s.partIdle v = true)) ∧
     ((∃ v, v < 16 ∧ 18 ≤ (mapPhys v).get (if v < 8 then lo else hi)) ∨ ∃ u v, u < v ∧ v < 16 ∧ (mapValid u).get (if u < 8 then lo else hi) = 1 ∧ (mapValid v).get (if v < 8 then lo else hi) = 1 ∧ (mapPhys u).get (if u < 8 then lo else hi) = (mapPhys v).get (if v < 8 then lo else hi))) :=
  ⟨⟨by decide +kernel, .inl ⟨15, by decide +kernel⟩⟩,
    ⟨by decide +kernel, .inr ⟨8, 15, by decide +kernel⟩⟩,
    ⟨by decide +kernel, .inr ⟨0, 15, by decide +kernel⟩⟩⟩

theorem witness_RegisterWritesRun :
    (let s := idleSt
     let x : RegWrite := wr8 .mgmt .PWR_CTRL 105
     let r : Reg := .PWR_CTRL
     ((match r with   | Reg.PWR_CTRL => true   | Reg.MGMT_ALERT => true   | Reg.MGMT_ALERT_EN => true   | Reg.PERF_CTL => true   | Reg.PERF_FUNC => true   | Reg.PERF_BW_CFG => true   | Reg.ERR_HOST => true   | Reg.PERF_CFG u i => true   | Reg.PERF_VALUE u i => true   | Reg.THR_PORT_CFG p => true   | Reg.VAT_LANE_REMAP v => true   | Reg.REEVE_VARIANT_CFG x => true   | Reg.KVX_PORT_NET x => true   | x => false) =   true ∧ x.off.toNat = r.off ∧ x.size = 8) ∧
     Writes s x.master r x.val) ∧
    (let s := alertSt
     let x : RegWrite := wr8 .mgmt .MGMT_ALERT 4
     let r : Reg := .MGMT_ALERT
     ((match r with   | Reg.PWR_CTRL => true   | Reg.MGMT_ALERT => true   | Reg.MGMT_ALERT_EN => true   | Reg.PERF_CTL => true   | Reg.PERF_FUNC => true   | Reg.PERF_BW_CFG => true   | Reg.ERR_HOST => true   | Reg.PERF_CFG u i => true   | Reg.PERF_VALUE u i => true   | Reg.THR_PORT_CFG p => true   | Reg.VAT_LANE_REMAP v => true   | Reg.REEVE_VARIANT_CFG x => true   | Reg.KVX_PORT_NET x => true   | x => false) =   true ∧ x.off.toNat = r.off ∧ x.size = 8) ∧
     Writes s x.master r x.val) ∧
    (let s := alertSt
     let x : RegWrite := wr8 .mgmt .MGMT_ALERT_EN 255
     let r : Reg := .MGMT_ALERT_EN
     ((match r with   | Reg.PWR_CTRL => true   | Reg.MGMT_ALERT => true   | Reg.MGMT_ALERT_EN => true   | Reg.PERF_CTL => true   | Reg.PERF_FUNC => true   | Reg.PERF_BW_CFG => true   | Reg.ERR_HOST => true   | Reg.PERF_CFG u i => true   | Reg.PERF_VALUE u i => true   | Reg.THR_PORT_CFG p => true   | Reg.VAT_LANE_REMAP v => true   | Reg.REEVE_VARIANT_CFG x => true   | Reg.KVX_PORT_NET x => true   | x => false) =   true ∧ x.off.toNat = r.off ∧ x.size = 8) ∧
     Writes s x.master r x.val) ∧
    (let s := idleSt
     let x : RegWrite := wr8 (.host 0) .PERF_CTL 255
     let r : Reg := .PERF_CTL
     ((match r with   | Reg.PWR_CTRL => true   | Reg.MGMT_ALERT => true   | Reg.MGMT_ALERT_EN => true   | Reg.PERF_CTL => true   | Reg.PERF_FUNC => true   | Reg.PERF_BW_CFG => true   | Reg.ERR_HOST => true   | Reg.PERF_CFG u i => true   | Reg.PERF_VALUE u i => true   | Reg.THR_PORT_CFG p => true   | Reg.VAT_LANE_REMAP v => true   | Reg.REEVE_VARIANT_CFG x => true   | Reg.KVX_PORT_NET x => true   | x => false) =   true ∧ x.off.toNat = r.off ∧ x.size = 8) ∧
     Writes s x.master r x.val) ∧
    (let s := idleSt
     let x : RegWrite := wr8 (.host 0) .PERF_FUNC 255
     let r : Reg := .PERF_FUNC
     ((match r with   | Reg.PWR_CTRL => true   | Reg.MGMT_ALERT => true   | Reg.MGMT_ALERT_EN => true   | Reg.PERF_CTL => true   | Reg.PERF_FUNC => true   | Reg.PERF_BW_CFG => true   | Reg.ERR_HOST => true   | Reg.PERF_CFG u i => true   | Reg.PERF_VALUE u i => true   | Reg.THR_PORT_CFG p => true   | Reg.VAT_LANE_REMAP v => true   | Reg.REEVE_VARIANT_CFG x => true   | Reg.KVX_PORT_NET x => true   | x => false) =   true ∧ x.off.toNat = r.off ∧ x.size = 8) ∧
     Writes s x.master r x.val) ∧
    (let s := idleSt
     let x : RegWrite := wr8 (.host 0) .PERF_BW_CFG 1
     let r : Reg := .PERF_BW_CFG
     ((match r with   | Reg.PWR_CTRL => true   | Reg.MGMT_ALERT => true   | Reg.MGMT_ALERT_EN => true   | Reg.PERF_CTL => true   | Reg.PERF_FUNC => true   | Reg.PERF_BW_CFG => true   | Reg.ERR_HOST => true   | Reg.PERF_CFG u i => true   | Reg.PERF_VALUE u i => true   | Reg.THR_PORT_CFG p => true   | Reg.VAT_LANE_REMAP v => true   | Reg.REEVE_VARIANT_CFG x => true   | Reg.KVX_PORT_NET x => true   | x => false) =   true ∧ x.off.toNat = r.off ∧ x.size = 8) ∧
     Writes s x.master r x.val) ∧
    (let s := idleSt
     let x : RegWrite := wr8 (.host 0) .ERR_HOST 1
     let r : Reg := .ERR_HOST
     ((match r with   | Reg.PWR_CTRL => true   | Reg.MGMT_ALERT => true   | Reg.MGMT_ALERT_EN => true   | Reg.PERF_CTL => true   | Reg.PERF_FUNC => true   | Reg.PERF_BW_CFG => true   | Reg.ERR_HOST => true   | Reg.PERF_CFG u i => true   | Reg.PERF_VALUE u i => true   | Reg.THR_PORT_CFG p => true   | Reg.VAT_LANE_REMAP v => true   | Reg.REEVE_VARIANT_CFG x => true   | Reg.KVX_PORT_NET x => true   | x => false) =   true ∧ x.off.toNat = r.off ∧ x.size = 8) ∧
     Writes s x.master r x.val) ∧
    (let s := idleSt
     let x : RegWrite := wr8 (.host 0) (.PERF_CFG 15 15) (PERF_CFG.EVENT.put 0 ((perfEvents 15).headD 0))
     let r : Reg := .PERF_CFG 15 15
     ((match r with   | Reg.PWR_CTRL => true   | Reg.MGMT_ALERT => true   | Reg.MGMT_ALERT_EN => true   | Reg.PERF_CTL => true   | Reg.PERF_FUNC => true   | Reg.PERF_BW_CFG => true   | Reg.ERR_HOST => true   | Reg.PERF_CFG u i => true   | Reg.PERF_VALUE u i => true   | Reg.THR_PORT_CFG p => true   | Reg.VAT_LANE_REMAP v => true   | Reg.REEVE_VARIANT_CFG x => true   | Reg.KVX_PORT_NET x => true   | x => false) =   true ∧ x.off.toNat = r.off ∧ x.size = 8) ∧
     Writes s x.master r x.val) ∧
    (let s := idleSt
     let x : RegWrite := wr8 (.host 0) (.PERF_VALUE 37 15) 7
     let r : Reg := .PERF_VALUE 37 15
     ((match r with   | Reg.PWR_CTRL => true   | Reg.MGMT_ALERT => true   | Reg.MGMT_ALERT_EN => true   | Reg.PERF_CTL => true   | Reg.PERF_FUNC => true   | Reg.PERF_BW_CFG => true   | Reg.ERR_HOST => true   | Reg.PERF_CFG u i => true   | Reg.PERF_VALUE u i => true   | Reg.THR_PORT_CFG p => true   | Reg.VAT_LANE_REMAP v => true   | Reg.REEVE_VARIANT_CFG x => true   | Reg.KVX_PORT_NET x => true   | x => false) =   true ∧ x.off.toNat = r.off ∧ x.size = 8) ∧
     Writes s x.master r x.val) ∧
    (let s := idleSt
     let x : RegWrite := wr8 .reeve (.THR_PORT_CFG 17) 1
     let r : Reg := .THR_PORT_CFG 17
     ((match r with   | Reg.PWR_CTRL => true   | Reg.MGMT_ALERT => true   | Reg.MGMT_ALERT_EN => true   | Reg.PERF_CTL => true   | Reg.PERF_FUNC => true   | Reg.PERF_BW_CFG => true   | Reg.ERR_HOST => true   | Reg.PERF_CFG u i => true   | Reg.PERF_VALUE u i => true   | Reg.THR_PORT_CFG p => true   | Reg.VAT_LANE_REMAP v => true   | Reg.REEVE_VARIANT_CFG x => true   | Reg.KVX_PORT_NET x => true   | x => false) =   true ∧ x.off.toNat = r.off ∧ x.size = 8) ∧
     Writes s x.master r x.val) ∧
    (let s := idleSt
     let x : RegWrite := wr8 .reeve (.VAT_LANE_REMAP 0) 5
     let r : Reg := .VAT_LANE_REMAP 0
     ((match r with   | Reg.PWR_CTRL => true   | Reg.MGMT_ALERT => true   | Reg.MGMT_ALERT_EN => true   | Reg.PERF_CTL => true   | Reg.PERF_FUNC => true   | Reg.PERF_BW_CFG => true   | Reg.ERR_HOST => true   | Reg.PERF_CFG u i => true   | Reg.PERF_VALUE u i => true   | Reg.THR_PORT_CFG p => true   | Reg.VAT_LANE_REMAP v => true   | Reg.REEVE_VARIANT_CFG x => true   | Reg.KVX_PORT_NET x => true   | x => false) =   true ∧ x.off.toNat = r.off ∧ x.size = 8) ∧
     Writes s x.master r x.val) ∧
    (let s := idleSt
     let x : RegWrite := wr8 .reeve (.REEVE_VARIANT_CFG 127) 1
     let r : Reg := .REEVE_VARIANT_CFG 127
     ((match r with   | Reg.PWR_CTRL => true   | Reg.MGMT_ALERT => true   | Reg.MGMT_ALERT_EN => true   | Reg.PERF_CTL => true   | Reg.PERF_FUNC => true   | Reg.PERF_BW_CFG => true   | Reg.ERR_HOST => true   | Reg.PERF_CFG u i => true   | Reg.PERF_VALUE u i => true   | Reg.THR_PORT_CFG p => true   | Reg.VAT_LANE_REMAP v => true   | Reg.REEVE_VARIANT_CFG x => true   | Reg.KVX_PORT_NET x => true   | x => false) =   true ∧ x.off.toNat = r.off ∧ x.size = 8) ∧
     Writes s x.master r x.val) ∧
    (let s := idleSt
     let x : RegWrite := wr8 .reeve (.KVX_PORT_NET 1) 1
     let r : Reg := .KVX_PORT_NET 1
     ((match r with   | Reg.PWR_CTRL => true   | Reg.MGMT_ALERT => true   | Reg.MGMT_ALERT_EN => true   | Reg.PERF_CTL => true   | Reg.PERF_FUNC => true   | Reg.PERF_BW_CFG => true   | Reg.ERR_HOST => true   | Reg.PERF_CFG u i => true   | Reg.PERF_VALUE u i => true   | Reg.THR_PORT_CFG p => true   | Reg.VAT_LANE_REMAP v => true   | Reg.REEVE_VARIANT_CFG x => true   | Reg.KVX_PORT_NET x => true   | x => false) =   true ∧ x.off.toNat = r.off ∧ x.size = 8) ∧
     Writes s x.master r x.val) ∧
    (let s := vat
     let x : RegWrite := wr8 .reeve (.VAT_LANE_REMAP 0) 5
     let r : Reg := .VAT_LANE_REMAP 0
     let hw : List HwUpdate := []
     let il := r.bits [FTy.il]
     (x.off.toNat = r.off ∧ x.size = 8 ∧ s.isOut 4 = false ∧ s.hostGone x.master = false ∧ Reg.ofOff r.off = some r ∧ s.writeRight x.master r.off = eOk ∧ s.noFunc r = false ∧ (hw = [] ∧ s.ilKept r r.off 8 = il ∧ il ≠ 0 ∨ hw = [HwUpdate.leavesIdle x.off] ∧ il ≠ 0) ∧ s.writeErr x.master r (regNew r (s.stored r) x.val &&& ~~~il ||| s.stored r &&& il) = eOk) ∧
     ((match r with     | Reg.PWR_CTRL => true     | Reg.MGMT_ALERT => true     | Reg.MGMT_ALERT_EN => true     | Reg.PERF_CTL => true     | Reg.PERF_FUNC => true     | Reg.PERF_BW_CFG => true     | Reg.ERR_HOST => true     | Reg.PERF_CFG u i => true     | Reg.PERF_VALUE u i => true     | Reg.THR_PORT_CFG p => true     | Reg.VAT_LANE_REMAP v => true     | Reg.REEVE_VARIANT_CFG x => true     | Reg.KVX_PORT_NET x => true     | x => false) =     true ∨   ∃ d, r = Reg.KVX_DEST_CFG d ∧ s.get r KVX_DEST_CFG.ENABLE = 1 ∧ KVX_DEST_CFG.ENABLE.get x.val = 1)) ∧
    (let s := destSt 1 0 []
     let x : RegWrite := wr8 (.host 0) (.KVX_DEST_CFG 255) (2 ^ 63 + 9)
     let r : Reg := .KVX_DEST_CFG 255
     let hw : List HwUpdate := []
     let il := r.bits [FTy.il]
     (x.off.toNat = r.off ∧ x.size = 8 ∧ s.isOut 4 = false ∧ s.hostGone x.master = false ∧ Reg.ofOff r.off = some r ∧ s.writeRight x.master r.off = eOk ∧ s.noFunc r = false ∧ (hw = [] ∧ s.ilKept r r.off 8 = il ∧ il ≠ 0 ∨ hw = [HwUpdate.leavesIdle x.off] ∧ il ≠ 0) ∧ s.writeErr x.master r (regNew r (s.stored r) x.val &&& ~~~il ||| s.stored r &&& il) = eOk) ∧
     ((match r with     | Reg.PWR_CTRL => true     | Reg.MGMT_ALERT => true     | Reg.MGMT_ALERT_EN => true     | Reg.PERF_CTL => true     | Reg.PERF_FUNC => true     | Reg.PERF_BW_CFG => true     | Reg.ERR_HOST => true     | Reg.PERF_CFG u i => true     | Reg.PERF_VALUE u i => true     | Reg.THR_PORT_CFG p => true     | Reg.VAT_LANE_REMAP v => true     | Reg.REEVE_VARIANT_CFG x => true     | Reg.KVX_PORT_NET x => true     | x => false) =     true ∨   ∃ d, r = Reg.KVX_DEST_CFG d ∧ s.get r KVX_DEST_CFG.ENABLE = 1 ∧ KVX_DEST_CFG.ENABLE.get x.val = 1)) ∧
    (let s := idleSt
     let x : RegWrite := wr8 .reeve (.THR_PORT_CFG 17) 1
     let r : Reg := .THR_PORT_CFG 17
     let hw : List HwUpdate := [.leavesIdle (BitVec.ofNat 26 (Reg.off (.THR_PORT_CFG 17)))]
     let il := r.bits [FTy.il]
     (x.off.toNat = r.off ∧ x.size = 8 ∧ s.isOut 4 = false ∧ s.hostGone x.master = false ∧ Reg.ofOff r.off = some r ∧ s.writeRight x.master r.off = eOk ∧ s.noFunc r = false ∧ (hw = [] ∧ s.ilKept r r.off 8 = il ∧ il ≠ 0 ∨ hw = [HwUpdate.leavesIdle x.off] ∧ il ≠ 0) ∧ s.writeErr x.master r (regNew r (s.stored r) x.val &&& ~~~il ||| s.stored r &&& il) = eOk) ∧
     ((match r with     | Reg.PWR_CTRL => true     | Reg.MGMT_ALERT => true     | Reg.MGMT_ALERT_EN => true     | Reg.PERF_CTL => true     | Reg.PERF_FUNC => true     | Reg.PERF_BW_CFG => true     | Reg.ERR_HOST => true     | Reg.PERF_CFG u i => true     | Reg.PERF_VALUE u i => true     | Reg.THR_PORT_CFG p => true     | Reg.VAT_LANE_REMAP v => true     | Reg.REEVE_VARIANT_CFG x => true     | Reg.KVX_PORT_NET x => true     | x => false) =     true ∨   ∃ d, r = Reg.KVX_DEST_CFG d ∧ s.get r KVX_DEST_CFG.ENABLE = 1 ∧ KVX_DEST_CFG.ENABLE.get x.val = 1)) ∧
    (let s := alertSt
     let x : RegWrite := wr8 .mgmt .MGMT_ALERT 4
     let r : Reg := .MGMT_ALERT
     (x.off.toNat = r.off ∧ x.size = 8 ∧ r = Reg.MGMT_ALERT) ∧
     Writes s x.master r x.val) ∧
    (let s := idleSt
     let x : RegWrite := wr8 .reeve (.HBM_ECC 5) (2 ^ 63)
     let r : Reg := .HBM_ECC 5
     let h : Nat := 5
     (x.off.toNat = r.off ∧ x.size = 8 ∧ r = Reg.HBM_ECC h ∧ HBM_ECC.CLEAR.get x.val = 1) ∧
     Writes s x.master r x.val) ∧
    (let s := idleSt
     let x : RegWrite := wr8 (.host 0) .PERF_BW_CFG 1
     let r : Reg := .PERF_BW_CFG
     (x.off.toNat = r.off ∧ x.size = 8 ∧ r = Reg.PERF_BW_CFG) ∧
     Writes s x.master r x.val) ∧
    (let s := sets idleSt [(.ERR_DEGRADED, ERR_DEGRADED.OUT, 16)]
     let x : RegWrite := wr8 .mgmt .PWR_CTRL 105
     s.hostGone x.master = false ∧ accessOk x.master x.off.toNat x.size = true ∧ s.isOut 4 = true) ∧
    (let s := bootSt 6 none
     let x : RegWrite := wr8 .mgmt .PWR_CTRL 100
     x.size = 8 ∧ x.off.toNat % 8 = 0 ∧ s.isOut 4 = false ∧ s.hostGone x.master = false ∧ aliasOf x.off.toNat = x.off.toNat ∧ s.writeRight x.master x.off.toNat = eCfgLocked) ∧
    (let s := idleSt
     let x : RegWrite := { wr8 .mgmt .PWR_CTRL 100 with off := 0x3FFFFF8 }
     x.size = 8 ∧ x.off.toNat % 8 = 0 ∧ s.isOut 4 = false ∧ s.hostGone x.master = false ∧ aliasOf x.off.toNat = x.off.toNat ∧ Reg.ofOff x.off.toNat = none ∧ s.writeRight x.master x.off.toNat = eOk) ∧
    (let s := idleSt
     let x : RegWrite := wr8 .mgmt .PWR_CTRL 106
     let r : Reg := .PWR_CTRL
     let kept := s.ilKept r r.off 8
     let e := s.writeErr x.master r (regNew r (s.stored r) x.val &&& ~~~kept ||| s.stored r &&& kept)
     x.size = 8 ∧ x.off.toNat % 8 = 0 ∧ s.isOut 4 = false ∧ s.hostGone x.master = false ∧ aliasOf x.off.toNat = x.off.toNat ∧ x.off.toNat = r.off ∧ x.size = 8 ∧ Reg.ofOff r.off = some r ∧ s.writeRight x.master r.off = eOk ∧ s.noFunc r = false ∧ e ≠ eOk) ∧
    (let code : Nat := 255
     let off : Nat := 2 ^ 26 - 1
     code < 256 ∧ code ≠ eOk ∧ off < 2 ^ 26) ∧
    (let s := idleSt
     let x : RegWrite := wr8 .mgmt .PWR_CTRL 105
     let y : RegWrite := wr8 (.host 0) .PWR_CTRL 85
     (x.master = Master.mgmt ∧ y.master = Master.host 0 ∧ x.off.toNat = Reg.PWR_CTRL.off ∧ x.size = 8 ∧ y.off.toNat = Reg.PWR_CTRL.off ∧ y.size = 8) ∧
     Writes s Master.mgmt Reg.PWR_CTRL x.val ∧
     Writes s (Master.host 0) Reg.PWR_CTRL y.val) ∧
    (let s := idleSt
     let x : RegWrite := wr8 .mgmt .PWR_CTRL 105
     let y : RegWrite := wr8 (.host 0) .PERF_FUNC 85
     (x.master = Master.mgmt ∧ y.master = Master.host 0 ∧ x.off.toNat = Reg.PWR_CTRL.off ∧ x.size = 8 ∧ y.off.toNat = Reg.PERF_FUNC.off ∧ y.size = 8) ∧
     Writes s Master.mgmt Reg.PWR_CTRL x.val ∧
     Writes s (Master.host 0) Reg.PERF_FUNC y.val) ∧
    (let r : Reg := .PWR_CTRL
     let b : Block := ((Block.ofOff (Reg.off .PWR_CTRL)).getD (.glb, 0)).1
     let i : Nat := ((Block.ofOff (Reg.off .PWR_CTRL)).getD (.glb, 0)).2
     Reg.ofOff r.off = some r ∧ Block.ofOff r.off = some (b, i) ∧ aliasOf r.off = r.off ∧ r.off % 8 = 0) :=
  ⟨⟨by decide +kernel, by constructor <;> decide +kernel⟩,
    ⟨by decide +kernel, by constructor <;> decide +kernel⟩,
    ⟨by decide +kernel, by constructor <;> decide +kernel⟩,
    ⟨by decide +kernel, by constructor <;> decide +kernel⟩,
    ⟨by decide +kernel, by constructor <;> decide +kernel⟩,
    ⟨by decide +kernel, by constructor <;> decide +kernel⟩,
    ⟨by decide +kernel, by constructor <;> decide +kernel⟩,
    ⟨by decide +kernel, by constructor <;> decide +kernel⟩,
    ⟨by decide +kernel, by constructor <;> decide +kernel⟩,
    ⟨by decide +kernel, by constructor <;> decide +kernel⟩,
    ⟨by decide +kernel, by constructor <;> decide +kernel⟩,
    ⟨by decide +kernel, by constructor <;> decide +kernel⟩,
    ⟨by decide +kernel, by constructor <;> decide +kernel⟩,
    ⟨by decide +kernel, .inl rfl⟩,
    ⟨by decide +kernel, .inr ⟨255, by decide +kernel⟩⟩,
    ⟨by decide +kernel, .inl rfl⟩,
    ⟨by decide +kernel, by constructor <;> decide +kernel⟩,
    ⟨by decide +kernel, by constructor <;> decide +kernel⟩,
    ⟨by decide +kernel, by constructor <;> decide +kernel⟩,
    by decide +kernel,
    by decide +kernel,
    by decide +kernel,
    by decide +kernel,
    by decide +kernel,
    ⟨by decide +kernel, by constructor <;> decide +kernel, by constructor <;> decide +kernel⟩,
    ⟨by decide +kernel, by constructor <;> decide +kernel, by constructor <;> decide +kernel⟩,
    by decide +kernel⟩

theorem witness_CountersRun :
    (let s := up
     let m : Master := .host 0
     let val : W64 := 0x100000001
     s.get Reg.PERF_DUMP_CFG PERF_DUMP_CFG.EN = 0 ∧
     Writes s m Reg.PERF_DUMP_CFG (withBit PERF_DUMP_CFG.EN val true)) ∧
    (let s := up
     let m : Master := .host 0
     let val : W64 := 0x100000001
     Writes s m Reg.PERF_TRACE_CFG (withBit PERF_TRACE_CFG.EN val true)) ∧
    (let s := perfSt
     s.get Reg.PERF_DUMP_CFG PERF_DUMP_CFG.EN = 1) ∧
    (let s := perfSt
     let u : Fin 16 := 15
     let i : Fin 16 := 15
     let time : Nat := 77
     let cands : List (Nat × Nat) := [(5, 3), (9, 1)]
     List.find? (fun y ↦ decide (y.fst = (↑i : Nat))) (s.vat (↑u : Nat)).samples = some ((↑i : Nat), time, cands) ∧ cands ≠ []) ∧
    (let s := frozenSt
     s.get Reg.PERF_CTL PERF_CTL.FREEZE = 1) ∧
    (let s := perfSt
     s.get Reg.PERF_CTL PERF_CTL.FREEZE = 0) ∧
    (let s := countedSt
     let m : Master := .reeve
     Writes s m Reg.GLB_DNET_ERR GLB_DNET_ERR.CLEAR.mask) ∧
    (let s := countedSt
     let m : Master := .reeve
     let v : VatId := 0
     Writes s m (Reg.VAT_CHK_STAT (↑v : Nat)) VAT_CHK_STAT.CLEAR.mask) ∧
    (let s := countedSt
     let m : Master := .reeve
     let v : VatId := 0
     Writes s m (Reg.VAT_ECC_STAT (↑v : Nat)) VAT_ECC_STAT.CLEAR.mask) ∧
    (let s := countedSt
     let m : Master := .reeve
     let v : VatId := 0
     Writes s m (Reg.CELLAR_ERR_STAT (↑v : Nat)) CELLAR_ERR_STAT.CLEAR.mask) ∧
    (let s := countedSt
     let m : Master := .reeve
     let v : VatId := 0
     Writes s m (Reg.SKIM_STAT (↑v : Nat)) SKIM_STAT.CLEAR.mask) ∧
    (let s := countedSt
     let m : Master := .host 0
     Writes s m Reg.KVX_STAT KVX_STAT.CLEAR.mask) ∧
    (let s := countedSt
     let m : Master := .host 0
     Writes s m Reg.PFX_STAT PFX_STAT.CLEAR.mask) ∧
    (let s := countedSt
     let m : Master := .host 0
     Writes s m Reg.PFX_SPILL_STAT PFX_SPILL_STAT.CLEAR.mask) ∧
    (let s := countedSt
     let m : Master := .reeve
     let p : PortId := 17
     Writes s m (Reg.THR_PORT_ERR (↑p : Nat)) THR_PORT_ERR.CLEAR.mask) ∧
    (let s := countedSt
     let m : Master := .reeve
     Writes s m Reg.SHEAF_STAT SHEAF_STAT.CLEAR.mask) ∧
    (let s := countedSt
     let m : Master := .host 0
     let h : StackId := 5
     Writes s m (Reg.HBM_ECC (↑h : Nat)) HBM_ECC.CLEAR.mask) ∧
    (let s := countedSt
     let m : Master := .host 63
     let f : FuncId := 63
     Writes s m (Reg.HOST_ACC (↑f : Nat)) HOST_ACC.VALID.mask) ∧
    (let s := countedSt
     let m : Master := .host 0
     Writes s m Reg.PWR_STAT PWR_STAT.CLEAR.mask) :=
  by
  and_intros <;> first | decide +kernel | (constructor <;> decide +kernel)

theorem witness_UnitsAreLost :
    (let s := sets vat [(.ERR_DEGRADED, ERR_DEGRADED.OUT, 32)]
     let u : OutUnit := .alwaysOn
     s.isOut (outBit u) = true) ∧
    (let s := withReq vat (req0 qsPrefill)
     let u : OutUnit := .kvx
     s.isOut (outBit u) = false) ∧
    (let s := withReq vat (req0 qsPrefill)
     let u : OutUnit := .regBus
     s.isOut (outBit u) = false) :=
  by
  and_intros <;> first | decide +kernel | (constructor <;> decide +kernel)

theorem witness_ExpertsRoute :
    (let l : List (Nat × W32) := [(65534, 1), (0, 0x3F800000)]
     l.length ≤ 8 ∧ (∀ (x : Nat × W32), x ∈ l → x.fst < 65535)) ∧
    (let g : List W32 := [0x7F800000, 0x7FC00000, 0x3F800000, 0xFF800000]
     g.length < 2 ^ 32) ∧
    (let n : Nat := 3
     n ≠ 0) ∧
    (let x : W32 × W32 := (1, 2)
     let l : List (W32 × W32) := []
     let a : W32 := 0
     routeSum (x :: l) = some a) :=
  by
  and_intros <;> first | decide +kernel | (constructor <;> decide +kernel)

end Sys2Proof.Tests
end

/-! The invariant of the machine (Safety.lean): every command keeps the queue behind it and the canonical form of the
tables (`exec_good`), so a step keeps `Inv`. -/

namespace Sys2Proof.Machine

/-- Where the answer is a next state, its queue is `P` and its tables are canonical. -/
def GoodNext (P : List Instr) (o : Host.Outcome State Fault Refusal) : Prop := ∀ t, o = .next t → Good P t

theorem GoodNext.next {P : List Instr} {t : State} (h : Good P t) : GoodNext P (.next t) := by
  rintro _ ⟨⟩
  exact h

theorem GoodNext.fault {P : List Instr} (f : Fault) : GoodNext P (.fault f) := fun _ e => nomatch e

theorem GoodNext.ite {P : List Instr} {c : Prop} [Decidable c] {a b : Host.Outcome State Fault Refusal}
    (ha : GoodNext P a) (hb : GoodNext P b) : GoodNext P (if c then a else b) := by split <;> assumption

/-! The commands that act only where the state knows the operation, request or packet they name. -/

section
variable {P : List Instr} {s : State} (h : Good P s)
include h

theorem execGo_good (hd : ShHead) : GoodNext P (execGo hd s) := by
  unfold execGo
  refine .next ?_
  split
  · exact .ite (State.shStart_good h ..) h
  · exact h

theorem execMismatch_good (hd : ShHead) : GoodNext P (execMismatch hd s) := by
  unfold execMismatch
  refine .next ?_
  split
  · exact .ite (State.shEnd_good h ..) h
  · exact h

theorem execSheafCommit_good (hd : ShHead) (flags : BitVec 4) : GoodNext P (execSheafCommit hd flags s) := by
  unfold execSheafCommit
  refine .next ?_
  split
  · exact State.shEnd_good h ..
  · exact h

theorem execStepDeadline_good (d : SheafId) : GoodNext P (execStepDeadline d s) := by
  unfold execStepDeadline
  refine .next ?_
  split
  · exact .ite (State.shStop_good h ..) h
  · exact h

theorem execDoneTimeout_good (d : SheafId) : GoodNext P (execDoneTimeout d s) := by
  unfold execDoneTimeout
  refine .next ?_
  split
  · exact .ite (State.shEnd_good h ..) h
  · exact h

theorem execPauseReq_good (hd : ShHead) : GoodNext P (execPauseReq hd s) := by
  unfold execPauseReq
  refine .next ?_
  split
  · exact .ite (State.shPauseBy_good h ..) h
  · exact h

theorem execSheafPause_good (hd : ShHead) : GoodNext P (execSheafPause hd s) := by
  unfold execSheafPause
  refine .next ?_
  split
  · exact State.shSet_good h _
  · exact h

theorem execResumeReq_good (hd : ShHead) : GoodNext P (execResumeReq hd s) := by
  unfold execResumeReq
  refine .next ?_
  split
  · exact .ite (State.shResumeBy_good h ..) h
  · exact h

theorem execSheafResume_good (hd : ShHead) : GoodNext P (execSheafResume hd s) := by
  unfold execSheafResume
  refine .next ?_
  split
  · exact .ite (State.shResume_good h ..) h
  · exact h

theorem execSpillExpiry_good (r : ReqId) : GoodNext P (execSpillExpiry r s) := by
  unfold execSpillExpiry
  refine .next ?_
  split
  · exact .ite (State.setReq_good h ..) h
  · exact h

theorem execSpecCompactionDone_good (r : ReqId) : GoodNext P (execSpecCompactionDone r s) := by
  unfold execSpecCompactionDone
  refine .next ?_
  split
  · exact .ite (State.setReq_good h ..) h
  · exact h

theorem execRegRsp_good : GoodNext P (execRegRsp s) := by
  unfold execRegRsp
  split
  · exact .next h
  · exact .next (State.send_good (.lit rfl rfl rfl rfl rfl rfl rfl rfl rfl rfl h) _)

theorem execCreditWrite_good (src : CreditSrc) (d : DestId) (val : W64) : GoodNext P (execCreditWrite src d val s) := by
  cases src with
  | bus m => exact .next (State.write_good h ..)
  | fabric module => exact .next (State.creditFabric_good h ..)

/-- Every command keeps the queue behind it and the canonical form of the tables. -/
theorem exec_good (i : Instr) : GoodNext P (exec i s) := by
  cases i with
  | tile => exact .next (State.issue_good h _ _ _ _ _ fun _ _ h => State.tileInsn_good h ..)
  | segmentVerdict => exact .next (State.segment_good h ..)
  | mould => exact .next (State.issue_good h _ _ _ _ _ fun _ _ h => State.mouldInsn_good h ..)
  | press => exact .next (State.issue_good h _ _ _ _ _ fun _ _ h => State.pressInsn_good h ..)
  | drain => exact .next (State.issue_good h _ _ _ _ _ fun _ _ h => State.drainInsn_good h ..)
  | drainFill => exact .next (State.issue_good h _ _ _ _ _ fun _ _ h => State.fillInsn_good h ..)
  | attn => exact .next (State.issue_good h _ _ _ _ _ fun _ _ h => State.attnInsn_good h ..)
  | rind => exact .next (State.issue_good h _ _ _ _ _ fun _ _ h => State.rindInsn_good h ..)
  | skim => exact .next (State.issue_good h _ _ _ _ _ fun _ _ h => State.skimInsn_good h ..)
  | wagon => exact .next (State.issue_good h _ _ _ _ _ fun _ _ h => State.wagonInsn_good h ..)
  | semw => exact .next (State.issue_good h _ _ _ _ _ fun _ _ h => State.semw_good h ..)
  | semp => exact .next (State.issue_good h _ _ _ _ _ fun _ _ h => State.semp_good h ..)
  | fence => exact .next (State.issue_good h _ _ _ _ _ fun _ _ h => State.fence_good h ..)
  | loop => exact .next (State.issue_good h _ _ _ _ _ fun _ _ h => State.loop_good h ..)
  | endl => exact .next (State.issue_good h _ _ _ _ _ fun _ _ h => State.endl_good h ..)
  | brc => exact .next (State.issue_good h _ _ _ _ _ fun _ _ h => State.brc_good h ..)
  | tick => exact .next (State.issue_good h _ _ _ _ _ fun _ _ h => State.tick_good h ..)
  | halt => exact .next (State.issue_good h _ _ _ _ _ fun _ _ h => State.haltIssue_good h ..)
  | flags => exact .next (State.issue_good h _ _ _ _ _ fun _ _ h => State.flagsInsn_good h ..)
  | seed => exact .next (State.issue_good h _ _ _ _ _ fun _ _ h => State.seedInsn_good h ..)
  | contextSwitch => exact .next (State.contextSwitch_good h ..)
  | ctxStart => exact .next (State.write_good h ..)
  | ctxPause => exact .next (State.write_good h ..)
  | ctxPauseEffect => exact .next (State.pauseEffect_good h ..)
  | ctxResume => exact .next (State.write_good h ..)
  | ctxAbort => exact .next (State.write_good h ..)
  | ctxAbortEffect => exact .next (State.abortEffect_good h ..)
  | semaphoreCycle => exact .next (State.semCycle_good h ..)
  | remotePost => exact .next (.ite (State.dnetArrive_good h ..) h)
  | semWrite => exact .next (State.write_good h ..)
  | arrivalWrite => exact .next (State.write_good h ..)
  | vatZeroingDone => exact .next (State.zeroingDone_good h ..)
  | batchHeaderFetch => exact .next (State.headerFetch_good h ..)
  | descriptorHead => exact .next (State.descHead_good h ..)
  | descriptorStart => exact .next (State.descStart_good h ..)
  | descriptorComplete => exact .next (State.descComplete_good h ..)
  | chunkGrant => exact .next (State.chunkGrant_good h ..)
  | tagTimeout => exact .next (State.tagTimeout_good h ..)
  | streamReset => exact .next (State.write_good h ..)
  | streamWaitLate => exact .next (State.waitLate_good h ..)
  | deadlineMiss => exact .next (State.deadlineMiss_good h ..)
  | dnetPacketArrival => exact .next (State.dnetArrive_good h ..)
  | bankCopyDone => exact .next (State.bankCopyDone_good h ..)
  | dirtyScrubDone => exact .next (.ite (State.scrubDone_good h ..) h)
  | backgroundScrub => exact .next (.ite (State.eccRow_good h ..) h)
  | groupPowerOn => exact .next (.ite (State.pwrBit_good h ..) h)
  | groupPowerOff => exact .next (.ite (State.pwrBit_good h ..) h)
  | groupClockStart => exact .next (State.clockStart_good h ..)
  | groupCloseDone => exact .next (.ite (State.groupOff_good h ..) h)
  | doorbell => exact .next (State.doorbell_good h ..)
  | ringEnable => exact .next (State.write_good h ..)
  | ringDisable => exact .next (State.write_good h ..)
  | ringNop => exact .next (State.ringKind_good h _ _ _ fun _ _ h => h)
  | ringEntrySkipped => exact .next (State.ringKind_good h _ _ _ fun _ _ h => State.log_good h _)
  | submit => exact .next (State.ringKind_good h _ _ _ fun _ _ h => State.submit_good h ..)
  | cancel =>
    exact .next (State.ringKind_good h _ _ _ fun _ _ h => State.command_good h _ _ _ fun _ _ _ h =>
      State.complete_good (State.cancelReq_good h _) ..)
  | pause =>
    exact .next (State.ringKind_good h _ _ _ fun _ _ h => State.command_good h _ _ _ fun _ _ _ h =>
      State.pauseReq_good h ..)
  | pauseEffect => exact .next (State.reqPaused_good h ..)
  | resume =>
    exact .next (State.ringKind_good h _ _ _ fun _ _ h => State.command_good h _ _ _ fun _ _ _ h =>
      State.resumeReq_good h ..)
  | restoreDone => exact .next (State.restored_good h ..)
  | packWaitExpiry => exact .next (State.packWait_good h ..)
  | passStart => exact .next (State.passStart_good h ..)
  | passCommit => exact .next (State.passCommit_good h ..)
  | pfxInsertDone => exact .next (State.pfxDone_good h ..)
  | preemption => exact .next (State.preempt_good h ..)
  | spill => exact .next (State.spillReq_good h ..)
  | spillWriteDone => exact .next (State.spillDone_good h ..)
  | spillExpiry => exact execSpillExpiry_good h _
  | budgetRefill => exact .next (.foldl h fun _ _ h => State.refill_good h _)
  | dutyEvaluation => exact .next (.foldl h fun _ _ h => State.evalGroup_good h ..)
  | heartbeat => exact .next (.ite (State.put_good h ..) h)
  | requestRerun => exact .next (State.rerunPart_good h ..)
  | vatSubstitution => exact .next (State.substitute_good h ..)
  | tailStepStart => exact .next (State.tailStart_good h ..)
  | tokenSelect => exact .next (State.tokenSelect_good h ..)
  | specCompactionDone => exact execSpecCompactionDone_good h _
  | tailStepCommit => exact .next (State.tailCommit_good h ..)
  | mboxQuery => exact .next (State.mbox_good h _ _ fun _ h => State.mboxQuery_good h)
  | mboxVersion => exact .next (State.mbox_good h _ _ fun _ h => State.mboxVersion_good h)
  | mboxStats => exact .next (State.mbox_good h _ _ fun _ h => State.mboxStats_good h)
  | mboxBudgetAdjust => exact .next (State.mbox_good h _ _ fun _ h => State.mboxBudget_good h)
  | mboxCancelFunction => exact .next (State.mbox_good h _ _ fun _ h => State.mboxCancel_good h)
  | gramEnable => exact .next (State.write_good h ..)
  | gramDisable => exact .next (State.write_good h ..)
  | kvxRecordSend => exact .next (State.recordSend_good h ..)
  | creditWrite => exact execCreditWrite_good h _ _ _
  | creditTimeout => exact .next (State.creditTimeout_good h ..)
  | destEnable => exact .next (State.write_good h ..)
  | destDisable => exact .next (State.write_good h ..)
  | roceAck => exact .next (.ite (State.psnAcked_good h ..) h)
  | roceNak => exact .next (State.roceNak_good h ..)
  | roceAckTimeout => exact .next (.ite (State.roceRetry_good h ..) h)
  | cnpReceive => exact .next (State.cnp_good h ..)
  | rateStep => exact .next (State.rateStep_good h ..)
  | roceRequestIn => exact .next (.ite (State.bump_good h ..) h)
  | ctrlRingBreak => exact .next (State.ringBreak_good h ..)
  | memWrite => exact .ite (.next (State.memWrite_good h ..)) (.fault _)
  | winWrite => exact .ite (.next (State.winWrite_good h ..)) (.fault _)
  | getReq => exact .ite (.next (State.getReq_good h ..)) (.fault _)
  | getData => exact .ite (.next (State.getData_good h ..)) (.fault _)
  | fabricAck => exact .ite (.next (State.fabricAck_good h ..)) (.fault _)
  | fabricNak => exact .ite (.next (State.nakIn_good h ..)) (.fault _)
  | getReissue => exact .next (State.getReissue_good h ..)
  | regPacket => exact .ite (.next (State.regPacket_good h ..)) (.fault _)
  | regRsp => exact execRegRsp_good h
  | tsync => exact .next (State.tsync_good h ..)
  | tsyncExchange => exact .next (State.tsyncExchange_good h)
  | timeHoldover => exact .next (.ite (State.setTimeSt_good h ..) h)
  | frameReceive => exact .ite (.next (State.frame_good h ..)) (.fault _)
  | portRetrain => exact .next (State.portRetrain_good h ..)
  | linkTrainingDone => exact .next (State.trainDone_good h ..)
  | spareTakeover => exact .next (State.takeover_good h ..)
  | portRetryTrain => exact .next (State.retryTrain_good h ..)
  | rampStep => exact .next (State.rampStep_good h ..)
  | spareChannelReturn => exact .next (State.channelReturn_good h ..)
  | windowCloseDone => exact .next (.ite (State.closeWindow_good h ..) h)
  | bseqGrant => exact .next (.ite (.lit rfl rfl rfl rfl rfl rfl rfl rfl rfl rfl h) h)
  | bseqTimeout => exact .next (.ite (.lit rfl rfl rfl rfl rfl rfl rfl rfl rfl rfl h) h)
  | bpresLoss => exact .next (State.bpresLoss_good h ..)
  | sheafLaunch => exact .next (State.shLaunch_good h ..)
  | sheafOpStart => exact .next (State.shOpStart_good h ..)
  | hello => exact .next (State.shHelloIn_good h ..)
  | go => exact execGo_good h _
  | mismatch => exact execMismatch_good h _
  | sheafData => exact .next (State.shData_good h ..)
  | chunkAck => exact .next (State.shAck_good h ..)
  | chunkNak => exact .next (State.shNak_good h ..)
  | sheafDone => exact .next (State.shDoneIn_good h ..)
  | sheafCommit => exact execSheafCommit_good h _ _
  | sheafAbort => exact .next (State.shAbortIn_good h ..)
  | stepDeadline => exact execStepDeadline_good h _
  | doneTimeout => exact execDoneTimeout_good h _
  | pauseReq => exact execPauseReq_good h _
  | sheafPause => exact execSheafPause_good h _
  | resumeReq => exact execResumeReq_good h _
  | sheafResume => exact execSheafResume_good h _
  | inputPowerUp => exact .next (.ite (.lit rfl rfl rfl rfl rfl rfl rfl rfl rfl rfl h) h)
  | powerGood => exact .next (State.powerGood_good h ..)
  | fuseReadDone => exact .next (State.fuseRead_good h ..)
  | imageCheckDone => exact .next (State.imageCheck_good h ..)
  | layoutApply => exact .next (State.layoutApply_good h ..)
  | release => exact .next (State.release4_good h _)
  | phaseLimitExpiry => exact .next (.ite (State.layoutFail_good h) (.ite (State.resetReq_good h ..) h))
  | mrstNAssert => exact .next (State.resetReq_good (.lit rfl rfl rfl rfl rfl rfl rfl rfl rfl rfl h) ..)
  | mrstNRelease => exact .next (State.enterP1_good (.lit rfl rfl rfl rfl rfl rfl rfl rfl rfl rfl h))
  | wdtKick => exact .next (State.write_good h ..)
  | wdtExpiry => exact .next (State.wdtExpiry_good h)
  | lockstepMismatch => exact .next (.ite (State.reeveReset_good h ..) h)
  | secViolation => exact .next (State.resetReq_good h ..)
  | inputExcursion => exact .next (State.excursion_good h ..)
  | powerEvaluation => exact .ite (.next (State.evaluate_good h ..)) (.fault _)
  | calibration => exact .ite (.next (State.calibrate_good h ..)) (.fault _)
  | fixedFloorUpdate => exact .next (State.put_good h ..)
  | thermalSample => exact .ite (.next (State.thermal_good h ..)) (.fault _)
  | thermalStep => exact .next (State.thermStep_good h)
  | thermTrip => exact .next (State.trip_good h)
  | droopStretch => exact .next (.ite h (State.bump_good (.lit rfl rfl rfl rfl rfl rfl rfl rfl rfl rfl h) ..))
  | droopEnd => exact .next (.lit rfl rfl rfl rfl rfl rfl rfl rfl rfl rfl h)
  | cmdResetSystem => exact .next (State.cmdReset_good h ..)
  | cmdResetCore => exact .next (State.cmdReset_good h ..)
  | cmdResetPartition => exact .next (State.cmdPartReset_good h ..)
  | relayout => exact .next (State.secRow_good h _ _ _ _ fun _ _ h => State.relayoutCmd_good h ..)
  | relayoutApply => exact .next (State.relayoutApply_good h ..)
  | keyChangeSlot => exact .next (State.secRow_good h _ _ _ _ fun _ _ h => State.keySlot_good h _)
  | keyChangeTenant => exact .next (State.secRow_good h _ _ _ _ fun _ _ h => State.keyTenant_good h _)
  | enrolment => exact .next (State.secRow_good h _ _ _ _ fun _ b h =>
      State.setKey_good h 0 (some (cbArgBytes b 8 32)) 65535 7)
  | powerCap => exact .next (State.secRow_good h _ _ _ _ fun _ _ h => State.powerCap_good h _)
  | fwUpdate => exact .next (State.secRow_good h _ _ _ _ fun _ _ h => State.fwUpdate_good h _)
  | windowOpen => exact .next (State.secRow_good h _ _ _ _ fun _ _ h => State.windowOpen_good h _)
  | windowClose => exact .next (State.secRow_good h _ _ _ _ fun _ _ h => State.windowShut_good h _)
  | partKill => exact .next (State.secRow_good h _ _ _ _ fun _ _ h => State.partKillCmd_good h _)
  | partReadmit => exact .next (State.readmit_good h ..)
  | counterRecordWrite => exact .next (State.recordWrite_good h)
  | authThrottleEnd => exact .next (State.throttleEnd_good h ..)
  | hbmPatrolScrub => exact .next (State.patrol_good h ..)
  | hbmPcCopyDone => exact .next (.ite (State.logDone_good (State.put_good h ..) ..) h)
  | flr => exact .next (.ite (State.flr_good h ..) h)
  | hotReset => exact .next (State.hotReset_good h)
  | bar2Read => exact .ite (.next (.ite (State.bar2Read_good h ..) h)) (.fault _)
  | bar2Write => exact .ite (.next (.ite (State.bar2Write_good h ..) h)) (.fault _)
  | smbusRegRead => exact .next (State.smbus_good h _ _ fun _ h => State.smbusRead_good h _)
  | smbusRegWrite => exact .next (State.smbus_good h _ _ fun _ h => State.smbusWrite_good h _)
  | smbusStatus => exact .next (State.smbus_good h _ _ fun _ h => State.emit_good h _)
  | smbusIdent => exact .next (State.smbus_good h _ _ fun _ h => State.emit_good h _)
  | alertResponse => exact .next (State.smbus_good h _ _ fun _ h => State.emit_good h _)
  | tapRegacc => exact .next (State.regacc_good h ..)
  | tapUnlock => exact .ite (.next (State.unlock_good h ..)) (.fault _)
  | tapRelock => exact .next (.lit rfl rfl rfl rfl rfl rfl rfl rfl rfl rfl h)
  | dumpEnable => exact .next (State.write_good h ..)
  | dumpSnapshot => exact .next (State.snapshot_good h ..)
  | traceEnable => exact .next (State.write_good h ..)
  | perfSample => exact .next (State.takeSample_good h ..)
  | bwWindowEnd => exact .next (State.windowEnd_good h)
  | dnetErrClear => exact .next (State.write_good h ..)
  | chkStatClear => exact .next (State.write_good h ..)
  | eccStatClear => exact .next (State.write_good h ..)
  | cellarErrClear => exact .next (State.write_good h ..)
  | skimStatClear => exact .next (State.write_good h ..)
  | kvxStatClear => exact .next (State.write_good h ..)
  | pfxStatClear => exact .next (.ite (State.write_good h ..) (State.write_good h ..))
  | thrPortErrClear => exact .next (State.write_good h ..)
  | sheafStatClear => exact .next (State.write_good h ..)
  | pwrStatClear => exact .next (State.write_good h ..)
  | hbmEccClear => exact .next (State.write_good h ..)
  | hostAccClear => exact .next (State.write_good h ..)
  | registerWrite => exact .ite (.next (State.busCycle_good h ..)) (.fault _)
  | illegalOpcode => exact .next (State.badFetch_good h ..)
  | smbusTimeout => exact .next (.ite h (State.bump_good h ..))
  | pcieLinkUp => exact .next (.ite (State.linkUp_good h ..) h)
  | configurationRequest => exact .next (State.config_good h ..)
  | rnrTimerExpiry => exact .next (State.rnrExpiry_good h ..)
  | pfcPauseFrame => exact .next (State.pfc_good h ..)
  | coalescedInterruptDue => exact .next (State.msiDue_good h ..)

/-- A cycle of time keeps them too. -/
theorem State.idle_good : Good P s.idle :=
  State.linkTick_good (State.layerTick_good (.lit rfl rfl rfl rfl rfl rfl rfl rfl rfl rfl (State.wr_good h ..)))

end

theorem inv_iff_good (s : State) : Inv s ↔ (∀ c ∈ s.pending, c.wf = true) ∧ Good s.pending s :=
  and_congr_right fun _ =>
    ⟨fun h => ⟨rfl, h.regs, h.live, h.mem, h.poison, h.host, h.flash, h.sram, h.prog, h.curd⟩,
      fun h => ⟨h.regs, h.live, h.mem, h.poison, h.host, h.flash, h.sram, h.prog, h.curd⟩⟩

theorem inv_of_good {P : List Instr} {t : State} (hP : ∀ c ∈ P, c.wf = true) (h : Good P t) : Inv t := by
  obtain rfl := h.pend
  exact (inv_iff_good t).2 ⟨hP, h⟩

/-- The queue and every table of the reset state are empty. -/
theorem State.reset_good : Good [] State.reset :=
  ⟨rfl, rfl, rfl, rfl, rfl, rfl, rfl, rfl, rfl, rfl⟩

/-- Settles O2. -/
theorem resetInv : Obligations.ResetInv := inv_of_good (by simp) State.reset_good

/-- Settles O3: the front command leaves the queue by itself, and `exec_good` speaks of the rest. -/
theorem stepKeepsInv : Obligations.StepKeepsInv := by
  intro s t hs ht
  obtain ⟨hwf, hgood⟩ := (inv_iff_good s).1 hs
  unfold step at ht
  split at ht
  · next c rest hq =>
    have hrest : Good rest { s with pending := rest } := { hgood with pend := rfl }
    rw [hq] at hwf
    exact inv_of_good (fun d hd => hwf d (List.mem_cons_of_mem _ hd)) (exec_good hrest c t ht)
  · cases ht
    exact inv_of_good hwf (State.idle_good hgood)

end Sys2Proof.Machine

/-! What a write of one whole register does to its fields (R4), and what the bus makes of it (R6, R7, R571, R580 to
R585). -/

namespace Sys2Proof.Machine

/-! The fields of a register. -/

theorem Reg.flds_lt (r : Reg) : ∀ f ∈ r.flds, f.hi < 64 := by
  cases r <;> exact of_decide_eq_true rfl

theorem Reg.flds_apart (r : Reg) : r.flds.Pairwise fun f g => f.hi < g.lo ∨ g.hi < f.lo := by
  cases r <;> exact of_decide_eq_true rfl

theorem Reg.off_mod_eight (r : Reg) : r.off % 8 = 0 := by
  cases r <;> simp only [Reg.off] <;> omega

/-- A field's value depends on its own bits only. -/
theorem Fld.get_congr {f : Fld} {a b : W64} (h : ∀ i, f.lo ≤ i → i ≤ f.hi → a.getLsbD i = b.getLsbD i) :
    f.get a = f.get b := by
  apply Nat.eq_of_testBit_eq
  intro i
  rw [Fld.testBit_get, Fld.testBit_get]
  by_cases hi : i < f.width
  · have : f.lo + i ≤ f.hi := by simp only [Fld.width] at hi; omega
    rw [h _ (by omega) this]
  · simp [hi]

theorem getLsbD_foldl_mask (tys : List FTy) (l : List Fld) (w : W64) (i : Nat) (hi : i < 64) :
    (l.foldl (fun w f => if tys.contains f.ty then w ||| f.mask else w) w).getLsbD i =
      (w.getLsbD i || l.any fun f => tys.contains f.ty && decide (f.lo ≤ i ∧ i < f.lo + f.width)) := by
  induction l generalizing w with
  | nil => simp
  | cons f l ih =>
    rw [List.foldl_cons, ih, List.any_cons]
    cases tys.contains f.ty <;> simp [Fld.getLsbD_mask f i hi, Bool.or_assoc]

/-- Of fields that lie apart only one holds bit `i`. -/
theorem eq_of_common_bit {l : List Fld} (hl : l.Pairwise fun f g => f.hi < g.lo ∨ g.hi < f.lo) {f g : Fld} (hf : f ∈ l)
    (hg : g ∈ l) {i : Nat} (hfl : f.lo ≤ i) (hfh : i ≤ f.hi) (hgl : g.lo ≤ i) (hgh : i ≤ g.hi) : f = g := by
  induction l with
  | nil => cases hf
  | cons a l ih =>
    obtain ⟨ha, htail⟩ := List.pairwise_cons.1 hl
    rcases List.mem_cons.1 hf with rfl | hf' <;> rcases List.mem_cons.1 hg with rfl | hg'
    · rfl
    · have := ha g hg'
      omega
    · have := ha f hf'
      omega
    · exact ih htail hf' hg'

/-- The bits of `flds` of some types, within one of the fields: all or none of them, by the field's own type. -/
theorem Reg.getLsbD_bits {r : Reg} {f : Fld} (hf : f ∈ r.flds) (tys : List FTy) {i : Nat} (hl : f.lo ≤ i) (hh : i ≤ f.hi) :
    (r.bits tys).getLsbD i = tys.contains f.ty := by
  have h64 : i < 64 := Nat.lt_of_le_of_lt hh (r.flds_lt f hf)
  have only : ∀ g ∈ r.flds, g.lo ≤ i ∧ i < g.lo + g.width → g = f := fun g hg hi =>
    eq_of_common_bit r.flds_apart hg hf hi.1 (by have := hi.2; simp only [Fld.width] at this; omega) hl hh
  rw [Reg.bits, getLsbD_foldl_mask _ _ _ _ h64, Bool.eq_iff_iff]
  simp only [show (0 : W64).getLsbD i = false from BitVec.getLsbD_zero, Bool.false_or, List.any_eq_true, Bool.and_eq_true,
    decide_eq_true_eq]
  constructor
  · rintro ⟨g, hg, hty, hi⟩
    rwa [only g hg hi] at hty
  · intro hty
    exact ⟨f, hf, hty, hl, by simp only [Fld.width]; omega⟩

/-- What a write of `val` leaves in a field that held its part of `old`, by the field's type (R4). -/
def Fld.after (f : Fld) (old val : W64) : Nat :=
  match f.ty with
  | .ro | .wo => f.get old
  | .w1c => f.get (old &&& ~~~val)
  | .w1s => f.get (old ||| val)
  | .rw | .st | .il => f.get val

/-- One bit of `regNew`, within a field: the types of R4 as a formula of the old and the written bit. -/
theorem getLsbD_regNew {r : Reg} {f : Fld} (hf : f ∈ r.flds) (old val : W64) {i : Nat} (hl : f.lo ≤ i) (hh : i ≤ f.hi) :
    (regNew r old val).getLsbD i = match f.ty with
      | .ro | .wo => old.getLsbD i
      | .w1c => old.getLsbD i && !val.getLsbD i
      | .w1s => old.getLsbD i || val.getLsbD i
      | .rw | .st | .il => val.getLsbD i := by
  have h64 : i < 64 := Nat.lt_of_le_of_lt hh (r.flds_lt f hf)
  simp only [regNew, BitVec.getLsbD_or, BitVec.getLsbD_and, BitVec.getLsbD_not, Reg.getLsbD_bits hf _ hl hh, h64]
  cases f.ty <;> simp

theorem get_regNew {r : Reg} {f : Fld} (hf : f ∈ r.flds) (old val : W64) : f.get (regNew r old val) = f.after old val := by
  unfold Fld.after
  cases hty : f.ty <;> refine Fld.get_congr fun i hl hh => ?_ <;>
    simp only [getLsbD_regNew hf old val hl hh, hty, BitVec.getLsbD_or, BitVec.getLsbD_and, BitVec.getLsbD_not,
      Nat.lt_of_le_of_lt hh (r.flds_lt f hf), decide_true, Bool.true_and]

/-- `regNew`, but the IL fields keep what they hold (R6). -/
def regKeepIl (r : Reg) (old val : W64) : W64 := (regNew r old val &&& ~~~r.bits [.il]) ||| (old &&& r.bits [.il])

theorem getLsbD_regKeepIl {r : Reg} {f : Fld} (hf : f ∈ r.flds) (old val : W64) {i : Nat} (hl : f.lo ≤ i) (hh : i ≤ f.hi) :
    (regKeepIl r old val).getLsbD i = if f.ty = .il then old.getLsbD i else (regNew r old val).getLsbD i := by
  have h64 : i < 64 := Nat.lt_of_le_of_lt hh (r.flds_lt f hf)
  simp only [regKeepIl, BitVec.getLsbD_or, BitVec.getLsbD_and, BitVec.getLsbD_not, Reg.getLsbD_bits hf _ hl hh, h64]
  cases f.ty <;> simp

theorem get_regKeepIl {r : Reg} {f : Fld} (hf : f ∈ r.flds) (old val : W64) :
    f.get (regKeepIl r old val) = if f.ty = .il then f.get old else f.after old val := by
  rw [← get_regNew hf]
  split <;>
    next hty =>
      refine Fld.get_congr fun i hl hh => ?_
      simp only [getLsbD_regKeepIl hf old val hl hh, hty, if_true, if_false]

/-! The offset of a register. -/

theorem ofOff_mgmt {o : Nat} (hl : 0xF00000 ≤ o) (hh : o < 0x1000000) : Reg.ofOff o = Reg.ofMgmt (o - 0xF00000) := by
  have hb : Block.ofOff o = some (.mgmt, 0xF00000) := by
    unfold Block.ofOff
    simp (disch := omega) only [if_neg, if_pos]
  simp only [Reg.ofOff, hb, Reg.ofBlock]

/-- Within the mirror's copy of the SEC command buffer the offsets reach that buffer's registers (R598). -/
theorem ofOff_mirror {o : Nat} (hl : 0xF01000 ≤ o) (hh : o < 0xF01000 + 8 * 56) (h8 : o % 8 = 0) :
    Reg.ofOff o = some (.SEC_CMD_BUF 0 ((o - 0xF01000) / 8)) := by
  have hi : regIdx 0x1000 8 56 (o - 0xF00000) = some ((o - 0xF01000) / 8) := by
    rw [regIdx, if_pos (by omega), Nat.sub_sub]
  rw [ofOff_mgmt (by omega) (by omega), Reg.ofMgmt]
  simp only [hi]

/-- The offset of a register stands for itself: the mirror's offsets reach the SEC registers they stand for. -/
theorem aliasOf_off {r : Reg} (h : Reg.ofOff r.off = some r) : aliasOf r.off = r.off := by
  unfold aliasOf
  split
  · next ho =>
    rw [ofOff_mirror ho.1 ho.2 r.off_mod_eight, Option.some.injEq] at h
    have : 0x41000 + 0x200 * 0 + 0x8 * ((r.off - 0xF01000) / 8) = r.off := congrArg Reg.off h
    omega
  · split
    · next ho => rw [ho] at h; cases h; rfl
    · split
      · next ho => rw [ho] at h; cases h; rfl
      · rfl

theorem off_ne_of_ne {r q : Reg} (hr : Reg.ofOff r.off = some r) (hq : Reg.ofOff q.off = some q) (h : r ≠ q) :
    r.off ≠ q.off := fun e => h (by rw [e, hq] at hr; exact (Option.some.inj hr).symm)

theorem ofOff_hostAcc (f : FuncId) : Reg.ofOff (Reg.HOST_ACC f).off = some (.HOST_ACC f) := by
  revert f; decide

/-! One write of a cycle on the register bus. -/

/-! Where the answer of a write goes (R585). -/

@[simp] theorem State.accResult_eOk_rd (s : State) (m : Master) (off : Nat) (r : Reg) :
    (s.accResult m off eOk).rd r = s.rd r := by
  cases m <;> rfl

@[simp] theorem State.accResult_eOk_live (s : State) (m : Master) (off : Nat) : (s.accResult m off eOk).live = s.live := by
  cases m <;> rfl

theorem State.get_accResult_eOk (s : State) (m : Master) (off : Nat) (r : Reg) (f : Fld) :
    (s.accResult m off eOk).get r f = s.get r f := by
  rw [State.get, State.accResult_eOk_rd, State.get]

/-- The word of HOST_ACC after a failed access of code `code` at `off`, from the word it held. -/
def hostAccWord (w : W64) (code off : Nat) (bar2 : Bool) : W64 :=
  let w := HOST_ACC.COUNT.put w (min HOST_ACC.COUNT.max (HOST_ACC.COUNT.get w + 1))
  HOST_ACC.VALID.put (HOST_ACC.BAR2.put (HOST_ACC.OFFSET.put (HOST_ACC.ERR.put w code) off) bar2.toNat) 1

theorem State.rdOff_hostAcc (s : State) (f code off : Nat) (bar2 : Bool) (o : Nat) : (s.hostAcc f code off bar2).rdOff o =
    if o = (Reg.HOST_ACC f).off then hostAccWord (s.rd (.HOST_ACC f)) code off bar2 else s.rdOff o := by
  rw [State.hostAcc, State.rdOff_wr]
  split
  · rw [State.bump, State.rd_put_same]; rfl
  · next ho => rw [State.bump, State.put, State.rdOff_wr, if_neg ho]

theorem OnlyRegs.hostAcc {P : Nat → Prop} {s t : State} (h : OnlyRegs P s t) (f code off : Nat) (bar2 : Bool)
    (hf : P (Reg.HOST_ACC f).off) : OnlyRegs P s (t.hostAcc f code off bar2) :=
  (h.put _ _ _ hf).wr _ _ hf

/-- An answer reads and writes no register but HOST_ACC: with another one written before, it differs in that one only. -/
theorem OnlyRegs.accResult_wr {s : State} {r : Reg} (hr : ∀ f : FuncId, r.off ≠ (Reg.HOST_ACC f).off) (w : W64) (m : Master)
    (off code : Nat) : OnlyRegs (offs [r]) (s.accResult m off code) ((s.wr r w).accResult m off code) := by
  have hwr : OnlyRegs (offs [r]) s (s.wr r w) := OnlyRegs.refl.wr r w (by simp [offs])
  cases m with
  | host f =>
    simp only [State.accResult]
    split
    · exact hwr
    · refine ⟨rfl, fun o ho => ⟨?_, rfl⟩⟩
      have hor : o ≠ r.off := by simpa [offs] using ho
      rw [State.rdOff_hostAcc, State.rdOff_hostAcc, State.rd_wr_other _ _ _ _ (hr f).symm, State.rdOff_wr, if_neg hor]
  | mgmt => exact ⟨rfl, hwr.kept⟩
  | tap => exact ⟨rfl, hwr.kept⟩
  | thrA => exact hwr
  | thrB => exact hwr
  | reeve => exact hwr

theorem State.rd_accResult {s : State} {r : Reg} (hr : ∀ f : FuncId, r.off ≠ (Reg.HOST_ACC f).off) (m : Master)
    (off code : Nat) :
    (s.accResult m off code).rd r = s.rd r := by
  cases m with
  | host f =>
    simp only [State.accResult]
    split
    · rfl
    · rw [State.rd, State.rdOff_hostAcc, if_neg (hr f), State.rd]
  | _ => rfl

theorem off_ne_hostAcc {r : Reg} (h : Reg.ofOff r.off = some r) (hne : ∀ f, r ≠ .HOST_ACC f) (f : FuncId) :
    r.off ≠ (Reg.HOST_ACC f).off := off_ne_of_ne h (ofOff_hostAcc f) (hne f)

/-! One access. -/

/-- A whole-register access by `m` reaches `r`, and `m` may write it. -/
structure Arrives (s : State) (m : Master) (r : Reg) : Prop where
  bus : s.isOut 4 = false
  here : s.hostGone m = false
  addr : Reg.ofOff r.off = some r
  right : s.writeRight m r.off = eOk
  func : s.noFunc r = false

/-- The IL bits that a whole write of `r` leaves alone, in a cycle with these hardware updates (R6, R584). -/
def State.heldBits (s : State) (hw : List HwUpdate) (r : Reg) : W64 :=
  if leavesIdle hw r then r.bits [.il] else s.ilKept r r.off 8

/-- What a whole write of `val` makes of `r`. -/
def State.newWord (s : State) (hw : List HwUpdate) (r : Reg) (val : W64) : W64 :=
  (regNew r (s.stored r) val &&& ~~~s.heldBits hw r) ||| (s.stored r &&& s.heldBits hw r)

section
variable {s : State} {m : Master} {r : Reg} {val : W64} {hw : List HwUpdate}

theorem accessOk_reg (m : Master) (r : Reg) : accessOk m r.off 8 = true := by
  simp [accessOk, r.off_mod_eight]

theorem Arrives.busCode (h : Arrives s m r) (val : W64) (hw : List HwUpdate) : s.busCode m r.off 8 val hw =
    if s.writeErr m r (s.newWord hw r val) ≠ eOk then (s, s.writeErr m r (s.newWord hw r val))
    else ((s.effect m r val (s.newWord hw r val)).1,
      if s.heldBits hw r = 0 then (s.effect m r val (s.newWord hw r val)).2 else eCfgLocked) := by
  have h8 : r.off / 8 * 8 = r.off := Nat.div_mul_cancel (Nat.dvd_of_mod_eq_zero r.off_mod_eight)
  have hmask : ∀ w : W64, w &&& wholeMask r.off 8 = w := fun w => BitVec.and_allOnes
  rw [State.busCode, if_pos (accessOk_reg m r), State.busDo, h8, aliasOf_off h.addr]
  simp only [h.bus, h.right, h.addr, h.func, wholeWrite, hmask, State.newWord, State.heldBits, Bool.false_eq_true, if_false,
    if_true, ne_eq, not_true_eq_false] <;> rfl

/-- A write that is not refused whole. -/
theorem Arrives.busWrite (h : Arrives s m r) (he : s.writeErr m r (s.newWord hw r val) = eOk) :
    s.busWrite m r.off 8 val hw =
    (s.effect m r val (s.newWord hw r val)).1.accResult m r.off
      (if s.heldBits hw r = 0 then (s.effect m r val (s.newWord hw r val)).2 else eCfgLocked) := by
  simp [State.busWrite, h.here, accessOk_reg, h.busCode, he]

/-- A write that is refused. -/
theorem Arrives.busWrite_refused (h : Arrives s m r) (he : s.writeErr m r (s.newWord hw r val) ≠ eOk) :
    s.busWrite m r.off 8 val hw = s.accResult m r.off (s.writeErr m r (s.newWord hw r val)) := by
  simp [State.busWrite, h.here, accessOk_reg, h.busCode, he]

theorem Writes.arrives (h : Writes s m r val) : Arrives s m r := ⟨h.bus, h.here, h.addr, h.right, h.func⟩

theorem Writes.heldBits (h : Writes s m r val) (hw' : leavesIdle hw r = false) : s.heldBits hw r = 0 := by
  simp [State.heldBits, hw', h.idle]

theorem newWord_of_heldBits (h : s.heldBits hw r = 0) (val : W64) : s.newWord hw r val = regNew r (s.stored r) val := by
  simp only [State.newWord, h, BitVec.ofNat_eq_ofNat, BitVec.not_zero, BitVec.and_allOnes, BitVec.and_zero, BitVec.or_zero]

/-- A write that nothing keeps out takes its effect. -/
theorem Writes.busWrite (h : Writes s m r val) (hidle : leavesIdle hw r = false) : s.busWrite m r.off 8 val hw =
    (s.effect m r val (regNew r (s.stored r) val)).1.accResult m r.off (s.effect m r val (regNew r (s.stored r) val)).2 := by
  have hheld := h.heldBits hidle
  have hnew := newWord_of_heldBits hheld val
  rw [h.arrives.busWrite (by rw [hnew]; exact h.err), hnew, if_pos hheld]

end

/-! One cycle. -/

/-- A lone write of a cycle meets no other: the hardware updates that come first, the write, the updates that come last. -/
theorem exec_oneWrite (s : State) (x : RegWrite) (hw : List HwUpdate) : exec (.registerWrite ⟨[x], hw⟩) s =
    .next (hw.foldl (State.hwLast [x])
      ((hw.foldl State.hwFirst s).busWrite x.master x.off.toNat x.size x.val hw)) := by
  have hloses : s.loses [x] x = false := by simp [State.loses]
  have horder : ([1, 2, 0, 3, 4, 5].flatMap fun n => [x].filter fun y => y.master.port = n) = [x] := by
    obtain ⟨m, off, size, val⟩ := x
    cases m <;> rfl
  show Host.Outcome.next (s.busCycle [x] hw) = _
  rw [State.busCycle, horder]
  simp [hloses]

/-! Register writes (O57), clause by clause. -/

/-- The registers of the statement whose writes have no effect beyond the register. -/
def plainReg : Reg → Bool
  | .PWR_CTRL | .MGMT_ALERT | .MGMT_ALERT_EN | .PERF_CTL | .PERF_FUNC | .PERF_BW_CFG | .ERR_HOST => true
  | .PERF_CFG _ _ | .PERF_VALUE _ _ | .THR_PORT_CFG _ | .VAT_LANE_REMAP _ | .REEVE_VARIANT_CFG _ | .KVX_PORT_NET _ => true
  | _ => false

section
variable {s : State} {m : Master} {r : Reg} {val w : W64} {x : RegWrite}

theorem effect_plain (h : plainReg r = true) (s : State) (m : Master) (val w : W64) :
    s.effect m r val w = (s.wr r w, eOk) := by
  cases r <;> simp only [plainReg, Bool.false_eq_true] at h <;> rfl

theorem stored_plain (h : plainReg r = true) (s : State) : s.stored r = s.rd r := by
  cases r <;> simp only [plainReg, Bool.false_eq_true] at h <;> rfl

theorem plain_ne_hostAcc (h : plainReg r = true) (f : Nat) : r ≠ .HOST_ACC f := by
  rintro rfl
  cases h

theorem OnlyRegs.wr_accResult_eOk (s : State) (r : Reg) (w : W64) (m : Master) (off : Nat) :
    let t := (s.wr r w).accResult m off eOk
    OnlyRegs (offs [r]) { s with mgmtStatus := t.mgmtStatus, tapStatus := t.tapStatus } t := by
  have hkept : RegsKept (offs [r]) s (s.wr r w) := (OnlyRegs.refl.wr r w (by simp [offs])).kept
  cases m <;> exact ⟨rfl, hkept⟩

/-- A write that nothing keeps out and whose only effect is on its register. -/
theorem exec_write_plain (hp : plainReg r = true) (hoff : x.off.toNat = r.off) (hsize : x.size = 8)
    (h : Writes s x.master r x.val) : exec (.registerWrite ⟨[x], []⟩) s =
      .next ((s.wr r (regNew r (s.rd r) x.val)).accResult x.master r.off eOk) := by
  rw [exec_oneWrite, hoff, hsize]
  simp only [List.foldl_nil]
  rw [h.busWrite rfl, effect_plain hp, stored_plain hp]

/-- A write whose IL fields keep their values. -/
theorem exec_write_heldIl {hw : List HwUpdate} (h : Arrives s x.master r) (hoff : x.off.toNat = r.off) (hsize : x.size = 8)
    (heff : ∀ w, s.effect x.master r x.val w = (s.wr r w, eOk)) (hst : s.stored r = s.rd r)
    (hil : r.bits [.il] ≠ 0) (hheld : hw = [] ∧ s.ilKept r r.off 8 = r.bits [.il] ∨ hw = [.leavesIdle x.off])
    (herr : s.writeErr x.master r (regKeepIl r (s.stored r) x.val) = eOk) :
    exec (.registerWrite ⟨[x], hw⟩) s =
      .next ((s.wr r (regKeepIl r (s.rd r) x.val)).accResult x.master r.off eCfgLocked) := by
  have hbits : s.heldBits hw r = r.bits [.il] := by
    rcases hheld with ⟨rfl, hk⟩ | rfl
    · exact hk
    · simp [State.heldBits, leavesIdle, hoff]
  have hnew : s.newWord hw r x.val = regKeepIl r (s.stored r) x.val := by rw [State.newWord, hbits, regKeepIl]
  have hfirst : hw.foldl State.hwFirst s = s := by rcases hheld with ⟨rfl, -⟩ | rfl <;> rfl
  have hlast : ∀ t, hw.foldl (State.hwLast [x]) t = t := by
    intro t
    rcases hheld with ⟨rfl, -⟩ | rfl <;> rfl
  rw [exec_oneWrite, hoff, hsize, hfirst, hlast, h.busWrite (by rw [hnew]; exact herr), heff, hnew, hst, hbits, if_neg hil]

/-- What such a write leaves. -/
theorem after_heldIl (s : State) (haddr : Reg.ofOff r.off = some r) (hne : ∀ f, r ≠ .HOST_ACC f) (m : Master) (val : W64) :
    let t := (s.wr r (regKeepIl r (s.rd r) val)).accResult m r.off eCfgLocked
    (∀ f ∈ r.flds, f.ty = .il → t.get r f = s.get r f) ∧ (∀ f ∈ r.flds, f.ty = .rw → t.get r f = f.get val) ∧
      OnlyRegs (offs [r]) (s.accResult m r.off eCfgLocked) t := by
  have hoff := off_ne_hostAcc haddr fun f => hne f
  have hget : ∀ f ∈ r.flds, ((s.wr r (regKeepIl r (s.rd r) val)).accResult m r.off eCfgLocked).get r f =
      if f.ty = .il then s.get r f else f.after (s.rd r) val := fun f hf => by
    rw [State.get, State.rd_accResult hoff, State.rd_wr_same, get_regKeepIl hf, State.get]
  refine ⟨fun f hf hty => ?_, fun f hf hty => ?_, .accResult_wr hoff _ m _ _⟩
  · rw [hget f hf, if_pos hty]
  · rw [hget f hf, if_neg (by rw [hty]; decide), Fld.after, hty]

theorem effect_destCfg_enabled {d : Nat} (h : s.get (.KVX_DEST_CFG d) KVX_DEST_CFG.ENABLE = 1) (m : Master) (val w : W64) :
    s.effect m (.KVX_DEST_CFG d) val w = (s.wr (.KVX_DEST_CFG d) w, eOk) := by
  have h : KVX_DEST_CFG.ENABLE.get (s.rd (.KVX_DEST_CFG d)) = 1 := h
  simp [State.effect, h]

/-! What the hardware does in the cycle of a write (R584). -/

theorem get_regNew_sets {f : Fld} (hf : f ∈ r.flds) (hty : f.ty = .w1c) (old val bits : W64) :
    f.get (regNew r old val ||| (bits &&& r.bits [.w1c])) = f.get ((old &&& ~~~val) ||| bits) :=
  Fld.get_congr fun i hl hh => by
    simp only [BitVec.getLsbD_or, BitVec.getLsbD_and, BitVec.getLsbD_not, getLsbD_regNew hf old val hl hh,
      Reg.getLsbD_bits hf _ hl hh, hty, Nat.lt_of_le_of_lt hh (r.flds_lt f hf)]
    simp

theorem hwFirst_boundary {o : BitVec 26} (h : Reg.ofOff o.toNat = some r) (s : State) : s.hwFirst
    (.boundary o) = s.apply r := by
  dsimp only [State.hwFirst]
  rw [h]

theorem hwLast_sets {o : BitVec 26} (h : Reg.ofOff o.toNat = some r) (ws : List RegWrite) (s : State) (bits : W64) :
    State.hwLast ws s (.sets o bits) = s.wr r (s.rd r ||| (bits &&& r.bits [.w1c])) := by
  dsimp only [State.hwLast]
  rw [h]

theorem hwLast_counts {o : BitVec 26} (h : Reg.ofOff o.toNat = some r) (ws : List RegWrite) (s : State) (bits : W64) :
    State.hwLast ws s (.counts o bits) = s.hwCount r bits (ws.any fun x => x.off.toNat / 8 = o.toNat / 8) := by
  dsimp only [State.hwLast]
  rw [h]

theorem exec_write_sets {bits : W64} (hoff : x.off.toNat = (Reg.MGMT_ALERT).off) (hsize : x.size = 8)
    (h : Writes s x.master .MGMT_ALERT x.val) :
    ∃ t, exec (.registerWrite ⟨[x], [.sets x.off bits]⟩) s = .next t ∧
      ∀ f ∈ (Reg.MGMT_ALERT).flds, t.get .MGMT_ALERT f = f.get ((s.rd .MGMT_ALERT &&& ~~~x.val) ||| bits) := by
  have hx : Reg.ofOff x.off.toNat = some .MGMT_ALERT := hoff ▸ h.addr
  have hw1c : ∀ f ∈ (Reg.MGMT_ALERT).flds, f.ty = .w1c := of_decide_eq_true rfl
  have hidle : leavesIdle [.sets x.off bits] .MGMT_ALERT = false := rfl
  refine ⟨_, exec_oneWrite .., fun f hf => ?_⟩
  rw [List.foldl_cons, List.foldl_nil, List.foldl_cons, List.foldl_nil, hwLast_sets hx, State.get_wr_same]
  rw [show s.hwFirst (.sets x.off bits) = s from rfl, hoff, hsize, h.busWrite hidle, effect_plain rfl, stored_plain rfl,
    State.accResult_eOk_rd, State.rd_wr_same, get_regNew_sets hf (hw1c f hf)]

theorem hwCount_hbmEcc (t : State) (h : Nat) (b : Bool) :
    t.hwCount (.HBM_ECC h) HBM_ECC.CORR.mask b = t.bump (.HBM_ECC h) HBM_ECC.CORR := rfl

theorem exec_write_counts {i : Nat} (hoff : x.off.toNat = (Reg.HBM_ECC i).off) (hsize : x.size = 8)
    (h : Writes s x.master (.HBM_ECC i) x.val) (hclear : HBM_ECC.CLEAR.get x.val = 1) :
    ∃ t, exec (.registerWrite ⟨[x], [.counts x.off HBM_ECC.CORR.mask]⟩) s = .next t ∧
      t.get (.HBM_ECC i) HBM_ECC.CORR = 1 ∧ t.get (.HBM_ECC i) HBM_ECC.REREAD_OK = 0 ∧ t.get (.HBM_ECC i) HBM_ECC.POISONED = 0 := by
  have hx : Reg.ofOff x.off.toNat = some (.HBM_ECC i) := hoff ▸ h.addr
  have hidle : leavesIdle [.counts x.off HBM_ECC.CORR.mask] (.HBM_ECC i) = false := rfl
  have heff : ∀ w, s.effect x.master (.HBM_ECC i) x.val w = (s.wr (.HBM_ECC i) 0, eOk) := fun w => by
    simp [State.effect, hclear, State.clearStat]
  let cleared := (s.wr (.HBM_ECC i) 0).accResult x.master (Reg.HBM_ECC i).off eOk
  have hget : ∀ f, cleared.get (.HBM_ECC i) f = f.get 0 := fun f => by
    rw [State.get_accResult_eOk, State.get_wr_same]
  refine ⟨cleared.bump (.HBM_ECC i) HBM_ECC.CORR, ?_, ?_, ?_, ?_⟩
  · rw [exec_oneWrite, List.foldl_cons, List.foldl_nil, List.foldl_cons, List.foldl_nil, hwLast_counts hx, hwCount_hbmEcc,
      show s.hwFirst (.counts x.off HBM_ECC.CORR.mask) = s from rfl, hoff, hsize, h.busWrite hidle, heff]
  · rw [State.bump, State.get_put_same _ _ _ _ (by decide), hget]
    decide
  · rw [State.bump, State.get_put_fld _ _ _ _ _ (by decide) (by decide), hget]
    decide
  · rw [State.bump, State.get_put_fld _ _ _ _ _ (by decide) (by decide), hget]
    decide

/-- What keeps a write of PERF_BW_CFG out does not look at applied values. -/
theorem Writes.apply (h : Writes s m .PERF_BW_CFG val) (q : Reg) : Writes (s.apply q) m .PERF_BW_CFG val :=
  ⟨h.bus, h.here, h.addr, h.right, h.func, h.idle, h.err⟩

theorem exec_write_boundary (hoff : x.off.toNat = (Reg.PERF_BW_CFG).off) (hsize : x.size = 8)
    (h : Writes s x.master .PERF_BW_CFG x.val) :
    ∃ t, exec (.registerWrite ⟨[x], [.boundary x.off]⟩) s = .next t ∧
      (∀ f ∈ (Reg.PERF_BW_CFG).flds, t.get .PERF_BW_CFG f = f.get x.val) ∧
      Tab.get regReset t.live (Reg.PERF_BW_CFG).off = s.rd .PERF_BW_CFG := by
  have hx : Reg.ofOff x.off.toNat = some .PERF_BW_CFG := hoff ▸ h.addr
  have hst : ∀ f ∈ (Reg.PERF_BW_CFG).flds, f.ty = .st := of_decide_eq_true rfl
  have hidle : leavesIdle [.boundary x.off] .PERF_BW_CFG = false := rfl
  refine ⟨((s.apply .PERF_BW_CFG).wr .PERF_BW_CFG (regNew .PERF_BW_CFG (s.rd .PERF_BW_CFG) x.val)).accResult x.master
    (Reg.PERF_BW_CFG).off eOk, ?_, fun f hf => ?_, ?_⟩
  · rw [exec_oneWrite, List.foldl_cons, List.foldl_nil, List.foldl_cons, List.foldl_nil, hwFirst_boundary hx, hoff, hsize,
      (h.apply _).busWrite hidle, effect_plain rfl, stored_plain rfl]
    rfl
  · rw [State.get_accResult_eOk, State.get_wr_same, get_regNew hf, Fld.after, hst f hf]
  · rw [State.accResult_eOk_live]
    exact Tab.get_set_same ..

end

/-! Refused writes, races and reads (O57). -/

section
variable {s : State} {m : Master} {r : Reg} {val : W64} {x y : RegWrite}

/-! What keeps a write out. -/

theorem exec_write_busOut (hhere : s.hostGone x.master = false) (hacc : accessOk x.master x.off.toNat x.size = true)
    (hbus : s.isOut 4 = true) :
    exec (.registerWrite ⟨[x], []⟩) s = .next (s.accResult x.master x.off.toNat eUncorrectable) := by
  rw [exec_oneWrite]
  simp [State.busWrite, State.busCode, State.busDo, hhere, hacc, hbus]

/-- A whole write whose register is not even looked at ends with this code. -/
theorem exec_write_code (hhere : s.hostGone x.master = false) (hsize : x.size = 8) (h8 : x.off.toNat % 8 = 0) (e : Nat)
    (hdo : s.busDo x.master x.off.toNat 8 x.val = (s, e)) :
    exec (.registerWrite ⟨[x], []⟩) s = .next (s.accResult x.master x.off.toNat e) := by
  have hacc : accessOk x.master x.off.toNat 8 = true := by simp [accessOk, h8]
  rw [exec_oneWrite]
  simp [State.busWrite, State.busCode, hhere, hsize, hacc, hdo]

theorem busDo_locked (hbus : s.isOut 4 = false) {o : Nat} (h8 : o % 8 = 0) (halias : aliasOf o = o)
    (hright : s.writeRight m o = eCfgLocked) : s.busDo m o 8 val = (s, eCfgLocked) := by
  have ho : o / 8 * 8 = o := Nat.div_mul_cancel (Nat.dvd_of_mod_eq_zero h8)
  have hne : eCfgLocked ≠ eOk := by decide
  rw [State.busDo, ho, halias]
  simp only [hbus, hright, Bool.false_eq_true, if_false, if_pos hne]

theorem busDo_reserved (hbus : s.isOut 4 = false) {o : Nat} (h8 : o % 8 = 0) (halias : aliasOf o = o)
    (hnone : Reg.ofOff o = none) (hright : s.writeRight m o = eOk) : s.busDo m o 8 val = (s, eOk) := by
  have ho : o / 8 * 8 = o := Nat.div_mul_cancel (Nat.dvd_of_mod_eq_zero h8)
  rw [State.busDo, ho, halias]
  simp only [hbus, hright, hnone, Bool.false_eq_true, if_false, ne_eq, not_true_eq_false]

theorem exec_write_refused (h : Arrives s x.master r) (hoff : x.off.toNat = r.off) (hsize : x.size = 8)
    (he : s.writeErr x.master r (s.newWord [] r x.val) ≠ eOk) : exec (.registerWrite ⟨[x], []⟩) s =
      .next (s.accResult x.master x.off.toNat (s.writeErr x.master r (s.newWord [] r x.val))) := by
  rw [exec_oneWrite, hoff, hsize]
  exact congrArg Host.Outcome.next (h.busWrite_refused he)

/-! HOST_ACC (R585). -/

theorem get_hostAccWord (w : W64) {code off : Nat} (hc : code < 256) (ho : off < 2 ^ 26) :
    HOST_ACC.VALID.get (hostAccWord w code off false) = 1 ∧ HOST_ACC.ERR.get (hostAccWord w code off false) = code ∧
      HOST_ACC.OFFSET.get (hostAccWord w code off false) = off ∧ HOST_ACC.BAR2.get (hostAccWord w code off false) = 0 := by
  refine ⟨?_, ?_, ?_, ?_⟩
  · rw [hostAccWord, Fld.get_put _ _ _ (by decide)]
    rfl
  · rw [hostAccWord, Fld.get_put_other _ _ _ _ (by decide) (by decide), Fld.get_put_other _ _ _ _ (by decide) (by decide),
      Fld.get_put_other _ _ _ _ (by decide) (by decide), Fld.get_put _ _ _ (by decide)]
    exact Nat.mod_eq_of_lt hc
  · rw [hostAccWord, Fld.get_put_other _ _ _ _ (by decide) (by decide), Fld.get_put_other _ _ _ _ (by decide) (by decide),
      Fld.get_put _ _ _ (by decide)]
    exact Nat.mod_eq_of_lt ho
  · rw [hostAccWord, Fld.get_put_other _ _ _ _ (by decide) (by decide), Fld.get_put _ _ _ (by decide)]
    rfl

theorem get_hostAcc (s : State) (f code off : Nat) (bar2 : Bool) (g : Fld) : (s.hostAcc f code off bar2).get
    (.HOST_ACC f) g =
    g.get (hostAccWord (s.rd (.HOST_ACC f)) code off bar2) := by
  rw [State.get, State.rd, State.rdOff_hostAcc, if_pos rfl]

theorem accResult_host (s : State) (f : FuncId) (off : Nat) {code : Nat} (hc : code ≠ eOk) :
    s.accResult (.host f) off code = s.hostAcc f code off false := if_neg hc

theorem accResult_host_learns (s : State) (f : FuncId) {code off : Nat} (hc : code < 256) (hne : code ≠ eOk)
    (ho : off < 2 ^ 26) :
    let t := s.accResult (.host f) off code
    t.get (.HOST_ACC f) HOST_ACC.VALID = 1 ∧ t.get (.HOST_ACC f) HOST_ACC.ERR = code ∧
      t.get (.HOST_ACC f) HOST_ACC.OFFSET = off ∧ t.get (.HOST_ACC f) HOST_ACC.BAR2 = 0 ∧
      OnlyRegs (offs [.HOST_ACC f]) s t := by
  obtain ⟨hvalid, herr, hoff, hbar2⟩ := get_hostAccWord (s.rd (.HOST_ACC f)) hc ho
  simp only [accResult_host s f off hne, get_hostAcc]
  exact ⟨hvalid, herr, hoff, hbar2, OnlyRegs.refl.hostAcc _ _ _ _ (by simp [offs])⟩

/-! Two writes of one cycle (R582, R583). -/

theorem competes_reg (h : Arrives s x.master r) (hoff : x.off.toNat = r.off) (hsize : x.size = 8) :
    s.competes x = true := by
  have h8 : r.off / 8 * 8 = r.off := Nat.div_mul_cancel (Nat.dvd_of_mod_eq_zero r.off_mod_eight)
  simp [State.competes, h.here, hoff, hsize, accessOk_reg, h8, aliasOf_off h.addr, h.right]

/-- The management port's write and function 0's, in either order: the management port's comes first and does not lose. -/
theorem busCycle_mgmt_host {ws : List RegWrite} (hx : x.master = .mgmt) (hy : y.master = .host 0)
    (hws : ws = [x, y] ∨ ws = [y, x]) :
    s.busCycle ws [] =
      let t := s.busWrite .mgmt x.off.toNat x.size x.val
      if s.competes y && s.loses ws y then t.accResult (.host 0) y.off.toNat eLostRace
      else t.busWrite (.host 0) y.off.toNat y.size y.val := by
  have horder : ([1, 2, 0, 3, 4, 5].flatMap fun n => ws.filter fun z => z.master.port = n) = [x, y] := by
    rcases hws with rfl | rfl <;> simp [hx, hy, Master.port]
  have hloses : s.loses ws x = false := by
    have hrank : writeRank y.master < writeRank x.master ↔ False := by rw [hx, hy]; decide
    rcases hws with rfl | rfl <;> simp [State.loses, hrank]
  rw [State.busCycle, horder]
  simp [hloses, hx, hy]

/-- A write of PERF_FUNC by function 0 is kept out by nothing that a management write of another register changes. -/
theorem Writes.after_mgmt_pwrCtrl (h : Writes s (.host 0) .PERF_FUNC val) (w : W64) :
    Writes ((s.wr .PWR_CTRL w).accResult .mgmt (Reg.PWR_CTRL).off eOk) (.host 0) .PERF_FUNC val := by
  let t := (s.wr .PWR_CTRL w).accResult .mgmt (Reg.PWR_CTRL).off eOk
  have hout : ∀ u, t.isOut u = s.isOut u := fun u => by
    rw [State.isOut, State.get_accResult_eOk, State.get_wr_other _ _ _ _ _ (by decide), State.isOut]
  have hfunc : t.funcOn 0 = s.funcOn 0 := by
    rw [State.funcOn, hout]
    rfl
  have hhere : t.hostGone (.host 0) = s.hostGone (.host 0) := by
    simp only [State.hostGone, funcOf]
    rw [show (((0 : FuncId) : Nat)) = 0 from rfl, hfunc]
    rfl
  exact ⟨(hout 4).trans h.bus, hhere.trans h.here, h.addr, h.right, h.func, h.idle, rfl⟩

end

section
variable {s : State} {m : Master} {r : Reg} {val : W64} {x y : RegWrite}

theorem exec_mgmt_host {ws : List RegWrite} (hx : x.master = .mgmt) (hy : y.master = .host 0)
    (hws : ws = [x, y] ∨ ws = [y, x]) :
    exec (.registerWrite ⟨ws, []⟩) s = .next (s.busCycle ws []) := by
  have hports : onePerPort (ws.map RegWrite.master) = true := by
    rcases hws with rfl | rfl <;> simp [hx, hy, onePerPort, Master.port]
  simp [exec, execRegisterWrite, hports]

/-- The management port's write of PWR_CTRL, taken. -/
def State.setPwrCtrl (s : State) (val : W64) : State :=
  (s.wr .PWR_CTRL (regNew .PWR_CTRL (s.rd .PWR_CTRL) val)).accResult .mgmt (Reg.PWR_CTRL).off eOk

theorem busWrite_pwrCtrl (h : Writes s .mgmt .PWR_CTRL val) : s.busWrite .mgmt
    (Reg.PWR_CTRL).off 8 val = s.setPwrCtrl val := by
  have hidle : leavesIdle [] .PWR_CTRL = false := rfl
  rw [h.busWrite hidle, effect_plain rfl, stored_plain rfl, State.setPwrCtrl]

theorem setPwrCtrl_onlyRegs (s : State) (val : W64) : OnlyRegs (offs [.PWR_CTRL]) { s with mgmtStatus := eOk }
    (s.setPwrCtrl val) :=
  OnlyRegs.wr_accResult_eOk s .PWR_CTRL (regNew .PWR_CTRL (s.rd .PWR_CTRL) val) .mgmt _

theorem get_setPwrCtrl (s : State) (val : W64) {f : Fld} (hf : f ∈ (Reg.PWR_CTRL).flds) :
    (s.setPwrCtrl val).get .PWR_CTRL f = f.after (s.rd .PWR_CTRL) val := by
  rw [State.setPwrCtrl, State.get_accResult_eOk, State.get_wr_same, get_regNew hf]

/-- Function 0 writes the same register: it loses. -/
theorem exec_race_lost {ws : List RegWrite} (hx : x.master = .mgmt) (hy : y.master = .host 0)
    (hws : ws = [x, y] ∨ ws = [y, x])
    (hxoff : x.off.toNat = (Reg.PWR_CTRL).off ∧ x.size = 8) (hyoff : y.off.toNat = (Reg.PWR_CTRL).off ∧ y.size = 8)
    (hxw : Writes s .mgmt .PWR_CTRL x.val) (hyw : Writes s (.host 0) .PWR_CTRL y.val) :
    exec (.registerWrite ⟨ws, []⟩) s = .next ((s.setPwrCtrl x.val).accResult (.host 0) (Reg.PWR_CTRL).off eLostRace) := by
  have hax : Arrives s x.master .PWR_CTRL := hx ▸ hxw.arrives
  have hay : Arrives s y.master .PWR_CTRL := hy ▸ hyw.arrives
  have hcx : s.competes x = true := competes_reg hax hxoff.1 hxoff.2
  have hcy : s.competes y = true := competes_reg hay hyoff.1 hyoff.2
  have hmem : x ∈ ws := by rcases hws with rfl | rfl <;> simp
  have hrank : writeRank x.master < writeRank y.master := by rw [hx, hy]; decide
  have hly : s.loses ws y = true := by
    refine List.any_eq_true.2 ⟨x, hmem, ?_⟩
    simp [hcx, hrank, hxoff.1, hyoff.1]
  rw [exec_mgmt_host hx hy hws, busCycle_mgmt_host hx hy hws]
  simp only [hcy, hly, Bool.and_self, if_true, hxoff.1, hxoff.2, hyoff.1, busWrite_pwrCtrl hxw]

/-- What the two leave: the management port's value, and function 0 told of the race. -/
theorem after_race_lost (s : State) (val : W64) :
    let t := (s.setPwrCtrl val).accResult (.host 0) (Reg.PWR_CTRL).off eLostRace
    (∀ f ∈ (Reg.PWR_CTRL).flds, t.get .PWR_CTRL f = f.after (s.rd .PWR_CTRL) val) ∧ t.mgmtStatus = eOk ∧
      t.get (.HOST_ACC 0) HOST_ACC.VALID = 1 ∧ t.get (.HOST_ACC 0) HOST_ACC.ERR = eLostRace ∧
      t.get (.HOST_ACC 0) HOST_ACC.OFFSET = (Reg.PWR_CTRL).off ∧
      OnlyRegs (offs [.PWR_CTRL, .HOST_ACC 0]) { s with mgmtStatus := eOk } t := by
  have hne : ∀ f : FuncId, (Reg.PWR_CTRL).off ≠ (Reg.HOST_ACC f).off := off_ne_hostAcc rfl nofun
  obtain ⟨hvalid, herr, hoff, -, honly⟩ :=
    accResult_host_learns (s.setPwrCtrl val) 0 (by decide : eLostRace < 256) (by decide)
      (by decide : (Reg.PWR_CTRL).off < 2 ^ 26)
  refine ⟨fun f hf => ?_, rfl, hvalid, herr, hoff, ?_⟩
  · rw [State.get, State.rd_accResult hne]
    exact get_setPwrCtrl s val hf
  · exact ((setPwrCtrl_onlyRegs s val).mono fun o ho => by simp_all [offs]).trans
      (honly.mono fun o ho => by simp_all [offs])

/-- Function 0 writes another register: both apply. -/
theorem exec_both (hx : x.master = .mgmt) (hy : y.master = .host 0)
    (hxoff : x.off.toNat = (Reg.PWR_CTRL).off ∧ x.size = 8) (hyoff : y.off.toNat = (Reg.PERF_FUNC).off ∧ y.size = 8)
    (hxw : Writes s .mgmt .PWR_CTRL x.val) (hyw : Writes s (.host 0) .PERF_FUNC y.val) :
    exec (.registerWrite ⟨[x, y], []⟩) s =
      .next ((s.setPwrCtrl x.val).wr .PERF_FUNC (regNew .PERF_FUNC ((s.setPwrCtrl x.val).rd .PERF_FUNC) y.val)) := by
  have halias : aliasOf ((Reg.PWR_CTRL).off / 8 * 8) ≠ aliasOf ((Reg.PERF_FUNC).off / 8 * 8) := by decide
  have hly : s.loses [x, y] y = false := by simp [State.loses, hxoff.1, hyoff.1, halias]
  have hidle : leavesIdle [] .PERF_FUNC = false := rfl
  have hafter : Writes (s.setPwrCtrl x.val) (.host 0) .PERF_FUNC y.val := hyw.after_mgmt_pwrCtrl _
  rw [exec_mgmt_host hx hy (.inl rfl), busCycle_mgmt_host hx hy (.inl rfl)]
  simp only [hly, Bool.and_false, Bool.false_eq_true, if_false, hxoff.1, hxoff.2, hyoff.1, hyoff.2, busWrite_pwrCtrl hxw]
  rw [hafter.busWrite hidle, effect_plain rfl, stored_plain rfl]
  rfl

theorem after_both (s : State) (val val' : W64) :
    let t := (s.setPwrCtrl val).wr .PERF_FUNC (regNew .PERF_FUNC ((s.setPwrCtrl val).rd .PERF_FUNC) val')
    (∀ f ∈ (Reg.PWR_CTRL).flds, t.get .PWR_CTRL f = f.after (s.rd .PWR_CTRL) val) ∧
      (∀ f ∈ (Reg.PERF_FUNC).flds, t.get .PERF_FUNC f = f.after (s.rd .PERF_FUNC) val') ∧
      OnlyRegs (offs [.PWR_CTRL, .PERF_FUNC]) { s with mgmtStatus := eOk } t := by
  have hrd : (s.setPwrCtrl val).rd .PERF_FUNC = s.rd .PERF_FUNC :=
    (setPwrCtrl_onlyRegs s val).kept.rd .PERF_FUNC (by simp [offs, Reg.off])
  refine ⟨fun f hf => ?_, fun f hf => ?_, ?_⟩
  · rw [State.get_wr_other _ _ _ _ _ (by decide), get_setPwrCtrl s val hf]
  · rw [State.get_wr_same, get_regNew hf, hrd]
  · exact ((setPwrCtrl_onlyRegs s val).mono fun o ho => by simp_all [offs]).wr _ _ (by simp [offs])

theorem busRead_reg {b : Block} {i : Nat} (haddr : Reg.ofOff r.off = some r)
    (hblock : Block.ofOff r.off = some (b, i)) (m : Master) :
    s.busRead m r.off = if s.isOut 4 then (0, eUncorrectable)
      else if s.reaches m r.off b (some r) false then (s.view r &&& ~~~Reg.bits r [.wo], eOk) else (0, eCfgLocked) := by
  have h8 : r.off / 8 * 8 = r.off := Nat.div_mul_cancel (Nat.dvd_of_mod_eq_zero r.off_mod_eight)
  rw [State.busRead, h8, aliasOf_off haddr]
  simp only [hblock, haddr]
  cases s.reaches m r.off b (some r) false <;> rfl

end

/-- Settles O57: clause by clause, with `Fld.after` as R4's table of field types. -/
theorem registerWritesRun : Obligations.RegisterWritesRun := by
  unfold Obligations.RegisterWritesRun
  intro plain took onto others
  refine ⟨?_, ?_, ?_, ?_, ?_, ?_, ?_, ?_⟩
  · rintro s x r hp ⟨hoff, hsize⟩ h
    have hp : plainReg r = true := hp
    refine ⟨_, exec_write_plain hp hoff hsize h, fun f hf => ?_, .wr_accResult_eOk ..⟩
    rw [State.get_accResult_eOk, State.get_wr_same, get_regNew hf]
    rfl
  · rintro s x r hw hp ⟨hoff, hsize⟩ hbus hhere haddr hright hfunc il hheld herr
    have hheld : (hw = [] ∧ s.ilKept r r.off 8 = r.bits [.il] ∨ hw = [.leavesIdle x.off]) ∧ r.bits [.il] ≠ 0 := by
      rcases hheld with ⟨hhw, hk, hil⟩ | ⟨hhw, hil⟩
      · exact ⟨.inl ⟨hhw, hk⟩, hil⟩
      · exact ⟨.inr hhw, hil⟩
    have harr : Arrives s x.master r := ⟨hbus, hhere, haddr, hright, hfunc⟩
    rcases hp with hp | ⟨d, rfl, hen, -⟩
    · exact ⟨_, exec_write_heldIl harr hoff hsize (effect_plain hp s _ _) (stored_plain hp s) hheld.2 hheld.1 herr,
        after_heldIl s haddr (plain_ne_hostAcc hp) _ _⟩
    · exact ⟨_, exec_write_heldIl harr hoff hsize (effect_destCfg_enabled hen _ _) rfl hheld.2 hheld.1 herr,
        after_heldIl s haddr nofun _ _⟩
  · rintro s x r ⟨hoff, hsize⟩ h
    refine ⟨?_, ?_, ?_⟩
    · rintro bits rfl
      exact exec_write_sets hoff hsize h
    · rintro i rfl hclear
      exact exec_write_counts hoff hsize h hclear
    · rintro rfl
      exact exec_write_boundary hoff hsize h
  · exact fun s x hhere hacc hbus => exec_write_busOut hhere hacc hbus
  · intro s x hsize h8 hbus hhere halias
    refine ⟨fun hright => ?_, fun hnone hright => ?_, ?_⟩
    · exact exec_write_code hhere hsize h8 _ (busDo_locked hbus h8 halias hright)
    · exact exec_write_code hhere hsize h8 _ (busDo_reserved hbus h8 halias hnone hright)
    · rintro r ⟨hoff, -⟩ haddr hright hfunc kept e he
      exact exec_write_refused ⟨hbus, hhere, haddr, hright, hfunc⟩ hoff hsize he
  · exact fun s code off hc hne ho => ⟨rfl, rfl, rfl, fun f => accResult_host_learns s f hc hne ho⟩
  · rintro s x y hx hy hxoff hxw
    refine ⟨fun hyoff hyw => ?_, fun hyoff hyw => ?_⟩
    · obtain ⟨htook, hrest⟩ := after_race_lost s x.val
      exact ⟨_, exec_race_lost hx hy (.inl rfl) hxoff hyoff hxw hyw, exec_race_lost hx hy (.inr rfl) hxoff hyoff hxw hyw,
        htook, hrest⟩
    · exact ⟨_, exec_both hx hy hxoff hyoff hxw hyw, after_both s x.val y.val⟩
  · exact fun s m r b i haddr hblock _ _ => busRead_reg haddr hblock m

end Sys2Proof.Machine
